-- ==== Sys2Proof/Word.lean ====
section
/-! DEFINITION. The fixed bit widths of the machine and the numbers that name its registers. -/

namespace Sys2Proof

/-- A byte of memory. -/
abbrev Byte := BitVec 8
/-- One instruction word (R47), or one 32-bit container of a vector register (R16). -/
abbrev Half := BitVec 32
/-- The contents of a 64-bit register (R15). -/
abbrev Word := BitVec 64

/-- Number of an x, f or v register (R15). -/
abbrev Reg := Fin 32
/-- Number of a mask register k0 to k7 (R15). -/
abbrev KReg := Fin 8
/-- Number of a tile, m0 or m1 (R19). -/
abbrev Tile := Fin 2
/-- Number of a stream register st0 to st7 (R15). -/
abbrev Stream := Fin 8
/-- The hint bits of a 64-bit instruction (R83). -/
abbrev Hint := BitVec 4

end Sys2Proof
end

