-- ==== Sys2Proof/Config.lean ====
section
/-! DEFINITION. Values that the spec leaves open: constants without a body, so that no proof can rest on a
particular value of one. Each is named in a log entry. -/

namespace Sys2Proof.Config

/-- Seed of a task, farm or collective handle that hardware chooses (R314, R320, R274; log 9). -/
opaque handleSeed : Nat → Half
/-- Signature of a measurement response by a leaf of the identity key (R504; log 8). -/
opaque signature : Nat → List Byte → List Byte
/-- Reading of a platform sensor (R502; log 8). -/
opaque sensorValue : Nat → Nat → Word

/-- Whether the operation of an atomic that timed out reached host memory (R165; log 11). -/
opaque timedOutApplied : Nat → Bool
/-- Reason of a code-integrity mark, which the call that sets it does not state (R471, R508; log 12). -/
opaque codeFailReason : Nat → Bool
/-- What CTXAREA gives for a live hart that has no context area yet (R508, R443; log 9). -/
opaque noArea : Nat → Word
/-- The die and the place, the older swap-out being 0, whose shadow storage holds an address of Keystone's range (R367, R455; log 9). -/
opaque shadowSlot : Nat → Option (Nat × Nat)
/-- CRC of the 64 bytes of a sector on a Mortar link, whose polynomial is not given (R391; log 9). -/
opaque sectorCrc : List Byte → BitVec 16
/-- Fingerprint of a group record with its member list (R406; log 9). -/
opaque fingerprint : List Byte → Word

end Sys2Proof.Config
end

