-- ==== Sys2Proof/Syntax.lean ====
section
/-! DEFINITION. The instructions and the events of the part: one constructor of `Instr` for each row of the opcode
table, with its operands. Register numbers, formats and codes are names, not bits. -/

namespace Sys2Proof

/-- Element formats, in the order of their codes (R57, Table 2.4). -/
inductive Fmt where
  | i8 | n8 | i16 | n16 | i32 | n32 | i64 | n64 | f16 | bf16 | f32 | f64 | e4m3 | e5m2 | e2m1 | e8m0
deriving DecidableEq, Repr

/-- Rounding-mode codes (R58, Table 2.5); `dyn` takes the mode of fcsr or vfcsr. -/
inductive Rm where
  | dyn | rne | rtz | rup | rdn | rna
deriving DecidableEq, Repr

/-- Ordering codes (R59, Table 2.6). -/
inductive Order where
  | relaxed | acquire | release | acqRel
deriving DecidableEq, Repr

/-- Scope codes (R59, Table 2.6). -/
inductive Scope where
  | hart | core | cluster | die | package | system
deriving DecidableEq, Repr

/-- Condition codes of the vector compares (R84). -/
inductive Cond where
  | eq | ne | lt | le | gt | ge | un | ord
deriving DecidableEq, Repr

/-- Operation of a collective (R88). -/
inductive CollOp where
  | sum | min | max
deriving DecidableEq, Repr

/-- Second source of a vector instruction: a vector register, or the broadcast of a scalar register (R186). -/
inductive Src2 where
  | vec (v : Reg)
  | scal (x : Reg)
deriving DecidableEq, Repr

/-! ### Operands of the 64-bit instructions (R55, R56, R84 to R88) -/

/-- setvl and msetvl (XE). -/
structure SetLen where
  xd : Reg
  req : Reg
  fmt : Fmt
  hint : Hint
deriving DecidableEq, Repr

/-- Two vector sources under a mask. -/
structure VBin where
  vd : Reg
  vs1 : Reg
  src2 : Src2
  k : KReg
  fmt : Fmt
  hint : Hint
deriving DecidableEq, Repr

/-- One vector source under a mask. -/
structure VUn where
  vd : Reg
  vs1 : Reg
  k : KReg
  fmt : Fmt
  hint : Hint
deriving DecidableEq, Repr

/-- A compare into a mask register. -/
structure VCmp where
  kd : KReg
  vs1 : Reg
  src2 : Src2
  cond : Cond
  k : KReg
  fmt : Fmt
  hint : Hint
deriving DecidableEq, Repr

/-- vmvx: one element to an x register. -/
structure VExt where
  xd : Reg
  vs1 : Reg
  xs : Reg
  k : KReg
  fmt : Fmt
  hint : Hint
deriving DecidableEq, Repr

/-- vid: the element index. -/
structure VIdx where
  vd : Reg
  k : KReg
  fmt : Fmt
  hint : Hint
deriving DecidableEq, Repr

/-- Two sources, with rounding and flushing. -/
structure VFBin where
  vd : Reg
  vs1 : Reg
  src2 : Src2
  k : KReg
  fmt : Fmt
  rm : Rm
  flush : Bool
  hint : Hint
deriving DecidableEq, Repr

/-- vfsqrt. -/
structure VFUn where
  vd : Reg
  vs1 : Reg
  k : KReg
  fmt : Fmt
  rm : Rm
  flush : Bool
  hint : Hint
deriving DecidableEq, Repr

/-- The fused rows; vs3 is the addend. -/
structure VFTern where
  vd : Reg
  vs1 : Reg
  vs2 : Reg
  vs3 : Reg
  k : KReg
  fmt : Fmt
  rm : Rm
  flush : Bool
  hint : Hint
deriving DecidableEq, Repr

/-- vfcvt, with destination and source format. -/
structure VCvt where
  vd : Reg
  vs1 : Reg
  k : KReg
  dst : Fmt
  src : Fmt
  rm : Rm
  flush : Bool
  sat : Bool
  hint : Hint
deriving DecidableEq, Repr

/-- vld and vst: consecutive elements. -/
structure VMem where
  v : Reg
  base : Reg
  k : KReg
  fmt : Fmt
  off : BitVec 11
  hint : Hint
deriving DecidableEq, Repr

/-- The strided and the indexed forms; `ix` names the stride's x register or the index vector. -/
structure VMemIx where
  v : Reg
  base : Reg
  ix : Reg
  k : KReg
  fmt : Fmt
  off : BitVec 11
  hint : Hint
deriving DecidableEq, Repr

/-- vld.st: elements of a stream. -/
structure VPop where
  vd : Reg
  st : Stream
  k : KReg
  fmt : Fmt
  hint : Hint
deriving DecidableEq, Repr

/-- The slides; `xs` holds the amount. -/
structure VSlide where
  vd : Reg
  vs1 : Reg
  xs : Reg
  k : KReg
  fmt : Fmt
  hint : Hint
deriving DecidableEq, Repr

/-- vperm; vs2 holds the indices. -/
structure VPermute where
  vd : Reg
  vs1 : Reg
  vs2 : Reg
  k : KReg
  fmt : Fmt
  hint : Hint
deriving DecidableEq, Repr

/-- The register reductions. -/
structure VRed where
  vd : Reg
  vs1 : Reg
  vs2 : Reg
  k : KReg
  fmt : Fmt
  rm : Rm
  flush : Bool
  hint : Hint
deriving DecidableEq, Repr

/-- vredq; `xs` holds the queue number. -/
structure VRedQ where
  vd : Reg
  vs2 : Reg
  xs : Reg
  fmt : Fmt
  flush : Bool
  hint : Hint
deriving DecidableEq, Repr

/-- The special functions. -/
structure VSpec where
  vd : Reg
  vs1 : Reg
  k : KReg
  fmt : Fmt
  flush : Bool
  hint : Hint
deriving DecidableEq, Repr

/-- mopa and mopa4. -/
structure TOuter where
  md : Tile
  vs1 : Reg
  vs2 : Reg
  fmt : Fmt
  rm : Rm
  hint : Hint
deriving DecidableEq, Repr

/-- mopas, with the registers of the row and the column scales. -/
structure TScaled where
  md : Tile
  vs1 : Reg
  vs2 : Reg
  sa : Reg
  sb : Reg
  fmt : Fmt
  rm : Rm
  hint : Hint
deriving DecidableEq, Repr

/-- mld and mst. -/
structure TMem where
  md : Tile
  base : Reg
  pitch : Reg
  hint : Hint
deriving DecidableEq, Repr

/-- mrow and mcol; `toTile` is DIR. -/
structure TLine where
  v : Reg
  tile : Tile
  xs : Reg
  toTile : Bool
  hint : Hint
deriving DecidableEq, Repr

/-- Where a copy delivers its completion (R88, MBX). -/
inductive Deliver where
  | barrier (b : Fin 64)
  | mailbox
deriving DecidableEq, Repr

/-- cpy. -/
structure CopyOp where
  xd : Reg
  dst : Reg
  src : Reg
  len : Reg
  dlv : Deliver
  hint : Hint
deriving DecidableEq, Repr

/-- cpyt; `boxDst` is BOX: the handle describes the destination box. -/
structure CopyBox where
  xd : Reg
  dst : Reg
  src : Reg
  handle : Reg
  dlv : Deliver
  boxDst : Bool
  hint : Hint
deriving DecidableEq, Repr

/-- coll. -/
structure CollArgs where
  xd : Reg
  dst : Reg
  src : Reg
  count : Reg
  group : Fin 64
  fmt : Fmt
  scope : Scope
  op : CollOp
  hint : Hint
deriving DecidableEq, Repr

/-! ### What the events name -/

/-- A hart of a partition (R412). -/
structure HartKey where
  part : Fin 17
  id : Nat
deriving DecidableEq, Repr

/-- An agent watched by the liveness monitor (R382). -/
inductive Agent where
  | die (d : Fin 6)
  | port (n : Fin 2)
  | link (n : Fin 9)
deriving DecidableEq, Repr

/-- What comes back for the lane cluster or the row that a vector access awaits (R209). -/
inductive Reply where
  | data
  | error (elem : Nat)
  | dead (elem : Nat)
deriving DecidableEq, Repr

/-- A 64-byte sector whose transfer by Husky found an error (R251, R263): side, virtual address of the sector, and
whether its completer is dead. -/
structure SectorError where
  src : Bool
  addr : Word
  dead : Bool
deriving DecidableEq, Repr

/-- What another package's engine sends for a collective operation (R406, R407). -/
inductive CollNews where
  | issued (rank : Nat) (fmt : Fmt) (op : CollOp) (scope : Scope) (count : Word) (record : Word)
  | value (rank level first : Nat) (elems : List Word)
  | result (first : Nat) (elems : List Word)
  | fault
deriving DecidableEq, Repr

/-- Completion of a PCIe request (R164 to R166). -/
inductive PcieReply where
  | ok (value : Word)
  | unsupported
  | abort
  | poisoned
deriving DecidableEq, Repr

/-- A completion with the incarnation it bears (R383); `sector` where it answers the read of a sector that another stream than the scalar one has
sent: the sector, and its bytes where the read has succeeded. -/
structure PcieAnswer where
  reply : PcieReply
  inc : BitVec 16
  sector : Option (Nat × List Byte)
deriving DecidableEq, Repr

/-- A host's message about a sector of its memory over CXL.cache: the sector, and the incarnation the message bears; `write` where it completes a WrCur (R379, R383). -/
structure CacheMsg where
  sector : Nat
  inc : BitVec 16
  write : Bool
deriving DecidableEq, Repr

/-- A host's message about a sector of HBM over CXL.mem: the sector, the port it comes through and its incarnation (R380, R383). -/
structure MemMsg where
  sector : Nat
  port : Fin 2
  inc : BitVec 16
deriving DecidableEq, Repr

/-- Host registers (R7, Tables 16.4, 19.2 and 22.6, and Device Control 2 of a port, R165). -/
inductive HostReg where
  | qbase (p : Fin 16) (q : Fin 4)
  | pcmd
  | parg
  | pstat
  | pterm
  | featsup
  | featreq
  | devctl2 (n : Fin 2)
  | other (offset : Nat)
deriving DecidableEq, Repr

/-- A word of a sector as a Mortar link codes it (R391). -/
inductive LinkWord where
  | zero
  | slot (n : Fin 256)
  | raw (w : Word)
  | same
deriving DecidableEq, Repr

/-- A sensor read over the side-band port (R502). -/
inductive Sensor where
  | temperature (island : Fin 24)
  | power
  | mecc (die : Fin 6)
  | linkResets (link : Fin 9)
deriving DecidableEq, Repr

/-- An image that boot verifies (R503): its security version, its bytes and its LMS signature. -/
structure Image where
  version : Nat
  bytes : List Byte
  signature : List Byte
deriving DecidableEq, Repr

/-- What a boot is given besides the images (Table 22.3): the mode of each host port, true for CXL (R395); the package number that the fabric manager
assigns (R402); the host-write window that step 4 fixes (R506); and the cores whose local store fails the self-test of step 2 (R501). -/
structure Boot where
  cxl : List Bool
  pkg : BitVec 16
  window : Nat × Nat
  failed : List Nat
deriving DecidableEq, Repr

/-- What a COMMIT_SVN request brings (R505): whether it comes inside an SPDM session, whether the requester's certificate chain holds, and the key
that the chain is rooted in. -/
structure Authority where
  session : Bool
  chain : Bool
  key : List Byte
deriving DecidableEq, Repr

/-- The instructions of the part and the events that its units, its hosts and its firmware bring about. -/
inductive Instr where
  -- Integer and address (R121 to R126)
  | add (d a b : Reg)
  | sub (d a b : Reg)
  | and (d a b : Reg)
  | or (d a b : Reg)
  | xor (d a b : Reg)
  | andn (d a b : Reg)
  | sll (d a b : Reg)
  | srl (d a b : Reg)
  | sra (d a b : Reg)
  | rol (d a b : Reg)
  | ror (d a b : Reg)
  | slt (d a b : Reg)
  | sltn (d a b : Reg)
  | min (d a b : Reg)
  | max (d a b : Reg)
  | minn (d a b : Reg)
  | maxn (d a b : Reg)
  | mul (d a b : Reg)
  | mulh (d a b : Reg)
  | mulhn (d a b : Reg)
  | div (d a b : Reg)
  | divn (d a b : Reg)
  | rem (d a b : Reg)
  | remn (d a b : Reg)
  | sadd1 (d a b : Reg)
  | sadd2 (d a b : Reg)
  | sadd3 (d a b : Reg)
  | bext (d a b : Reg)
  | bins (d a b : Reg)
  | clz (d a : Reg)
  | ctz (d a : Reg)
  | popc (d a : Reg)
  | sext_b (d a : Reg)
  | sext_h (d a : Reg)
  | sext_w (d a : Reg)
  | zext_b (d a : Reg)
  | zext_h (d a : Reg)
  | zext_w (d a : Reg)
  | addi (d a : Reg) (imm : BitVec 16)
  | andi (d a : Reg) (imm : BitVec 16)
  | ori (d a : Reg) (imm : BitVec 16)
  | xori (d a : Reg) (imm : BitVec 16)
  | slti (d a : Reg) (imm : BitVec 16)
  | slli (d a : Reg) (sh : BitVec 6)
  | srli (d a : Reg) (sh : BitVec 6)
  | srai (d a : Reg) (sh : BitVec 6)
  | lup (d : Reg) (imm : BitVec 21)
  | pcadd (d : Reg) (imm : BitVec 21)
  -- Control (R127 to R132)
  | beq (a b : Reg) (off : BitVec 16)
  | bne (a b : Reg) (off : BitVec 16)
  | blt (a b : Reg) (off : BitVec 16)
  | bge (a b : Reg) (off : BitVec 16)
  | bltn (a b : Reg) (off : BitVec 16)
  | bgen (a b : Reg) (off : BitVec 16)
  | j (off : BitVec 26)
  | call (off : BitVec 26)
  | jx (a : Reg)
  | callx (d a : Reg)
  | ret (a : Reg)
  -- Scalar memory (R149, R150)
  | ldb (d a : Reg) (imm : BitVec 16)
  | ldbz (d a : Reg) (imm : BitVec 16)
  | ldh (d a : Reg) (imm : BitVec 16)
  | ldhz (d a : Reg) (imm : BitVec 16)
  | ldw (d a : Reg) (imm : BitVec 16)
  | ldwz (d a : Reg) (imm : BitVec 16)
  | ldd (d a : Reg) (imm : BitVec 16)
  | stb (src a : Reg) (imm : BitVec 16)
  | sth (src a : Reg) (imm : BitVec 16)
  | stw (src a : Reg) (imm : BitVec 16)
  | std (src a : Reg) (imm : BitVec 16)
  -- Atomics (R156 to R160)
  | amoadd_w (d a b : Reg) (o : Order) (sc : Scope)
  | amoand_w (d a b : Reg) (o : Order) (sc : Scope)
  | amoor_w (d a b : Reg) (o : Order) (sc : Scope)
  | amoxor_w (d a b : Reg) (o : Order) (sc : Scope)
  | amomin_w (d a b : Reg) (o : Order) (sc : Scope)
  | amomax_w (d a b : Reg) (o : Order) (sc : Scope)
  | amominn_w (d a b : Reg) (o : Order) (sc : Scope)
  | amomaxn_w (d a b : Reg) (o : Order) (sc : Scope)
  | amoswp_w (d a b : Reg) (o : Order) (sc : Scope)
  | amoadd_d (d a b : Reg) (o : Order) (sc : Scope)
  | amoand_d (d a b : Reg) (o : Order) (sc : Scope)
  | amoor_d (d a b : Reg) (o : Order) (sc : Scope)
  | amoxor_d (d a b : Reg) (o : Order) (sc : Scope)
  | amomin_d (d a b : Reg) (o : Order) (sc : Scope)
  | amomax_d (d a b : Reg) (o : Order) (sc : Scope)
  | amominn_d (d a b : Reg) (o : Order) (sc : Scope)
  | amomaxn_d (d a b : Reg) (o : Order) (sc : Scope)
  | amoswp_d (d a b : Reg) (o : Order) (sc : Scope)
  | amocas_w (d a b : Reg) (o : Order) (sc : Scope)
  | amocas_d (d a b : Reg) (o : Order) (sc : Scope)
  | ldres_w (d a : Reg) (o : Order) (sc : Scope)
  | ldres_d (d a : Reg) (o : Order) (sc : Scope)
  | stcond_w (d a b : Reg) (o : Order) (sc : Scope)
  | stcond_d (d a b : Reg) (o : Order) (sc : Scope)
  -- Scalar floating point (R169 to R172); `wide` is W
  | fadd (d a b : Reg) (wide : Bool) (rm : Rm)
  | fsub (d a b : Reg) (wide : Bool) (rm : Rm)
  | fmul (d a b : Reg) (wide : Bool) (rm : Rm)
  | fdiv (d a b : Reg) (wide : Bool) (rm : Rm)
  | fsqrt (d a : Reg) (wide : Bool) (rm : Rm)
  | fmin (d a b : Reg) (wide : Bool)
  | fmax (d a b : Reg) (wide : Bool)
  | fcmpeq (d a b : Reg) (wide : Bool)
  | fcmplt (d a b : Reg) (wide : Bool)
  | fcmple (d a b : Reg) (wide : Bool)
  | fsgn (d a b : Reg) (wide : Bool)
  | fclass (d a : Reg) (wide : Bool)
  | fneg (d a : Reg) (wide : Bool)
  | fabs (d a : Reg) (wide : Bool)
  | fma (d a b c : Reg) (wide : Bool) (rm : Rm)
  | fms (d a b c : Reg) (wide : Bool) (rm : Rm)
  | fnma (d a b c : Reg) (wide : Bool) (rm : Rm)
  | fcvt (d a : Reg) (dst src : Fmt) (rm : Rm)
  | fmvx (d a : Reg)
  | fmvf (d a : Reg)
  -- CSR, trap and system (R323 to R327, R332, R334)
  | csrrd (d : Reg) (csr : BitVec 12)
  | csrwr (d a : Reg) (csr : BitVec 12)
  | csrset (d a : Reg) (csr : BitVec 12)
  | csrclr (d a : Reg) (csr : BitVec 12)
  | cinv (a b : Reg)
  | cwb (a b : Reg)
  | cflush (a b : Reg)
  | vquery (d a b : Reg)
  | vdrop (d a : Reg)
  | tdget (d a b : Reg)
  -- Synchronisation (R298 to R306)
  | fence (o : Order) (sc : Scope)
  | rfence (o : Order) (sc : Scope) (mask : BitVec 8)
  | rslot (slot : Fin 8) (a b : Reg)
  | rslott (slot : Fin 8) (a : Reg)
  | barInit (a b : Reg) (sc : Scope)
  | barArrive (a : Reg) (sc : Scope)
  | barWait (a : Reg) (sc : Scope)
  -- Tasks and farms (R313 to R322)
  | launch (d a b : Reg)
  | join (d a : Reg)
  | farm (d a : Reg)
  | fclaim (d a : Reg)
  | wmpub (a b : Reg)
  | wmwait (a b : Reg)
  -- Hints (R82); `nullHint` stands for every 0x37 word without an assigned hint
  | nullHint (bits : BitVec 26)
  | hintClass (cls : Fin 4)
  | hintPref (write : Bool) (a : Reg) (len : BitVec 16)
  | hintLive (hi : Bool) (mask : BitVec 16)
  | hintFuse (n : BitVec 3)
  | hintPause (cycles : BitVec 16)
  | hintPlace (die : BitVec 3) (valid : Bool) (cluster : BitVec 2)
  -- Vector configuration and integer (R85)
  | setvl (o : SetLen)
  | vadd (o : VBin)
  | vsub (o : VBin)
  | vmul (o : VBin)
  | vmulh (o : VBin)
  | vdiv (o : VBin)
  | vrem (o : VBin)
  | vmin (o : VBin)
  | vmax (o : VBin)
  | vand (o : VBin)
  | vor (o : VBin)
  | vxor (o : VBin)
  | vsll (o : VBin)
  | vsrl (o : VBin)
  | vsra (o : VBin)
  | vabs (o : VUn)
  | vneg (o : VUn)
  | vcmp (o : VCmp)
  | vmerge (o : VBin)
  | vmv (o : VUn)
  | vmvx (o : VExt)
  | vid (o : VIdx)
  -- Vector floating point (R85)
  | vfadd (o : VFBin)
  | vfsub (o : VFBin)
  | vfmul (o : VFBin)
  | vfdiv (o : VFBin)
  | vfsqrt (o : VFUn)
  | vfma (o : VFTern)
  | vfms (o : VFTern)
  | vfnma (o : VFTern)
  | vfmin (o : VBin)
  | vfmax (o : VBin)
  | vfabs (o : VUn)
  | vfneg (o : VUn)
  | vfcmp (o : VCmp)
  | vfcvt (o : VCvt)
  -- Vector memory (R201)
  | vld (o : VMem)
  | vlds (o : VMemIx)
  | vldx (o : VMemIx)
  | vld_st (o : VPop)
  | vst (o : VMem)
  | vsts (o : VMemIx)
  | vstx (o : VMemIx)
  -- Masks, permutes, reductions, special functions (R86)
  | kand (kd ka kb : KReg) (hint : Hint)
  | kor (kd ka kb : KReg) (hint : Hint)
  | kxor (kd ka kb : KReg) (hint : Hint)
  | knot (kd ka : KReg) (hint : Hint)
  | kpopc (xd : Reg) (ka : KReg) (hint : Hint)
  | kfirst (xd : Reg) (ka : KReg) (hint : Hint)
  | kset (kd : KReg) (xs : Reg) (hint : Hint)
  | vslideup (o : VSlide)
  | vslidedn (o : VSlide)
  | vperm (o : VPermute)
  | vcompress (o : VUn)
  | vexpand (o : VUn)
  | vredsum (o : VRed)
  | vredosum (o : VRed)
  | vredmax (o : VRed)
  | vredq (o : VRedQ)
  | vredmin (o : VRed)
  | vredand (o : VRed)
  | vredor (o : VRed)
  | vexp2 (o : VSpec)
  | vrcp (o : VSpec)
  | vlog2 (o : VSpec)
  | vrsqrt (o : VSpec)
  | vsinpi (o : VSpec)
  | vcospi (o : VSpec)
  -- Tensor (R87)
  | msetvl (o : SetLen)
  | mexit (hint : Hint)
  | mopa (o : TOuter)
  | mopa4 (o : TOuter)
  | mopas (o : TScaled)
  | mzero (md : Tile) (hint : Hint)
  | mld (o : TMem)
  | mst (o : TMem)
  | mrow (o : TLine)
  | mcol (o : TLine)
  -- Engine (R88)
  | cpy (o : CopyOp)
  | cpyt (o : CopyBox)
  | cpyr (xd id : Reg) (dest : Deliver) (hint : Hint)
  | cbinit (bytes : Reg) (b : Fin 64) (hint : Hint)
  | cbwait (xd : Reg) (b : Fin 64) (hint : Hint)
  | sopen (block : Reg) (st : Stream) (hint : Hint)
  | sclose (st : Stream) (hint : Hint)
  | mbxpop (xd addr : Reg) (hint : Hint)
  | waitmsg (hint : Hint)
  | msgsend (xd target payload : Reg) (hint : Hint)
  | rxopen (xd desc : Reg) (q : Fin 16) (hint : Hint)
  | rxpop (xd dst : Reg) (q : Fin 16) (hint : Hint)
  | coll (o : CollArgs)
  | collwait (xd handle : Reg) (hint : Hint)
  -- Privileged (R88)
  | vdef (xd rec : Reg) (hint : Hint)
  | vresize (xd index rec : Reg) (hint : Hint)
  | tdset (xd handle rec : Reg) (hint : Hint)
  | tlbinv (asid addr len : Reg) (all : Bool) (hint : Hint)
  -- A word pair that is no defined encoding (R62)
  | illegalWord (w0 w1 : Half)
  -- Events of a hart and of its units
  | runLimit (h : HartKey)
  | vqEntryIssue (h : HartKey)
  | vectorMemoryResponse (h : HartKey) (r : Reply)
  | elementProgress (h : HartKey)
  | waitResume (h : HartKey)
  | barArriveFire (h : HartKey) (pos : Nat)
  | copyTransfer (h : HartKey) (id : Half) (bad : List SectorError)
  | copyCompletion (h : HartKey) (id : Half)
  | streamFetch (h : HartKey) (st : Stream) (count : Nat) (bad : List SectorError)
  | rxMessageArrival (h : HartKey) (q : Fin 16) (srcHart : Half) (srcPkg tag : BitVec 16) (payload : List Byte)
  | collOperationStart (p : Fin 17) (g : Fin 64) (k : Nat)
  | collPartialTransfer (p : Fin 17) (g : Fin 64) (k : Nat) (news : CollNews)
  | collOperationEnd (p : Fin 17) (g : Fin 64) (k : Nat)
  | collPackageUnreachable (pkg : BitVec 16)
  -- Events of the host ports and of coherence
  | pcieAtomicopCompletion (h : HartKey) (r : PcieAnswer)
  | pcieCompletionTimeout (h : HartKey)
  | vaultWalkStep (p : Fin 17) (index : Fin 256)
  | regionRequest (addr : Nat) (die : Fin 6) (write : Bool)
  | leaseExpiry (region : Nat) (die : Fin 6)
  | leaseRecallAck (region : Nat) (die : Fin 6)
  | regionDecay (region : Nat)
  | cxlCacheResponse (m : CacheMsg) (exclusive : Bool) (data : List Byte)
  | snpData (m : CacheMsg)
  | snpInv (m : CacheMsg)
  | snpCur (m : CacheMsg)
  | cxlMemRead (m : MemMsg)
  | cxlMemWrite (m : MemMsg) (data : List Byte)
  | heartbeat (a : Agent) (incarnation : BitVec 16)
  | agentDeath (a : Agent)
  | agentReadmit (a : Agent)
  -- Events of the Mortar links
  | linkStop (l : Fin 9) (up : Bool) (cls : Fin 3)
  | linkGo (l : Fin 9) (up : Bool) (cls : Fin 3)
  | linkSectorReceive (l : Fin 9) (up : Bool) (words : List LinkWord) (crc : BitVec 16)
  | linkDictChecksum (l : Fin 9) (up : Bool)
  -- Host queues, registers and network
  | qctlWrite (p : Fin 16) (q : Fin 4) (port : Fin 2) (v : Word)
  | tailWrite (p : Fin 16) (q : Fin 4) (v : Word)
  | nop (p : Fin 16) (q : Fin 4) (readOk : Bool)
  | hqLaunch (p : Fin 16) (q : Fin 4) (readOk : Bool)
  | entryWrite (p : Fin 16) (q : Fin 4) (readOk : Bool)
  | tdWrite (p : Fin 16) (q : Fin 4) (readOk : Bool)
  | badCommand (p : Fin 16) (q : Fin 4) (readOk : Bool)
  | registerWrite (r : HostReg) (v : Word)
  | doorbell (p : Fin 16) (v : Word)
  | interrupt (h : HartKey)
  | netLaunchPacket (p : Fin 16) (bytes : List Byte)
  -- Scheduling
  | quantumEnd (h : HartKey)
  | waitSlotTimeout (h : HartKey)
  | priorityAging (h : HartKey)
  | hartWake (h : HartKey)
  | mixWindowEnd (h : HartKey)
  | retrieverArrival (h : HartKey)
  | tlbinvAck (id : Nat) (core : Nat)
  -- Power, reliability and management
  | powerInterval (watts : Nat)
  | thermalClampOn (island : Fin 24)
  | thermalClampOff (island : Fin 24)
  | powerClampOn (watts : Nat)
  | powerClampOff (watts : Nat)
  | coreRetire (core : Nat) (badRows : List Nat)
  | debug (p : Fin 16) (hart : Half)
  | pldmSensorRead (sensor : Sensor)
  | pldmFirmwareUpdate (rinca : Bool) (image : Image)
  | commitSvn (authority : Authority)
  | packageReset (rinca mlevel : Image) (boot : Boot)
  | featreqWrite (v : Word)
  -- Partition commands and firmware calls
  | create (p : Fin 16) (readOk : Bool)
  | start (p : Fin 16)
  | swapout (p : Fin 16)
  | swapin (p : Fin 16)
  | terminate (p : Fin 16)
  | destroy (p : Fin 16)
  | badOp (p : Fin 16) (op : BitVec 8)
  | bankpool (h : HartKey)
  | groupdef (h : HartKey)
  | asidrange (h : HartKey)
  | ctxarea (h : HartKey)
  | codefail (h : HartKey)
  | partreq (h : HartKey)
  | tdtable (h : HartKey)
  | asidctx (h : HartKey)
  -- Further completions and events
  | pcieReadCompletion (h : HartKey) (r : PcieAnswer)
  | birsp (m : MemMsg)
  | hintPauseEnd (h : HartKey)
  | taskTerminated (p : Fin 16) (handle : Half)
  -- Instructions and events without operands
  | land
  | ecall
  | ebreak
  | eret
  | ifence
  | xfence
  | exit
  | yield
  | getMeasurements
  | mainSideUnpowered
deriving DecidableEq, Repr

end Sys2Proof
end

