-- ==== Sys2Proof/Machine/State.lean ====
section
/-! DEFINITION. The state of the part, as plain data, and the state after reset. Fields keep the names of the spec;
"log n" names the entry of the assumption log for a value or a form that the spec leaves open. -/

namespace Sys2Proof.Machine

/-! ### Harts -/

/-- Privilege levels (R21). -/
inductive Level where
  | t | s | m
deriving DecidableEq, Repr

/-- Hart states of Table 17.3. `created` is the ready state of a hart that waits for a context area (R443) or for the
switch-in of its partition (R411). -/
inductive Status where
  | created | ready | running | waiting | parked | readyForClass | moving | ended
deriving DecidableEq, Repr

/-- A hart slot: its core and its number on that core (R14, R2). -/
structure SlotId where
  core : Nat
  slot : Nat
deriving DecidableEq, Repr

/-- One entry of a vector queue, as the saved image holds it (Table 1.11). `rsv` keeps bits 383:342, so that an image
that software altered reads back. The last seven fields are the model's own record of an entry that has issued and waits
for memory: the element, the vault index and the physical address of each access still to be performed (R441), the stream
position of the first issue (R215), the time at which the element-progress timer started with its limit (R211), whether
the entry has been restored, so that R37 checks it, and its queue position: how many entries stood before it when it entered the
queue, or its index in the image that restored it (R37, R46, log 75). -/
structure Entry where
  insn : Word
  opa : Word
  opb : Word
  opc : Word
  vl : BitVec 16
  vtype : BitVec 16
  mvl : BitVec 8
  mtype : BitVec 16
  elem : BitVec 16
  status : BitVec 8
  nfault : BitVec 5
  fovf : Bool
  rsv : BitVec 42
  issued : Bool
  paddrs : List (Nat × BitVec 8 × Nat)
  pos : Option Nat
  since : Nat
  limit : Word
  restored : Bool
  place : Nat
deriving DecidableEq, Repr

/-- Entries that a delegated trap holds (R450, R513): none, in the queue, or in the image area after a move. -/
inductive Held where
  | none
  | queue (es : List Entry)
  | area
deriving DecidableEq, Repr

/-- A range slot (R300): its range and the handle that rslott bound. -/
structure RangeSlot where
  base : Word
  len : Nat
  handle : Option (BitVec 16)
deriving DecidableEq, Repr

/-- An access that is not yet performed at package or at system scope (R301, R372, R296): the region, the PCIe port, or the sector that a host
holds, on which it waits, the number of the WrCur that it waits for, the slots that count it (none: the untagged counter), and whether a flushing
read that covers it is out. -/
structure Outstanding where
  region : Option Nat
  port : Option (Fin 2)
  sector : Option Nat
  wrCur : Option Nat
  slots : BitVec 8
  flushing : Bool
deriving DecidableEq, Repr

/-- A scalar store that has retired into the store path of its hart and is not performed yet (R150, R286): where it goes and through
which core and vault, its bytes, the slots that count it, for how many steps it stays in any case, and whether vector reads of its hart
see it meanwhile (R340, log 20). -/
structure PathStore where
  va : Word
  pa : Nat
  core : Nat
  home : Nat
  vault : BitVec 8
  bytes : List Byte
  slots : BitVec 8
  stay : Nat
  seen : Bool
deriving DecidableEq, Repr

/-- A copy barrier (R257). -/
structure CopyBarrier where
  exp : Nat
  count : Nat
  infl : Nat
deriving DecidableEq, Repr

/-- A tensor descriptor as captured at acceptance (Table 10.5). -/
structure Desc where
  base : Word
  esz : Nat
  ext : List Nat
  strides : List Int
deriving DecidableEq, Repr

/-- The two ranges of a copy (R248, R259). `box` is the descriptor of the box side, with the offset in `src` or `dst`. -/
structure CopyArgs where
  dst : Word
  src : Word
  len : Nat
  box : Option (Desc × Bool)
deriving DecidableEq, Repr

/-- The replay record of a copy (R253): which destination bytes are missing, in runs of first index and length, its failing blocks (side, address
and bitmap), and the lines of the replay area that hold it. -/
structure Replay where
  id : Half
  args : CopyArgs
  missing : List (Nat × Nat)
  blocks : List (Bool × Nat × Nat)
  lines : List Nat
deriving DecidableEq, Repr

/-- A bound stream (R261 to R264): the block, the position, the positions at which the vld.sts that are not done issued first, that of a handler before
that of the code that it interrupts (R215), the strip buffer with what has been fetched by position (the physical address and the bytes),
and the address ranges withheld after a failed fetch (first byte, length), each with the count of the fault-queue record that reported it, if
one was written. -/
structure StreamState where
  base : Word
  length : Nat
  fmt : BitVec 4
  s0 : Word
  s1 : Word
  s2 : Word
  c0 : Nat
  c1 : Nat
  pos : Nat
  first : List Nat
  buf : List (Nat × Nat × List Byte)
  withheld : List (Nat × Nat × Option Nat)
deriving DecidableEq, Repr

/-- An open receive queue (R270). `off` is the part of the head message that vredq has consumed (R222). -/
structure RxQueue where
  base : Word
  sizeLog : Nat
  notify : Bool
  head : Nat
  tail : Nat
  off : Nat
deriving DecidableEq, Repr

/-- A mailbox entry, low doubleword first (R265). -/
structure Mail where
  lo : Word
  hi : Word
deriving DecidableEq, Repr

/-- The reservation of a ldres (R159): the physical address of a 64-byte sector. -/
abbrev Reservation := Option Nat

/-- The AtomicOps that the part sends (Table 6.6). -/
inductive AtomicKind where
  | fetchAdd | swap | cas
deriving DecidableEq, Repr

/-- A request of the scalar stream that waits for the host (R164, R379). -/
inductive Req where
  | none
  /-- A PCIe AtomicOp that has been sent, with the size of its operands, its kind and its operands (Table 6.6). -/
  | atomicOp (pa : Nat) (port : Fin 2) (n : Nat) (kind : AtomicKind) (a b : Nat)
  /-- Its completion, which the instruction takes when it executes again. -/
  | atomicDone (pa : Nat) (r : PcieReply)
  /-- A PCIe read. -/
  | read (pa : Nat) (port : Fin 2)
  /-- Its completion. -/
  | readDone (pa : Nat) (r : PcieReply)
  /-- A flushing read of a release (R296). -/
  | flush (port : Fin 2)
  /-- A CXL.cache request for a sector (R379). -/
  | cxl (sector : Nat) (own : Bool)
  /-- A PCIe read, or an AtomicOp, whose completion never came (R165, R166). -/
  | timedOut (pa : Nat) (atomic : Bool)
  /-- A CXL.cache response that reported an error (R166). -/
  | cxlError (sector : Nat)
deriving DecidableEq, Repr

/-- AtomicOps to the same `n` bytes of host memory that were out together: what the bytes held before, and what each that has come back found
there and left, the latest first (R164). -/
structure AtomicBatch where
  pa : Nat
  n : Nat
  start : Nat
  done : List (Nat × Nat)
deriving DecidableEq, Repr

/-- Why a hart moves (R424), with the slot reserved for it. -/
inductive MoveCause where
  | classMiss | hint | mix | image
deriving DecidableEq, Repr

/-- The counts of the mix window (R429). -/
structure Window where
  count : Nat
  v : Nat
  m : Nat
  missH : Nat
  missW : Nat
  streak : Nat
deriving DecidableEq, Repr

/-- The CSRs that each hart keeps in its scalar context (Tables 1.3, 1.4 and 17.7). -/
structure Csrs where
  fcsr : BitVec 9
  vfcsr : BitVec 9
  vl : BitVec 10
  vtype : BitVec 4
  vstart : BitVec 10
  mvl : BitVec 8
  mm : Bool
  tfmt : BitVec 4
  tick : Word
  uvec : Word
  ucause : BitVec 8
  uepc : Word
  uinfo : Word
  uaddr : Word
  stklim : Word
  eptlim : Word
  cfien : Bool
  udeleg : Word
  migcount : Word
  qtrap : Bool
  pp : BitVec 2
  pie : Bool
  ie : Bool
  evec : Word
  ecause : BitVec 8
  epc : Word
  einfo : Word
  eaddr : Word
  escratch : Word
  asid : BitVec 10
  root : BitVec 44
  pin : Bool
  fix : Bool
  step : Bool
deriving DecidableEq, Repr

/-- Collie's record of a hart (R413 to R419, R424, R429, R335). `hintPlace` holds the die of hint.place and, where
given, the cluster within it. `stepMove`: a class miss has moved the hart and its instruction has not executed yet.
`resume`: a saved image is to be restored at the hart's next turn (R451). `goClass`, `goPlace`: a move that a hint
or a window end has asked for and that waits for the drain; `mixDue`: one that R430 holds back. `moved` lists, by level and pc,
instructions whose class miss has moved the hart and that an interrupt on the target came before. `preempting`: the hart is owed a
pre-emption that its victim holds up (R45, R418); `rotate`: a quantum has ended while the hart drained for a class miss, so that it is rotated
at the missed instruction (R45). -/
structure Sched where
  status : Status
  slot : Option SlotId
  lastCore : Nat
  home : Nat
  newHart : Bool
  readySince : Nat
  aged : Nat
  waitSince : Nat
  cause : MoveCause
  target : Option SlotId
  missed : Option Instr
  stepMove : Bool
  stepDue : Option Word
  win : Window
  hintClass : BitVec 2
  hintPlace : Option (Nat × Option Nat)
  hintLive : Half
  pauseUntil : Option Nat
  swapSlot : Option SlotId
  resume : Bool
  goClass : Option (BitVec 2)
  goPlace : Bool
  mixDue : Option (BitVec 2)
  moved : List (Level × Word)
  preempting : Bool
  rotate : Bool
deriving DecidableEq, Repr

/-- The engine-side state of a hart (R243 to R278, R307, R320). `spillAt` is the place of the oldest entry in the spill area; `colls` lists the uncollected handles of collectives with the
status of those that have ended. -/
structure Engine where
  cb : Vector CopyBarrier 64
  copyNext : Half
  replays : List Replay
  streams : Vector (Option StreamState) 8
  mbx : List Mail
  spill : List Mail
  spillAt : Nat
  ovf : Bool
  rx : Vector (Option RxQueue) 16
  colls : List (Half × Option Nat)
  collK : Vector Nat 64
  arrivals : List (Word × Half)
  strips : List (Word × Nat)
deriving DecidableEq, Repr

/-- A hart (R12). `imgHeld` counts the leading entries of a saved image that a delegated trap held (R513); `imgOuter`, where the entries of a
handler at S stand in the image area behind those of the trap that it handles, is the count and the header that the image had before (R451, log 10). `stall` and `waitFor` are the model's own record of an instruction that waits: it has had no effect and
executes again once an event clears the stall (R245, R309; log 2). `outst` lists accesses that are not yet performed at
every scope; `resvSeq` counts the instructions since the ldres while they could stand in a
constrained sequence, and `resvLost` says that the L1D has lost the reserved sector since (R161, R162); `path` holds the scalar stores that have retired and are not performed. `fwcall` is a firmware call handed to device firmware (R508). `tilesAway` names the tiles whose vector home
holds their value; a tile without it, and not valid in a slot, is zero (R240). -/
structure Hart where
  key : HartKey
  pc : Word
  level : Level
  x : Vector Word 32
  f : Vector Word 32
  csr : Csrs
  task : Half
  entry : Nat
  index : Nat
  rtc : Bool
  retired : Nat
  sched : Sched
  queue : List Entry
  held : Held
  heldCls : BitVec 2
  imgHeld : Nat
  imgOuter : Option (Nat × List Byte)
  xpend : Half
  fpend : Half
  slots : Vector RangeSlot 8
  outst : List Outstanding
  path : List PathStore
  eng : Engine
  resv : Reservation
  resvSeq : Option Nat
  resvLost : Bool
  /-- Words, by address, that are not fetched again for the next instruction: the one that a landing check has passed (R131), and those that have
  come from host memory in PCIe mode, of which no copy is kept (R153). -/
  checked : List (Word × Half)
  irqs : List Nat
  req : Req
  fwcall : Option Nat
  stall : Bool
  waitFor : Option Instr
  area : Option Nat
  tilesAway : BitVec 2
deriving DecidableEq, Repr

/-! ### Slots and cores -/

/-- A hart slot with its vector registers, masks and tiles and their valid and dirty bits (R15, R19, R30, R427).
`owner` is the partition of the context that vown names. -/
structure Slot where
  id : SlotId
  occupant : Option HartKey
  reserved : Option HartKey
  hart : Half
  valid : Bool
  asid : BitVec 10
  owner : Fin 17
  v : Vector (Vector Half 512) 32
  k : Vector (Vector Bool 512) 8
  m : Vector (Vector (Vector Half 128) 128) 2
  vValid : Half
  vDirty : Half
  kValid : BitVec 8
  kDirty : BitVec 8
  mValid : BitVec 2
  mDirty : BitVec 2
  lanes : Nat
  matrix : Nat
  /-- When the occupant took the slot, and when its quantum began (R417). -/
  since : Nat
  quantum : Nat
deriving DecidableEq, Repr

/-- The budgets of a core (R421) and the outcome of a retirement (R501). -/
structure Core where
  core : Nat
  lanes : Nat
  matrix : Nat
  fenced : Bool
deriving DecidableEq, Repr

/-- A TLB entry: one successful walk result (R439). `global` is G; `size` the bytes of the page. -/
structure TlbEntry where
  core : Nat
  part : Fin 17
  asid : BitVec 10
  global : Bool
  vpage : Nat
  ppage : Nat
  size : Nat
  perm : BitVec 8
  vault : BitVec 8
deriving DecidableEq, Repr

/-! ### Caches and coherence -/

/-- A line that the L1I of a core may hold, with its tag: partition, address space and virtual sector, the physical sector, and the page that has
mapped it, by its first address and its bytes (R472, R473). -/
structure FetchLine where
  core : Nat
  part : Fin 17
  asid : BitVec 10
  va : Nat
  pa : Nat
  page : Nat
  size : Nat
deriving DecidableEq, Repr

/-- State of a sector in a vault line (R352). A dirty sector keeps the 64 bytes that memory holds under it, which a
discard or the death of its die brings back. -/
inductive Sector where
  | invalid
  | clean
  | dirty (memory : List Byte)
deriving DecidableEq, Repr

/-- A vault line (R351 to R354): its place, its tag (the line address times the line size), its sectors, the used bit of
the pseudo-LRU, and whether it entered at high priority. -/
structure Line where
  part : Fin 17
  vault : BitVec 8
  slice : Nat
  bank : Nat
  way : Nat
  set : Nat
  tag : Nat
  sectors : List Sector
  used : Bool
deriving DecidableEq, Repr

/-- A region directory entry's state (Table 15.2): `f` lists, per sector, the dies that may hold a copy, `base` standing
for a sector not listed; `r` lists the leases by die and expiry. -/
inductive RegionState where
  | p (owner : Nat)
  | r (leases : List (Nat × Nat))
  | f (base : List Nat) (holders : List (Nat × List Nat))
deriving DecidableEq, Repr

/-- A region directory entry (R373 to R376): the last write, the decay clock with the dies that have asked in it, and
the sectors written while closing, each with the dies that then hold it; `recalled` lists the dies whose recall is under
way, `waiting` the reads, by sector and die, that wait for F because closing grants no lease (R376), and `covered` the dies whose harts have
released, at a scope no wider than their die, a write that the closing holds back (R281, R292). -/
structure Region where
  index : Nat
  state : RegionState
  lastWrite : Nat
  decayFrom : Nat
  askers : List Nat
  closing : Option (List (Nat × List Nat))
  recalled : List Nat
  waiting : List (Nat × Nat)
  covered : List Nat
deriving DecidableEq, Repr

/-- Device states of a host sector (Table 15.5). -/
inductive Cxl where
  | i | s | e | m | o | z
deriving DecidableEq, Repr

/-- A CXL.cache request of a stream other than the scalar one that waits for the host, or whose answer reported an error: the sector
and the code of the request (Table 15.6), with the reason of the error (R166); or a PCIe read of a sector in the name of such a stream, with
whether its data is here (R153). -/
structure Ask where
  sector : Nat
  code : Nat
  failed : Option Nat
  here : Bool
deriving DecidableEq, Repr

/-- The host snoops (Table 15.6). -/
inductive Snoop where
  | data | inv | cur
deriving DecidableEq, Repr

/-- A sector of device memory that the host of a port holds (R380); `invalidating` while BISnpInv is outstanding. -/
structure HostHeld where
  sector : Nat
  port : Fin 2
  invalidating : Bool
deriving DecidableEq, Repr

/-- A write of a host over CXL.mem that waits for the leases of its region to end (R376). -/
structure HostWrite where
  sector : Nat
  bytes : List Byte
deriving DecidableEq, Repr

/-- A stale copy that a die may still read under a lease (R294): the sector and its 64 bytes. -/
structure Stale where
  die : Nat
  sector : Nat
  bytes : List Byte
deriving DecidableEq, Repr

/-- A host port (R395): its mode, and AtomicOp Requester Enable of the partition functions (R165). -/
structure HostPort where
  cxl : Bool
  atomicEnable : Bool
deriving DecidableEq, Repr

/-- An agent watched by the liveness monitor (R382); one that is `mute` sends no heartbeats any more. -/
structure AgentState where
  alive : Bool
  incarnation : BitVec 16
  lastBeat : Nat
  mute : Bool
deriving DecidableEq, Repr

/-! ### Partitions -/

/-- Partition states (R510). -/
inductive PartState where
  | absent | created | running | swapped | terminated
deriving DecidableEq, Repr

/-- partctl (Table 17.2). -/
structure PartCtl where
  clusters : BitVec 15
  weight : BitVec 8
  quantum : BitVec 16
deriving DecidableEq, Repr

/-- The partition descriptor (Table 22.8). -/
structure PartDesc where
  ranges : List (Nat × Nat)
  ctl : PartCtl
  clmax : BitVec 15
  wmax : BitVec 8
  qmin : BitVec 16
  qmax : BitVec 16
  hartmax : Nat
  sealed : Bool
  trust : List (List Byte)
deriving DecidableEq, Repr

/-- A way of a bank (R347). -/
structure Way where
  slice : Nat
  bank : Nat
  way : Nat
deriving DecidableEq, Repr

/-- A share of a vault: ways WFIRST .. WFIRST + WAYS of a bank (Table 12.7). -/
structure Share where
  slice : Nat
  bank : Nat
  first : Nat
deriving DecidableEq, Repr

/-- STATE of a vault (Table 12.6). -/
inductive VaultState where
  | free | active | migrating | dropping
deriving DecidableEq, Repr

/-- A vault with its old placement while the walk of a resize or a drop runs (R329, R355, R358). `walk` counts the
places already visited; `issuer` is the hart that issued the vresize or vdrop, with the time of its creation. -/
structure Vault where
  index : BitVec 8
  state : VaultState
  gen : BitVec 16
  lineLog : Nat
  write : Nat
  fifo : Bool
  ways : Nat
  bypass : Nat
  shares : List Share
  oldShares : List Share
  oldWays : Nat
  walk : Nat
  wback : Nat
  issuer : Option HartKey
deriving DecidableEq, Repr

/-- An entry-table record (Table 12.1): its four doublewords; the upper two are reserved. -/
structure EntryRec where
  code : Word
  word : Word
  rsv0 : Word
  rsv1 : Word
deriving DecidableEq, Repr

/-- Where a task came from (R314). -/
inductive Source where
  | hart (task : Half)
  | outside
deriving DecidableEq, Repr

/-- A record of the pending-launch pool (R313, R314). `live` counts the harts not yet ended; `waiting` holds what
Collie needs to create the harts of a task whose partition is switched out (R411). -/
structure Task where
  handle : Half
  source : Source
  entry : Nat
  depth : Nat
  prio : Nat
  cls : Nat
  harts : Nat
  code : Word
  asid : BitVec 10
  arg : Word
  rtc : Bool
  live : Nat
  pending : Bool
  terminated : Bool
  launcherCore : Nat
deriving DecidableEq, Repr

/-- A farm (R319, R320). `done` lists done(s) for strips with a count. -/
structure Farm where
  slot : Nat
  gen : BitVec 16
  task : Half
  total : Nat
  strip : Nat
  upstream : Word
  claim : Nat
  mark : Nat
  done : List (Nat × Nat)
deriving DecidableEq, Repr

/-- A host queue (R397, R401): its registers, the port it is bound to, and the latched writes of a switch-out. -/
structure HostQueue where
  qbase : Word
  sizeLog : Nat
  en : Bool
  err : Bool
  tail : Half
  prog : Half
  port : Fin 2
  frozen : Option Half
  latchBase : Option Word
  latchCtl : Option (Word × Fin 2)
  latchTail : Option Word
deriving DecidableEq, Repr

/-- fqctl (Table 18.6). -/
structure FaultQueue where
  base : BitVec 44
  sizeLog : BitVec 4
  ovf : Bool
  irq : Bool
  en : Bool
deriving DecidableEq, Repr

/-- A collective group as defined (R405). -/
structure Group where
  id : Nat
  span : Nat
  members : List Word
  record : Word
deriving DecidableEq, Repr

/-- A partition. -/
structure Part where
  state : PartState
  ctl : PartCtl
  desc : PartDesc
  asid0 : Nat
  asidN : Nat
  pool : List Way
  areas : List Nat
  entries : List (Nat × EntryRec)
  tasks : List Task
  farms : List Farm
  farmGen : List (Nat × BitVec 16)
  vaults : List Vault
  queues : Vector HostQueue 4
  fq : FaultQueue
  tds : List (BitVec 10 × Nat × Nat)
  ctxs : List (BitVec 10 × Word × Word)
  marks : List (BitVec 10 × Nat × Nat)
  groups : List Group
  nextHart : Half
  deficit : Nat
  partreq : Option PartCtl
  /-- A swap-out waits for run-to-completion harts (Table 18.9, steps 2 and 3). -/
  swapping : Bool
  /-- The clusters whose local stores have been given to the partition and to no other since (R364, R456). -/
  stores : BitVec 15
deriving DecidableEq, Repr

/-! ### Engines of the package -/

/-- A 64-byte sector that a copy gave up on one side, with the reason, and the vault or the incarnation it concerns (R251, R252). -/
structure LostSector where
  dst : Bool
  addr : Nat
  reason : Nat
  vault : Nat
  inc : Nat
deriving DecidableEq, Repr

/-- A copy in flight (R248 to R256): the runs of destination bytes to transfer (first index, length), how many of them have
been read and written, the bytes read by index, the sectors given up, the bytes left out in runs, and the status once nothing
is left to transfer. -/
structure Copy where
  hart : HartKey
  id : Half
  core : Nat
  home : Nat
  asid : BitVec 10
  root : BitVec 44
  level : Level
  args : CopyArgs
  dlv : Deliver
  hint : Hint
  todo : List (Nat × Nat)
  rd : Nat
  wr : Nat
  buf : List (Nat × Byte)
  lost : List LostSector
  missing : List (Nat × Nat)
  done : Nat
  finished : Option (BitVec 8)
  slots : BitVec 8
deriving DecidableEq, Repr

/-- One member's coll (R275): its rank, the hart and its handle where this package holds it, the arguments, and the pieces of the destination as
the start of the operation has translated them: address, vault and length. -/
structure CollMember where
  rank : Nat
  hart : Option HartKey
  handle : Half
  fmt : Fmt
  op : CollOp
  scope : Scope
  count : Word
  dst : Word
  src : Word
  asid : BitVec 10
  root : BitVec 44
  level : Level
  core : Nat
  home : Nat
  hint : Hint
  slots : BitVec 8
  put : List (Nat × BitVec 8 × Nat)
deriving DecidableEq, Repr

/-- A collective operation: the k-th coll on a group (R275 to R277, R405 to R408). `records` holds the record words that other packages have
sent (R406); `values` the values of the rank tree by rank, level and first index, level 0 being the source elements; `results` those that the
package of rank 0 has sent; `sent` what this package has sent of them. `faulted`: another package's translation has failed (R277). `written`: the
destinations are written, and are being performed at SCOPE (R278). `settled`: it has ended while some local members are still to issue: the status for
them, and how many have issued (R408). -/
structure CollOpState where
  part : Fin 17
  group : Nat
  k : Nat
  members : List CollMember
  records : List Word
  values : List (Nat × Nat × Nat × List Word)
  results : List (Nat × List Word)
  sent : List (Nat × Nat × Nat)
  started : Bool
  faulted : Bool
  written : Bool
  settled : Option (Nat × Nat)
deriving DecidableEq, Repr

/-- A tlbinv in flight (R328, R440). -/
structure TlbInv where
  id : Nat
  hart : HartKey
  part : Fin 17
  asid : Option (BitVec 10)
  base : Nat
  len : Nat
  waiting : List Nat
deriving DecidableEq, Repr

/-- What the shadow storage of a die holds of a swapped-out partition (R455): the bytes that belong into the context areas of the harts that it
stopped there. -/
structure Shadow where
  die : Nat
  part : Fin 17
  areas : List (Nat × List Byte)
deriving DecidableEq, Repr

/-- One end of a direction of a Mortar link: its dictionary, the insertion pointer and the number of slots that hold a word (R392). -/
structure Dict where
  slots : Vector Word 256
  p : Fin 256
  filled : Nat
deriving DecidableEq, Repr

/-- One direction of a Mortar link (R389 to R394): the dictionaries of its ends, the classes that a STOP holds back, the free space in flits
that the receiver has for each class, the flits sent since the last checksum fell due, the two ends' checksums of one that is due, the sectors
that the sender is to send again, those delivered, which with that are acknowledged, and the resets. -/
structure LinkDir where
  tx : Dict
  rx : Dict
  stopped : List (Fin 3)
  free : Vector Nat 3
  flits : Nat
  due : Option (BitVec 16 × BitVec 16)
  waiting : List (List Word)
  delivered : List (List Word)
  resets : Nat
deriving DecidableEq, Repr

/-- Arrays in which an error is found by the use of a core or of a die, and not by the access to an address (R500): the scalar side of a core
(registers, scalar caches), its vector side (vector registers, masks, tiles, queues), and the shadow storage of a die. -/
inductive Sram where
  | scalar (core : Nat)
  | vector (core : Nat)
  | shadow (die : Nat)
deriving DecidableEq, Repr

/-- An error that comes about in an array (R500; log 63): of one bit or uncorrectable, in a sector of memory or in one of the other arrays. -/
inductive Strike where
  | flip (pa : Nat)
  | spoil (pa : Nat)
  | upset (core : Nat)
  | ruin (a : Sram)
deriving DecidableEq, Repr

/-- An island (R497, R499): the frequency that has been set, and whether the thermal clamp holds it at 0.8 GHz. -/
structure Island where
  mhz : Nat
  clamped : Bool
deriving DecidableEq, Repr

/-- The limit unit (R504 to R506); `owner` is the digest of the owner key that was fused at manufacture. -/
structure LimitUnit where
  locked : Bool
  violations : Half
  window : Nat × Nat
  fuses : Nat
  leaf : Nat
  owner : List Byte
deriving DecidableEq, Repr

/-- Firmware images and boot (R502 to R505); `key` is the LMS public key that images are verified with. -/
structure Firmware where
  step : Nat
  recovery : Bool
  rincaDigest : List Byte
  mDigest : List Byte
  rincaVersion : Nat
  mVersion : Nat
  staged : List (Bool × Image)
  mainPower : Bool
  key : List Byte
deriving DecidableEq, Repr

/-- What the part sends outward (R325, R403, R404, R502, R504). -/
inductive Output where
  | residency (part : Nat) (report reason : Nat)
  | message (part : Nat) (hart : Half) (outcome : Nat)
  | terminated (part : Nat) (cause : BitVec 8) (epc : Word)
  | sensor (value : Word)
  | measurements (bytes : List Byte) (signature : List Byte)
  | spdmError
  | commit (accepted : Bool)
  | hostData (sector : Nat) (bytes : List Byte)
  | snoop (sector : Nat) (data : Option (List Byte))
  | hostRequest (sector : Nat) (code : Nat)
  /-- A CXL.mem write of the host is performed. -/
  | hostWritten (sector : Nat)
  /-- BISnpInv (R380). -/
  | backInvalidate (sector : Nat)
  /-- A PCIe read request; a length of 0 is a flushing read (R296). -/
  | pcieRead (port : Nat) (pa n : Nat)
  /-- A PCIe AtomicOp (Table 6.6). -/
  | pcieAtomic (port : Nat) (pa n : Nat) (kind : AtomicKind) (a b : Nat)
  /-- A local member's coll with the record of its group (R277, R406). -/
  | collIssued (part group k rank : Nat) (fmt : Fmt) (op : CollOp) (scope : Scope) (count record : Word)
  /-- A value of the rank tree, by rank, level and first element (R407). -/
  | collValue (part : Nat) (group k rank level first : Nat) (elems : List Word)
  /-- A chunk of the result (R407). -/
  | collResult (part : Nat) (group k first : Nat) (elems : List Word)
  /-- The translation of an operation's ranges has failed in this package (R275, R277). -/
  | collFault (part : Nat) (group k : Nat)
  | checksum (link : Nat) (ok : Bool)
  | partDied
deriving DecidableEq, Repr

/-! ### The whole part -/

structure State where
  /-- Current coherent contents of the 56-bit physical space (R367, R349). -/
  mem : List Host.Cell
  harts : List Hart
  slots : List Slot
  cores : List Core
  tlb : List TlbEntry
  lines : List Line
  /-- FIFO pointers by slice, bank, first way and set (R353). -/
  fifo : List (Nat × Nat)
  /-- Cores whose L1D may hold a sector (R369). -/
  l1d : List (Nat × Nat)
  l1i : List FetchLine
  regions : List Region
  stale : List Stale
  /-- Lines that have left their old place for another die and are still to be filled at their new one: partition, vault and line address (R357). -/
  astray : List (Fin 17 × BitVec 8 × Nat)
  cxl : List (Nat × Cxl)
  hostHeld : List HostHeld
  /-- Requests of the store paths, the vector streams and the engines (R379). -/
  asked : List Ask
  /-- WrCur requests that the host has not completed, the oldest first: their sectors and numbers; and how many have been sent (R379). -/
  wrCurs : List (Nat × Nat)
  wrCount : Nat
  /-- Snoops of a sector in Z, which wait for its write to land (R379). -/
  snoops : List (Nat × Snoop)
  hostWrites : List HostWrite
  /-- AtomicOps to host memory that have come back while others to the same bytes are out (R164). -/
  atomics : List AtomicBatch
  ports : Vector HostPort 2
  agents : List (Agent × AgentState)
  parts : Vector Part 17
  ptr : Nat
  copies : List Copy
  colls : List CollOpState
  /-- Operations of groups, by partition, group and number, that are over in this package (R406, R408). -/
  collsOver : List (Fin 17 × Nat × Nat)
  tlbinvs : List TlbInv
  /-- Shadow storage, the oldest swap-out first (R455). -/
  shadow : List Shadow
  /-- Partitions in whose vector homes an uncorrectable error has been found, with the pc of the hart (R428). -/
  homeLost : List (Fin 17 × Word)
  links : Vector (Vector LinkDir 2) 9
  islands : Vector Island 24
  power : Nat
  powerClamp : Bool
  lowCount : Nat
  targetMhz : Nat
  misland : BitVec 64
  mecc : Vector Word 6
  featReq : BitVec 6
  featClosed : Bool
  /-- PCMD, PARG, PSTAT and PTERM (Table 22.6). -/
  pcmd : Word
  parg : Word
  pstat : Half
  pterm : BitVec 16
  limit : LimitUnit
  fw : Firmware
  pkg : BitVec 16
  /-- Package time in nanoseconds (R24). -/
  time : Nat
  retiredCores : List Nat
  spares : List Nat
  /-- Sectors of device memory and of local stores that hold a single-bit error, and an uncorrectable one (R500). -/
  flipped : List Nat
  /-- Single-bit errors that nothing has found yet in the register files, queues, tiles, scalar caches or shadow storage of cores (R500). -/
  upsets : List Nat
  corrupt : List Nat
  /-- Arrays with an uncorrectable error that nothing has found yet (R500). -/
  broken : List Sram
  /-- Uncorrectable errors that banks of local stores have given: core, bank and time (R501). -/
  bankErrors : List (Nat × Nat × Nat)
  out : List Output
  /-- Mailbox entries that their senders hold until there is room (R265). -/
  posts : List (HartKey × Mail)
  /-- The model's own fields (log 2, 3, 9): the hart whose turn it is, the events from outside at the coming steps (none: no
  event), the durations of the coming steps, and the counter of the free values. -/
  cur : Option HartKey
  /-- By core, the slot that issued last; the core that issued last comes first (R420). -/
  issued : List (Nat × Nat)
  /-- The slot whose entry issued last, by core, to the tensor array or to the vector unit (R242, R420). -/
  passes : List (Nat × Bool × Nat)
  inputs : List (Option Instr)
  elapse : List Nat
  /-- The errors that come about at the coming steps (none: no error; log 63). -/
  strikes : List (List Strike)
  /-- For how many steps each of the coming scalar stores stays in its hart's store path, and whether vector reads of the hart see it
  meanwhile; none stays past the end (log 20). -/
  delays : List (Nat × Bool)
  fresh : Nat
  /-- The next step tries an event of the part before an instruction. -/
  eventTurn : Bool
  /-- How many events of the part have come about; the search for the next begins further on each time (log 2). -/
  evPos : Nat
deriving DecidableEq, Repr

/-! ### Stops -/

/-- Why the machine stops. -/
inductive Fault where
  /-- An instruction is executed although no hart is there to execute it; raised by the guard of every instruction.
  Safe: no step of the part runs an instruction without a hart (R12). -/
  | noHart
deriving DecidableEq, Repr

/-- Why an instruction has no meaning here. -/
inductive Refusal where
  /-- An instruction whose meaning is not written yet; raised by its arm of `exec`. Safe. -/
  | notModelled (mnemonic : String)
deriving DecidableEq, Repr

/-! ### Reset -/

/-- CSRs at the reset values of Tables 1.3 and 1.4. -/
def Csrs.reset : Csrs :=
  { fcsr := 0, vfcsr := 0, vl := 0, vtype := 0, vstart := 0, mvl := 0, mm := false, tfmt := 0, tick := 0, uvec := 0,
    ucause := 0, uepc := 0, uinfo := 0, uaddr := 0, stklim := 0, eptlim := 0x100000, cfien := false, udeleg := 0,
    migcount := 0, qtrap := false, pp := 0, pie := false, ie := false, evec := 0, ecause := 0, epc := 0, einfo := 0,
    eaddr := 0, escratch := 0, asid := 0, root := 0, pin := false, fix := false, step := false }

/-- An empty range slot (R302). -/
def RangeSlot.empty : RangeSlot := { base := 0, len := 0, handle := none }

/-- Engine state at the start of a hart (R20, R249, R257, R275, R307, R320). -/
def Engine.start : Engine :=
  { cb := Vector.replicate 64 { exp := 0, count := 0, infl := 0 }, copyNext := 1, replays := [],
    streams := Vector.replicate 8 none, mbx := [], spill := [], spillAt := 0, ovf := false, rx := Vector.replicate 16 none,
    colls := [], collK := Vector.replicate 64 0, arrivals := [], strips := [] }

/-- The window counts at the start of a hart (R429). -/
def Window.zero : Window := { count := 0, v := 0, m := 0, missH := 0, missW := 0, streak := 0 }

/-- Collie's record at the creation of a hart (R411, R413). -/
def Sched.start (core time : Nat) : Sched :=
  { status := .created, slot := none, lastCore := core, home := core, newHart := true, readySince := time, aged := 0,
    waitSince := 0, cause := .classMiss, target := none, missed := none, stepMove := false, stepDue := none,
    win := Window.zero, hintClass := 3, hintPlace := none, hintLive := 0, pauseUntil := none, swapSlot := none, resume := false,
    goClass := none, goPlace := false, mixDue := none, moved := [], preempting := false, rotate := false }

/-- A slot that nobody has used: no owner, every register zero (log 7). -/
def Slot.empty (id : SlotId) : Slot :=
  { id := id, occupant := none, reserved := none, hart := 0, valid := false, asid := 0, owner := 16,
    v := Vector.replicate 32 (Vector.replicate 512 0), k := Vector.replicate 8 (Vector.replicate 512 false),
    m := Vector.replicate 2 (Vector.replicate 128 (Vector.replicate 128 0)), vValid := 0, vDirty := 0, kValid := 0,
    kDirty := 0, mValid := 0, mDirty := 0, lanes := 0, matrix := 0, since := 0, quantum := 0 }

/-- A host queue at reset (Table 16.4). -/
def HostQueue.reset : HostQueue :=
  { qbase := 0, sizeLog := 0, en := false, err := false, tail := 0, prog := 0, port := 0, frozen := none,
    latchBase := none, latchCtl := none, latchTail := none }

/-- An absent partition. -/
def Part.absent : Part :=
  { state := .absent, ctl := { clusters := 0, weight := 0, quantum := 0 },
    desc := { ranges := [], ctl := { clusters := 0, weight := 0, quantum := 0 }, clmax := 0, wmax := 0, qmin := 0, qmax := 0,
              hartmax := 0, sealed := false, trust := [] },
    asid0 := 0, asidN := 0, pool := [], areas := [], entries := [], tasks := [], farms := [], farmGen := [], vaults := [],
    queues := Vector.replicate 4 HostQueue.reset, fq := { base := 0, sizeLog := 0, ovf := false, irq := false, en := false },
    tds := [], ctxs := [], marks := [], groups := [], nextHart := 1, deficit := 0, partreq := none, swapping := false, stores := 0 }

/-- An empty dictionary (R392). -/
def Dict.empty : Dict := { slots := Vector.replicate 256 0, p := 0, filled := 0 }

/-- One direction of a link at reset (R392); the free space is that at which GO is sent (log 88). -/
def LinkDir.reset : LinkDir :=
  { tx := Dict.empty, rx := Dict.empty, stopped := [], free := Vector.replicate 3 128, flits := 0, due := none, waiting := [], delivered := [],
    resets := 0 }

/-- The seventeen agents (R382). -/
def agentList : List Agent :=
  (List.finRange 6).map .die ++ (List.finRange 2).map .port ++ (List.finRange 9).map .link

/-- The hart of device firmware, which boot starts at M on Mastiff core 0 (Table 22.3, step 3). What its instructions do is said by the events and the
calls of firmware, and not by a program: the spec gives it no image, no entry point and no memory (log 5). -/
def Hart.firmware : Hart :=
  { key := { part := 16, id := 0 }, pc := 0, level := .m, x := Vector.replicate 32 0, f := Vector.replicate 32 0, csr := Csrs.reset, task := 0,
    entry := 0, index := 0, rtc := false, retired := 0,
    sched := { Sched.start 0 0 with status := .running, slot := some { core := 0, slot := 0 }, newHart := false },
    queue := [], held := .none, heldCls := 0, imgHeld := 0, imgOuter := none, xpend := 0, fpend := 0, slots := Vector.replicate 8 RangeSlot.empty,
    outst := [], path := [], eng := Engine.start, resv := none, resvSeq := none, resvLost := false, checked := [], irqs := [], req := .none,
    fwcall := none, stall := false, waitFor := none, area := none, tilesAway := 0 }

/-- The slot that it holds. -/
def Slot.firmware : Slot := { Slot.empty { core := 0, slot := 0 } with occupant := some Hart.firmware.key }

/-- The part at the end of package reset, with the host ports trained and FEATREQ open (Table 22.3, steps 1 to 5); no
partition exists, the only hart is that of device firmware, and time reads 0 (R24). The values that the spec does not give are those of log 7. -/
def State.reset : State :=
  { mem := [], harts := [Hart.firmware], slots := [Slot.firmware], cores := [], tlb := [], lines := [], fifo := [], l1d := [], l1i := [], regions := [],
    stale := [], astray := [], cxl := [], hostHeld := [], asked := [], wrCurs := [], wrCount := 0, snoops := [], hostWrites := [], atomics := [], ports := Vector.replicate 2 { cxl := false, atomicEnable := false },
    agents := agentList.map fun a => (a, { alive := true, incarnation := 0, lastBeat := 0, mute := false }),
    parts := Vector.replicate 17 Part.absent, ptr := 15, copies := [], colls := [], collsOver := [], tlbinvs := [], shadow := [], homeLost := [],
    links := Vector.replicate 9 (Vector.replicate 2 LinkDir.reset), islands := Vector.replicate 24 { mhz := 3300, clamped := false },
    power := 0, powerClamp := false, lowCount := 0, targetMhz := 3300, misland := 0, mecc := Vector.replicate 6 0,
    featReq := 0x3F, featClosed := false, pcmd := 0, parg := 0, pstat := 0, pterm := 0,
    limit := { locked := true, violations := 0, window := (0, 0), fuses := 0, leaf := 0, owner := List.replicate 32 0 },
    fw := { step := 5, recovery := false, rincaDigest := [], mDigest := [], rincaVersion := 0, mVersion := 0, staged := [],
            mainPower := true, key := List.replicate 56 0 },
    pkg := 0, time := 0, retiredCores := [], spares := [], flipped := [], upsets := [], corrupt := [], broken := [], bankErrors := [], out := [], posts := [], cur := none, issued := [], passes := [], inputs := [],
    elapse := [], strikes := [], delays := [], fresh := 0, eventTurn := false, evPos := 0 }

end Sys2Proof.Machine
end

