-- ==== Sys2Proof/Machine/Mem.lean ====
section
/-! DEFINITION. Bytes of memory: a list of cells with strictly rising addresses and no byte equal to what an unlisted
address reads as, which is 0 (log 1), and little-endian accesses of several bytes (R6). -/

namespace Sys2Proof.Machine

/-- The byte at an address. -/
def Mem.get : List Host.Cell → Nat → Byte
  | [], _ => 0
  | (a, b) :: m, i => if i = a then b else if i < a then 0 else Mem.get m i

/-- Memory without the cell at an address, if it holds one. -/
def Mem.put : List Host.Cell → Nat → Byte → List Host.Cell
  | [], i, v => if v = 0 then [] else [(i, v)]
  | (a, b) :: m, i, v =>
    if i < a then (if v = 0 then (a, b) :: m else (i, v) :: (a, b) :: m)
    else if i = a then (if v = 0 then m else (i, v) :: m)
    else (a, b) :: Mem.put m i v

/-- Every address is above the bound, the addresses rise strictly, and no byte is 0. -/
def Mem.wfFrom : Nat → List Host.Cell → Bool
  | _, [] => true
  | n, (a, b) :: m => decide (n ≤ a) && b != 0 && Mem.wfFrom (a + 1) m

/-- The canonical form of memory. -/
def Mem.wf (m : List Host.Cell) : Bool := Mem.wfFrom 0 m

/-- `n` consecutive bytes. -/
def Mem.bytes (m : List Host.Cell) (a : Nat) : Nat → List Byte
  | 0 => []
  | n + 1 => Mem.get m a :: Mem.bytes m (a + 1) n

/-- Writes consecutive bytes. -/
def Mem.putBytes (m : List Host.Cell) (a : Nat) : List Byte → List Host.Cell
  | [] => m
  | b :: bs => Mem.putBytes (Mem.put m a b) (a + 1) bs

/-- The number that bytes hold, the first byte the least significant (R6). -/
def leNat : List Byte → Nat
  | [] => 0
  | b :: bs => b.toNat + 256 * leNat bs

/-- The first `n` bytes of a number, the least significant first. -/
def leBytes : Nat → Nat → List Byte
  | 0, _ => []
  | n + 1, v => BitVec.ofNat 8 v :: leBytes n (v / 256)

/-- `n` bytes read as a number. -/
def State.readNat (s : State) (pa n : Nat) : Nat := leNat (Mem.bytes s.mem pa n)

/-- A doubleword of physical memory. -/
def State.readWord (s : State) (pa : Nat) : Word := BitVec.ofNat 64 (s.readNat pa 8)

/-- The state with other memory contents. -/
def State.setMem (s : State) (m : List Host.Cell) : State := { s with mem := m }

/-- Writes bytes to physical memory. -/
def State.writeBytes (s : State) (pa : Nat) (bs : List Byte) : State := s.setMem (Mem.putBytes s.mem pa bs)

/-- Writes the low `n` bytes of a number. -/
def State.writeNat (s : State) (pa n v : Nat) : State := s.writeBytes pa (leBytes n v)

/-- Bits `h` down to `l` of a number. -/
def bitsOf (v h l : Nat) : Nat := v / 2 ^ l % 2 ^ (h + 1 - l)

/-- The bytes below `a + n` at each of the addresses from `a`. -/
def addrRange (a n : Nat) : List Nat := (List.range n).map (a + ·)

end Sys2Proof.Machine
end

