-- ==== Sys2Proof/WellFormed.lean ====
section
/-! DEFINITION. Which instructions are encodings that the opcode map defines: the restrictions on formats, orderings and
fields that the types of the operands do not carry already. -/

namespace Sys2Proof

/-- Int = 0x0–0x7 (R84). -/
def Fmt.isInt : Fmt → Bool
  | .i8 | .n8 | .i16 | .n16 | .i32 | .n32 | .i64 | .n64 => true
  | .f16 | .bf16 | .f32 | .f64 | .e4m3 | .e5m2 | .e2m1 | .e8m0 => false

/-- Fp = 0x8–0xB (R84). -/
def Fmt.isFp : Fmt → Bool
  | .f16 | .bf16 | .f32 | .f64 => true
  | .i8 | .n8 | .i16 | .n16 | .i32 | .n32 | .i64 | .n64 | .e4m3 | .e5m2 | .e2m1 | .e8m0 => false

/-- 0xC–0xE, the formats of mopas (R87). -/
def Fmt.isSmall : Fmt → Bool
  | .e4m3 | .e5m2 | .e2m1 => true
  | .i8 | .n8 | .i16 | .n16 | .i32 | .n32 | .i64 | .n64 | .f16 | .bf16 | .f32 | .f64 | .e8m0 => false

/-- The signed integer formats (R57). -/
def Fmt.isSigned : Fmt → Bool
  | .i8 | .i16 | .i32 | .i64 => true
  | .n8 | .n16 | .n32 | .n64 | .f16 | .bf16 | .f32 | .f64 | .e4m3 | .e5m2 | .e2m1 | .e8m0 => false

/-- Bits of an element (Table 2.4; E2M1 has 4). -/
def Fmt.width : Fmt → Nat
  | .i8 | .n8 | .e4m3 | .e5m2 | .e8m0 => 8
  | .i16 | .n16 | .f16 | .bf16 => 16
  | .i32 | .n32 | .f32 => 32
  | .i64 | .n64 | .f64 => 64
  | .e2m1 => 4

/-- fcvt: codes 0x4–0xB, different, at least one floating-point; RM 0 on the pairs that never round (R79). -/
def fcvtOk (dst src : Fmt) (rm : Rm) : Bool :=
  let inRange := fun f : Fmt => f.isFp || (f.isInt && 32 ≤ f.width)
  let exactPair := ((src == .f16 || src == .bf16) && (dst == .f32 || dst == .f64)) || (src == .f32 && dst == .f64)
    || ((src == .i32 || src == .n32) && dst == .f64)
  inRange dst && inRange src && dst != src && (dst.isFp || src.isFp) && (!exactPair || rm == .dyn)

/-- vfcvt: the codes differ, E8M0 is not paired with an Int code, and vd ≠ vs1 across the 64-bit boundary (R181, R199). -/
def vfcvtOk (o : VCvt) : Bool :=
  o.dst != o.src && !(o.dst == .e8m0 && o.src.isInt) && !(o.src == .e8m0 && o.dst.isInt)
    && !((o.dst.width == 64) != (o.src.width == 64) && o.vd == o.vs1)

/-- The CSR numbers of Tables 1.3, 1.4 and 22.4 (R22, R24, R25, R507). -/
def csrNumbers : List Nat :=
  [0x000, 0x001, 0x002, 0x003, 0x004, 0x005, 0x006, 0x007, 0x008, 0x010, 0x011, 0x012, 0x013, 0x014, 0x015, 0x016,
   0x020, 0x021, 0x022, 0x023, 0x024, 0x025, 0x026, 0x027, 0x028, 0x029, 0x02A, 0x030, 0x031,
   0x100, 0x101, 0x102, 0x103, 0x104, 0x105, 0x106, 0x107, 0x108, 0x109, 0x10A, 0x10B, 0x10C, 0x10D,
   0x200, 0x201, 0x202, 0x203, 0x204]

/-- The number names a CSR. -/
def csrAssigned (csr : BitVec 12) : Bool := csrNumbers.contains csr.toNat

/-- hint.place: a die 0 .. 5 and, while the cluster counts, a cluster of that die (R82). -/
def placeOk (die : BitVec 3) (valid : Bool) (cluster : BitVec 2) : Bool :=
  die.toNat ≤ 5 && (!valid || cluster.toNat ≤ (if die.toNat = 0 then 0 else if die.toNat ≤ 2 then 3 else 1))

/-- Bits 25:0 of a 0x37 word hold one of the hints of Table 3.7, every field in range. -/
def hintAssigned (bits : BitVec 26) : Bool :=
  let h := (bits.extractLsb' 22 4).toNat
  let f := bits.extractLsb' 0 22
  let clear := fun (hi lo : Nat) => f.extractLsb' lo (hi + 1 - lo) == 0
  if h = 1 then clear 21 2
  else if h = 2 then true
  else if h = 3 then clear 20 16
  else if h = 4 then clear 21 3 && f.extractLsb' 0 3 != 0
  else if h = 5 then clear 21 16
  else if h = 6 then clear 21 6 && placeOk (f.extractLsb' 2 3) (f.getLsbD 5) (f.extractLsb' 0 2)
  else false

/-- The instruction is an encoding that the opcode map defines (R62, R75). Events, and a word pair that stands for no
encoding, carry no restriction. -/
def wf : Instr → Bool
  | .add .. | .sub .. | .and .. | .or .. | .xor .. | .andn .. | .sll ..
  | .srl .. | .sra .. | .rol .. | .ror .. | .slt .. | .sltn .. | .min ..
  | .max .. | .minn .. | .maxn .. | .mul .. | .mulh .. | .mulhn .. | .div ..
  | .divn .. | .rem .. | .remn .. | .sadd1 .. | .sadd2 .. | .sadd3 .. | .bext ..
  | .bins .. | .clz .. | .ctz .. | .popc .. | .sext_b .. | .sext_h .. | .sext_w ..
  | .zext_b .. | .zext_h .. | .zext_w .. | .addi .. | .andi .. | .ori .. | .xori ..
  | .slti .. | .slli .. | .srli .. | .srai .. | .lup .. | .pcadd .. => true
  | .beq .. | .bne .. | .blt .. | .bge .. | .bltn .. | .bgen .. | .j ..
  | .call .. | .jx .. | .callx .. | .ret .. | .land => true
  | .ldb .. | .ldbz .. | .ldh .. | .ldhz .. | .ldw .. | .ldwz .. | .ldd ..
  | .stb .. | .sth .. | .stw .. | .std .. => true
  | .ldres_w _ _ o _ => o == .relaxed || o == .acquire
  | .ldres_d _ _ o _ => o == .relaxed || o == .acquire
  | .stcond_w _ _ _ o _ => o == .relaxed || o == .release
  | .stcond_d _ _ _ o _ => o == .relaxed || o == .release
  | .amoadd_w .. | .amoand_w .. | .amoor_w .. | .amoxor_w .. | .amomin_w .. | .amomax_w .. | .amominn_w ..
  | .amomaxn_w .. | .amoswp_w .. | .amoadd_d .. | .amoand_d .. | .amoor_d .. | .amoxor_d .. | .amomin_d ..
  | .amomax_d .. | .amominn_d .. | .amomaxn_d .. | .amoswp_d .. | .amocas_w .. | .amocas_d .. => true
  | .fcvt _ _ dst src rm => fcvtOk dst src rm
  | .fadd .. | .fsub .. | .fmul .. | .fdiv .. | .fsqrt .. | .fmin .. | .fmax ..
  | .fcmpeq .. | .fcmplt .. | .fcmple .. | .fsgn .. | .fclass .. | .fneg .. | .fabs ..
  | .fma .. | .fms .. | .fnma .. | .fmvx .. | .fmvf .. => true
  | .csrrd _ csr => csrAssigned csr
  | .csrwr _ _ csr => csrAssigned csr
  | .csrset _ _ csr => csrAssigned csr
  | .csrclr _ _ csr => csrAssigned csr
  | .ecall | .ebreak | .eret | .ifence | .cinv .. | .cwb .. | .cflush ..
  | .vquery .. | .vdrop .. | .tdget .. => true
  | .fence o _ => o != .relaxed
  | .rfence o _ mask => o != .relaxed && mask != 0
  | .xfence | .rslot .. | .rslott .. | .barInit .. | .barArrive .. | .barWait .. => true
  | .launch .. | .join .. | .exit | .yield | .farm .. | .fclaim .. | .wmpub ..
  | .wmwait .. => true
  | .nullHint bits => !hintAssigned bits
  | .hintFuse n => n != 0
  | .hintPlace die v cl => placeOk die v cl
  | .hintClass .. | .hintPref .. | .hintLive .. | .hintPause .. => true
  | .vadd o => o.fmt.isInt
  | .vsub o => o.fmt.isInt
  | .vmul o => o.fmt.isInt
  | .vmulh o => o.fmt.isInt
  | .vdiv o => o.fmt.isInt
  | .vrem o => o.fmt.isInt
  | .vmin o => o.fmt.isInt
  | .vmax o => o.fmt.isInt
  | .vand o => o.fmt.isInt
  | .vor o => o.fmt.isInt
  | .vxor o => o.fmt.isInt
  | .vsll o => o.fmt.isInt
  | .vsrl o => o.fmt.isInt
  | .vsra o => o.fmt.isInt
  | .vabs o => o.fmt.isSigned
  | .vneg o => o.fmt.isSigned
  | .vcmp o => o.fmt.isInt && o.cond != .un && o.cond != .ord
  | .vid o => o.fmt.isInt && 32 ≤ o.fmt.width
  | .setvl .. | .vmerge .. | .vmv .. | .vmvx .. => true
  | .vfadd o => o.fmt.isFp
  | .vfsub o => o.fmt.isFp
  | .vfmul o => o.fmt.isFp
  | .vfdiv o => o.fmt.isFp
  | .vfsqrt o => o.fmt.isFp
  | .vfma o => o.fmt.isFp
  | .vfms o => o.fmt.isFp
  | .vfnma o => o.fmt.isFp
  | .vfmin o => o.fmt.isFp
  | .vfmax o => o.fmt.isFp
  | .vfabs o => o.fmt.isFp
  | .vfneg o => o.fmt.isFp
  | .vfcmp o => o.fmt.isFp
  | .vfcvt o => vfcvtOk o
  | .vld .. | .vlds .. | .vldx .. | .vld_st .. | .vst .. | .vsts .. | .vstx .. => true
  | .vslideup o => o.vd != o.vs1
  | .vslidedn o => o.vd != o.vs1
  | .vperm o => o.vd != o.vs1 && o.vd != o.vs2
  | .vcompress o => o.vd != o.vs1
  | .vexpand o => o.vd != o.vs1
  | .vredsum o => o.fmt.isInt && o.rm == .dyn && !o.flush || o.fmt.isFp
  | .vredosum o => o.fmt.isInt && o.rm == .dyn && !o.flush || o.fmt.isFp
  | .vredmax o => o.rm == .dyn && (o.fmt.isInt && !o.flush || o.fmt.isFp)
  | .vredq o => o.fmt.isInt && 32 ≤ o.fmt.width && !o.flush || o.fmt.isFp
  | .vredmin o => o.rm == .dyn && (o.fmt.isInt && !o.flush || o.fmt.isFp)
  | .vredand o => o.rm == .dyn && !o.flush && o.fmt.isInt
  | .vredor o => o.rm == .dyn && !o.flush && o.fmt.isInt
  | .vexp2 o => o.fmt == .f32 || o.fmt == .f64
  | .vrcp o => o.fmt == .f32 || o.fmt == .f64
  | .vlog2 o => o.fmt == .f32 || o.fmt == .f64
  | .vrsqrt o => o.fmt == .f32 || o.fmt == .f64
  | .vsinpi o => o.fmt == .f32 || o.fmt == .f64
  | .vcospi o => o.fmt == .f32 || o.fmt == .f64
  | .kand .. | .kor .. | .kxor .. | .knot .. | .kpopc .. | .kfirst .. | .kset .. => true
  | .msetvl o => o.fmt == .i32 || o.fmt == .f32 || o.fmt == .f64
  | .mopa o => o.fmt.isFp
  | .mopa4 o => o.fmt == .i8 || o.fmt == .n8 || o.fmt.isSmall
  | .mopas o => o.fmt.isSmall
  | .mexit .. | .mzero .. | .mld .. | .mst .. | .mrow .. | .mcol .. => true
  | .coll o => (o.fmt == .i32 || o.fmt == .i64 || o.fmt == .f32 || o.fmt == .f64) && (o.scope == .die || o.scope == .package || o.scope == .system)
  | .cpy .. | .cpyt .. | .cpyr .. | .cbinit .. | .cbwait .. | .sopen .. | .sclose ..
  | .mbxpop .. | .waitmsg .. | .msgsend .. | .rxopen .. | .rxpop .. | .collwait .. => true
  | .vdef .. | .vresize .. | .tdset .. | .tlbinv .. => true
  | .illegalWord .. => true
  | .runLimit .. | .vqEntryIssue .. | .vectorMemoryResponse .. | .elementProgress .. | .waitResume .. | .barArriveFire .. | .copyTransfer ..
  | .copyCompletion .. | .streamFetch .. | .rxMessageArrival .. | .collOperationStart .. | .collPartialTransfer .. | .collOperationEnd .. | .collPackageUnreachable .. => true
  | .pcieAtomicopCompletion .. | .pcieCompletionTimeout .. | .vaultWalkStep .. | .regionRequest .. | .leaseExpiry .. | .leaseRecallAck .. | .regionDecay ..
  | .cxlCacheResponse .. | .snpData .. | .snpInv .. | .snpCur .. | .cxlMemRead .. | .cxlMemWrite .. | .heartbeat ..
  | .agentDeath .. | .agentReadmit .. => true
  | .linkStop .. | .linkGo .. | .linkSectorReceive .. | .linkDictChecksum .. => true
  | .qctlWrite .. | .tailWrite .. | .nop .. | .hqLaunch .. | .entryWrite .. | .tdWrite .. | .badCommand ..
  | .registerWrite .. | .doorbell .. | .interrupt .. | .netLaunchPacket .. => true
  | .quantumEnd .. | .waitSlotTimeout .. | .priorityAging .. | .hartWake .. | .mixWindowEnd .. | .retrieverArrival .. | .tlbinvAck .. => true
  | .powerInterval .. | .thermalClampOn .. | .thermalClampOff .. | .powerClampOn .. | .powerClampOff .. | .coreRetire .. | .debug ..
  | .pldmSensorRead .. | .pldmFirmwareUpdate .. | .commitSvn .. | .getMeasurements | .packageReset .. | .featreqWrite .. => true
  | .create .. | .start .. | .swapout .. | .swapin .. | .terminate .. | .destroy .. | .badOp ..
  | .bankpool .. | .groupdef .. | .asidrange .. | .ctxarea .. | .codefail .. | .partreq .. | .tdtable ..
  | .asidctx .. => true
  | .pcieReadCompletion .. | .birsp .. | .hintPauseEnd .. | .taskTerminated .. | .mainSideUnpowered => true

/-- `wf` as a proposition. -/
abbrev WellFormed (i : Instr) : Prop := wf i = true

end Sys2Proof
end

