-- ==== Sys2Proof/Decode.lean ====
section
/-! DEFINITION. The decoder, total on any words and rejecting by name, and the encoder, both from the encoding tables of
the spec (Tables 2.1 to 2.6 and 3.1 to 3.12). -/

namespace Sys2Proof

/-- Why a word pair is no defined encoding (Table 2.8). -/
inductive Reject where
  | truncated
  | major
  | unassigned
  | reserved
  | operand
deriving DecidableEq, Repr

/-! ### Cutting and joining bit fields -/

/-- The upper `n` bits. -/
def hi (n m : Nat) (w : BitVec (n + m)) : BitVec n := w.extractLsb' m n
/-- The lower `m` bits. -/
def lo (n m : Nat) (w : BitVec (n + m)) : BitVec m := w.extractLsb' 0 m

@[simp] theorem hi_append {n m : Nat} (x : BitVec n) (y : BitVec m) : hi n m (x ++ y) = x := by
  ext i h
  simp only [hi, BitVec.getElem_extractLsb', BitVec.getLsbD_append]
  have : ¬ (m + i < m) := by omega
  simp [this, BitVec.getLsbD_eq_getElem h]

@[simp] theorem lo_append {n m : Nat} (x : BitVec n) (y : BitVec m) : lo n m (x ++ y) = y := by
  ext i h
  simp [lo, BitVec.getElem_extractLsb', BitVec.getLsbD_append, h]

/-- Two fields joined, the first above. -/
def app (n m : Nat) (x : BitVec n) (y : BitVec m) : BitVec (n + m) := x ++ y

@[simp] theorem hi_app {n m : Nat} (x : BitVec n) (y : BitVec m) : hi n m (app n m x y) = x := hi_append x y
@[simp] theorem lo_app {n m : Nat} (x : BitVec n) (y : BitVec m) : lo n m (app n m x y) = y := lo_append x y

/-- Sign extension to 64 bits (R53). -/
def sext64 {n : Nat} (x : BitVec n) : Word := x.signExtend 64
/-- Zero extension to 64 bits. -/
def zext64 {n : Nat} (x : BitVec n) : Word := x.setWidth 64

/-- Bits of a register number. -/
def bits5 (r : Reg) : BitVec 5 := BitVec.ofFin r
/-- Register number in a 5-bit field. -/
def regOf (b : BitVec 5) : Reg := b.toFin
/-- Bits of a number 0 .. 7. -/
def bits3 (k : Fin 8) : BitVec 3 := BitVec.ofFin k
/-- Number 0 .. 7 in a 3-bit field. -/
def num3 (b : BitVec 3) : Fin 8 := b.toFin
/-- Bits of a receive-queue number. -/
def bits4 (q : Fin 16) : BitVec 4 := BitVec.ofFin q
/-- A k register in a 5-bit field (R84). -/
def bitsK (k : KReg) : BitVec 5 := app 2 3 0 (bits3 k)
/-- A tile in a 5-bit field (R84). -/
def bitsT (t : Tile) : BitVec 5 := app 4 1 0 (BitVec.ofFin t)
/-- Bits of a range-slot number (R300). -/
def slotBits (n : Fin 8) : BitVec 3 := bits3 n
/-- A one-bit field read as a Bool. -/
def flag (b : BitVec 1) : Bool := b == 1

@[simp] theorem regOf_bits5 (r : Reg) : regOf (bits5 r) = r := rfl
@[simp] theorem num3_bits3 (k : Fin 8) : num3 (bits3 k) = k := rfl
@[simp] theorem flag_ofBool (b : Bool) : flag (BitVec.ofBool b) = b := by cases b <;> rfl

/-! ### Codes of formats, rounding modes, orderings, scopes and conditions -/

def Fmt.code : Fmt → BitVec 4
  | .i8 => 0x0 | .n8 => 0x1 | .i16 => 0x2 | .n16 => 0x3 | .i32 => 0x4 | .n32 => 0x5 | .i64 => 0x6 | .n64 => 0x7
  | .f16 => 0x8 | .bf16 => 0x9 | .f32 => 0xA | .f64 => 0xB | .e4m3 => 0xC | .e5m2 => 0xD | .e2m1 => 0xE | .e8m0 => 0xF

def Fmt.all : List Fmt :=
  [.i8, .n8, .i16, .n16, .i32, .n32, .i64, .n64, .f16, .bf16, .f32, .f64, .e4m3, .e5m2, .e2m1, .e8m0]

/-- The format with a code (Table 2.4). -/
def Fmt.ofCode (c : BitVec 4) : Fmt := Fmt.all.getD c.toNat .i8

def Rm.code : Rm → BitVec 3
  | .dyn => 0 | .rne => 1 | .rtz => 2 | .rup => 3 | .rdn => 4 | .rna => 5

/-- The rounding mode with a code; 6 and 7 name none (R58). -/
def Rm.ofCode (c : BitVec 3) : Except Reject Rm :=
  match c.toNat with
  | 0 => .ok .dyn | 1 => .ok .rne | 2 => .ok .rtz | 3 => .ok .rup | 4 => .ok .rdn | 5 => .ok .rna | _ => .error .operand

def Order.code : Order → BitVec 2
  | .relaxed => 0 | .acquire => 1 | .release => 2 | .acqRel => 3

def Order.ofCode (c : BitVec 2) : Order :=
  match c.toNat with
  | 0 => .relaxed | 1 => .acquire | 2 => .release | _ => .acqRel

def Scope.code : Scope → BitVec 3
  | .hart => 0 | .core => 1 | .cluster => 2 | .die => 3 | .package => 4 | .system => 5

/-- The scope with a code; 6 and 7 name none (R59). -/
def Scope.ofCode (c : BitVec 3) : Except Reject Scope :=
  match c.toNat with
  | 0 => .ok .hart | 1 => .ok .core | 2 => .ok .cluster | 3 => .ok .die | 4 => .ok .package | 5 => .ok .system
  | _ => .error .operand

def Cond.code : Cond → BitVec 3
  | .eq => 0 | .ne => 1 | .lt => 2 | .le => 3 | .gt => 4 | .ge => 5 | .un => 6 | .ord => 7

def Cond.ofCode (c : BitVec 3) : Cond :=
  match c.toNat with
  | 0 => .eq | 1 => .ne | 2 => .lt | 3 => .le | 4 => .gt | 5 => .ge | 6 => .un | _ => .ord

def CollOp.code : CollOp → BitVec 3
  | .sum => 0 | .min => 1 | .max => 2

def CollOp.ofCode (c : BitVec 3) : Except Reject CollOp :=
  match c.toNat with
  | 0 => .ok .sum | 1 => .ok .min | 2 => .ok .max | _ => .error .operand

@[simp] theorem Fmt.ofCode_code (f : Fmt) : Fmt.ofCode f.code = f := by cases f <;> rfl
@[simp] theorem Rm.ofCode_code (r : Rm) : Rm.ofCode r.code = .ok r := by cases r <;> rfl
@[simp] theorem Order.ofCode_code (o : Order) : Order.ofCode o.code = o := by cases o <;> rfl
@[simp] theorem Scope.ofCode_code (s : Scope) : Scope.ofCode s.code = .ok s := by cases s <;> rfl
@[simp] theorem Cond.ofCode_code (c : Cond) : Cond.ofCode c.code = c := by cases c <;> rfl
@[simp] theorem CollOp.ofCode_code (o : CollOp) : CollOp.ofCode o.code = .ok o := by cases o <;> rfl

/-! ### Layouts -/

/-- The fields of R format below the major opcode (Table 2.1). -/
structure RFields where
  a : BitVec 5
  b : BitVec 5
  c : BitVec 5
  fn : BitVec 11
deriving DecidableEq, Repr

def RFields.ofBits (x : BitVec 26) : RFields :=
  let r21 := lo 5 21 x
  let r16 := lo 5 16 r21
  { a := hi 5 21 x, b := hi 5 16 r21, c := hi 5 11 r16, fn := lo 5 11 r16 }

def RFields.bits (f : RFields) : BitVec 26 := app 5 21 f.a (app 5 16 f.b (app 5 11 f.c f.fn))

@[simp] theorem RFields.ofBits_bits (f : RFields) : RFields.ofBits f.bits = f := by
  simp [RFields.ofBits, RFields.bits]

/-- Word 0 of a 64-bit instruction below the major opcode, as XV and XM lay it out (Table 2.2), with word 1 (Table 2.3). -/
structure XV where
  vd : BitVec 5
  vs1 : BitVec 5
  vs2 : BitVec 5
  vs3 : BitVec 5
  k : BitVec 3
  fmt : BitVec 4
  x : BitVec 6
  sat : BitVec 1
  rm : BitVec 3
  flush : BitVec 1
  hint : BitVec 4
deriving DecidableEq, Repr

/-- Every field zero. -/
def XV.zero : XV := { vd := 0, vs1 := 0, vs2 := 0, vs3 := 0, k := 0, fmt := 0, x := 0, sat := 0, rm := 0, flush := 0, hint := 0 }

def XV.word0 (f : XV) : BitVec 26 := app 5 21 f.vd (app 5 16 f.vs1 (app 5 11 f.vs2 (app 5 6 f.vs3 (app 3 3 f.k (lo 1 3 f.fmt)))))
def XV.ctl (f : XV) : BitVec 16 := app 6 10 f.x (app 1 9 f.sat (app 3 6 f.rm (app 1 5 f.flush (app 1 4 (hi 1 3 f.fmt) f.hint))))

def XV.ofBits (body : BitVec 26) (ctl : BitVec 16) : XV :=
  let r21 := lo 5 21 body
  let r16 := lo 5 16 r21
  let r11 := lo 5 11 r16
  let r6 := lo 5 6 r11
  let c10 := lo 6 10 ctl
  let c9 := lo 1 9 c10
  let c6 := lo 3 6 c9
  let c5 := lo 1 5 c6
  { vd := hi 5 21 body, vs1 := hi 5 16 r21, vs2 := hi 5 11 r16, vs3 := hi 5 6 r11, k := hi 3 3 r6,
    fmt := app 1 3 (hi 1 4 c5) (lo 3 3 r6), x := hi 6 10 ctl, sat := hi 1 9 c10, rm := hi 3 6 c9, flush := hi 1 5 c6,
    hint := lo 1 4 c5 }

theorem hi_lo_join (x : BitVec 4) : app 1 3 (hi 1 3 x) (lo 1 3 x) = x := by revert x; decide

@[simp] theorem XV.ofBits_bits (f : XV) : XV.ofBits f.word0 f.ctl = f := by
  simp [XV.ofBits, XV.word0, XV.ctl, hi_lo_join]

/-- XM (Tables 2.2 and 2.3). -/
structure XM where
  v : BitVec 5
  base : BitVec 5
  ix : BitVec 5
  rsv : BitVec 5
  k : BitVec 3
  fmt : BitVec 4
  off : BitVec 11
  hint : BitVec 4
deriving DecidableEq, Repr

def XM.word0 (f : XM) : BitVec 26 := app 5 21 f.v (app 5 16 f.base (app 5 11 f.ix (app 5 6 f.rsv (app 3 3 f.k (lo 1 3 f.fmt)))))
def XM.ctl (f : XM) : BitVec 16 := app 11 5 f.off (app 1 4 (hi 1 3 f.fmt) f.hint)

def XM.ofBits (body : BitVec 26) (ctl : BitVec 16) : XM :=
  let r21 := lo 5 21 body
  let r16 := lo 5 16 r21
  let r11 := lo 5 11 r16
  let r6 := lo 5 6 r11
  let c5 := lo 11 5 ctl
  { v := hi 5 21 body, base := hi 5 16 r21, ix := hi 5 11 r16, rsv := hi 5 6 r11, k := hi 3 3 r6,
    fmt := app 1 3 (hi 1 4 c5) (lo 3 3 r6), off := hi 11 5 ctl, hint := lo 1 4 c5 }

@[simp] theorem XM.ofBits_bits (f : XM) : XM.ofBits f.word0 f.ctl = f := by
  simp [XM.ofBits, XM.word0, XM.ctl, hi_lo_join]

/-- XE (Tables 2.2 and 2.3). -/
structure XE where
  xd : BitVec 5
  x1 : BitVec 5
  x2 : BitVec 5
  x3 : BitVec 5
  sel : BitVec 6
  ctl : BitVec 12
  hint : BitVec 4
deriving DecidableEq, Repr

def XE.word0 (f : XE) : BitVec 26 := app 5 21 f.xd (app 5 16 f.x1 (app 5 11 f.x2 (app 5 6 f.x3 f.sel)))

def XE.ofBits (body : BitVec 26) (ctl : BitVec 16) : XE :=
  let r21 := lo 5 21 body
  let r16 := lo 5 16 r21
  let r11 := lo 5 11 r16
  { xd := hi 5 21 body, x1 := hi 5 16 r21, x2 := hi 5 11 r16, x3 := hi 5 6 r11, sel := lo 5 6 r11,
    ctl := hi 12 4 ctl, hint := lo 12 4 ctl }

@[simp] theorem XE.ofBits_bits (f : XE) : XE.ofBits f.word0 (app 12 4 f.ctl f.hint) = f := by
  simp [XE.ofBits, XE.word0]

/-! ### The operation lists: fn, or the major opcode where it names the instruction alone -/

/-- Major 0x01, three registers (R77). -/
def intOps : List (Nat × (Reg → Reg → Reg → Instr)) :=
  [(0x00, .add), (0x01, .sub), (0x02, .and), (0x03, .or), (0x04, .xor), (0x05, .andn),
   (0x06, .sll), (0x07, .srl), (0x08, .sra), (0x09, .rol), (0x0A, .ror), (0x0B, .slt),
   (0x0C, .sltn), (0x0D, .min), (0x0E, .max), (0x0F, .minn), (0x10, .maxn), (0x11, .mul),
   (0x12, .mulh), (0x13, .mulhn), (0x14, .div), (0x15, .divn), (0x16, .rem), (0x17, .remn),
   (0x18, .sadd1), (0x19, .sadd2), (0x1A, .sadd3), (0x1B, .bext), (0x1C, .bins)]

/-- Major 0x01, one source; rs2 is reserved (R77). -/
def unaryOps : List (Nat × (Reg → Reg → Instr)) :=
  [(0x20, .clz), (0x21, .ctz), (0x22, .popc), (0x23, .sext_b), (0x24, .sext_h),
   (0x25, .sext_w), (0x26, .zext_b), (0x27, .zext_h), (0x28, .zext_w)]

/-- Majors of I format with a 16-bit immediate (R76). -/
def immOps : List (Nat × (Reg → Reg → BitVec 16 → Instr)) :=
  [(0x02, .addi), (0x03, .andi), (0x04, .ori), (0x05, .xori), (0x06, .slti),
   (0x0A, .ldbz), (0x0B, .ldhz), (0x0C, .ldwz), (0x18, .ldb), (0x19, .ldh),
   (0x1A, .ldw), (0x1B, .ldd)]

/-- The immediate shifts (R53). -/
def shiftOps : List (Nat × (Reg → Reg → BitVec 6 → Instr)) :=
  [(0x07, .slli), (0x08, .srli), (0x09, .srai)]

/-- U format (R53). -/
def upperOps : List (Nat × (Reg → BitVec 21 → Instr)) :=
  [(0x0E, .lup), (0x0F, .pcadd)]

/-- B format (R76). -/
def branchOps : List (Nat × (Reg → Reg → BitVec 16 → Instr)) :=
  [(0x10, .beq), (0x11, .bne), (0x12, .blt), (0x13, .bge), (0x14, .bltn), (0x15, .bgen)]

/-- J format (R76). -/
def jumpOps : List (Nat × (BitVec 26 → Instr)) :=
  [(0x16, .j), (0x17, .call)]

/-- S format: the stored register, then the base (R76). -/
def storeOps : List (Nat × (Reg → Reg → BitVec 16 → Instr)) :=
  [(0x1C, .stb), (0x1D, .sth), (0x1E, .stw), (0x1F, .std)]

/-- Major 0x20 (R78). -/
def amoWOps : List (Nat × (Reg → Reg → Reg → Order → Scope → Instr)) :=
  [(0x00, .amoadd_w), (0x01, .amoand_w), (0x02, .amoor_w), (0x03, .amoxor_w), (0x04, .amomin_w),
   (0x05, .amomax_w), (0x06, .amominn_w), (0x07, .amomaxn_w), (0x08, .amoswp_w)]

/-- Major 0x21 (R78). -/
def amoDOps : List (Nat × (Reg → Reg → Reg → Order → Scope → Instr)) :=
  [(0x00, .amoadd_d), (0x01, .amoand_d), (0x02, .amoor_d), (0x03, .amoxor_d), (0x04, .amomin_d),
   (0x05, .amomax_d), (0x06, .amominn_d), (0x07, .amomaxn_d), (0x08, .amoswp_d)]

/-- Major 0x22 (R78). -/
def casOps : List (Nat × (Reg → Reg → Reg → Order → Scope → Instr)) :=
  [(0x00, .amocas_w), (0x01, .amocas_d)]

/-- Major 0x23, ldres; rs2 is reserved (R78). -/
def ldresOps : List (Nat × (Reg → Reg → Order → Scope → Instr)) :=
  [(0x00, .ldres_w), (0x01, .ldres_d)]

/-- Major 0x23, stcond (R78). -/
def stcondOps : List (Nat × (Reg → Reg → Reg → Order → Scope → Instr)) :=
  [(0x02, .stcond_w), (0x03, .stcond_d)]

/-- Major 0x24, rounding rows of two sources (R79). -/
def fpRoundOps : List (Nat × (Reg → Reg → Reg → Bool → Rm → Instr)) :=
  [(0x00, .fadd), (0x01, .fsub), (0x02, .fmul), (0x03, .fdiv)]

/-- Major 0x24, rows that do not round, of two sources (R79). -/
def fpPlainOps : List (Nat × (Reg → Reg → Reg → Bool → Instr)) :=
  [(0x05, .fmin), (0x06, .fmax), (0x07, .fcmpeq), (0x08, .fcmplt), (0x09, .fcmple), (0x0B, .fsgn)]

/-- Major 0x24, rows that do not round, of one source (R79). -/
def fpUnaryOps : List (Nat × (Reg → Reg → Bool → Instr)) :=
  [(0x0A, .fclass), (0x0C, .fneg), (0x0D, .fabs)]

/-- Major 0x26 by op[1:0] (R79). -/
def fusedOps : List (Nat × (Reg → Reg → Reg → Reg → Bool → Rm → Instr)) :=
  [(0x00, .fma), (0x01, .fms), (0x02, .fnma)]

/-! ### Decoding 32-bit instructions -/

/-- Goes on only where a condition holds. -/
def need (c : Bool) (r : Reject) (x : Except Reject Instr) : Except Reject Instr := if c then x else .error r

/-- Major 0x01 (Table 3.2). -/
def decodeInt (f : RFields) : Except Reject Instr :=
  match intOps.lookup f.fn.toNat with
  | some op => .ok (op (regOf f.a) (regOf f.b) (regOf f.c))
  | none =>
    match unaryOps.lookup f.fn.toNat with
    | some op => need (f.c == 0) .reserved (.ok (op (regOf f.a) (regOf f.b)))
    | none => .error .unassigned

/-- Major 0x0D (Table 3.2). -/
def decodeControl (f : RFields) : Except Reject Instr :=
  match f.fn.toNat with
  | 0 => need (f.a == 0 && f.c == 0) .reserved (.ok (.jx (regOf f.b)))
  | 1 => need (f.c == 0) .reserved (.ok (.callx (regOf f.a) (regOf f.b)))
  | 2 => need (f.a == 0 && f.c == 0) .reserved (.ok (.ret (regOf f.b)))
  | 3 => need (f.a == 0 && f.b == 0 && f.c == 0) .reserved (.ok .land)
  | _ => .error .unassigned

/-- The atomics of one major: ORD, SCOPE and the operation in fn (Table 3.3). -/
def decodeAmo (ops : List (Nat × (Reg → Reg → Reg → Order → Scope → Instr))) (f : RFields) : Except Reject Instr :=
  let r9 := lo 2 9 f.fn
  match ops.lookup (lo 3 6 r9).toNat, Scope.ofCode (hi 3 6 r9) with
  | some op, .ok sc => .ok (op (regOf f.a) (regOf f.b) (regOf f.c) (Order.ofCode (hi 2 9 f.fn)) sc)
  | none, _ => .error .unassigned
  | some _, .error r => .error r

/-- Major 0x23 (Table 3.3). -/
def decodeReserve (f : RFields) : Except Reject Instr :=
  let r9 := lo 2 9 f.fn
  match ldresOps.lookup (lo 3 6 r9).toNat, Scope.ofCode (hi 3 6 r9) with
  | some op, .ok sc => need (f.c == 0) .reserved (.ok (op (regOf f.a) (regOf f.b) (Order.ofCode (hi 2 9 f.fn)) sc))
  | some _, .error r => .error r
  | none, _ => decodeAmo stcondOps f

/-- Major 0x24 (Table 3.4). -/
def decodeFp (f : RFields) : Except Reject Instr :=
  let r8 := lo 3 8 f.fn
  let op := (lo 1 7 r8).toNat
  let w := flag (hi 1 7 r8)
  match Rm.ofCode (hi 3 8 f.fn) with
  | .error r => .error r
  | .ok rm =>
    match fpRoundOps.lookup op with
    | some i => .ok (i (regOf f.a) (regOf f.b) (regOf f.c) w rm)
    | none =>
      match fpPlainOps.lookup op with
      | some i => need (rm == .dyn) .operand (.ok (i (regOf f.a) (regOf f.b) (regOf f.c) w))
      | none =>
        match fpUnaryOps.lookup op with
        | some i => need (rm == .dyn && f.c == 0) .operand (.ok (i (regOf f.a) (regOf f.b) w))
        | none =>
          if op = 4 then need (f.c == 0) .reserved (.ok (.fsqrt (regOf f.a) (regOf f.b) w rm))
          else .error .unassigned

/-- Major 0x25 (Table 3.4). -/
def decodeFcvt (f : RFields) : Except Reject Instr :=
  let r8 := lo 3 8 f.fn
  match Rm.ofCode (hi 3 8 f.fn) with
  | .error r => .error r
  | .ok rm => need (f.c == 0) .reserved
      (.ok (.fcvt (regOf f.a) (regOf f.b) (Fmt.ofCode (hi 4 4 r8)) (Fmt.ofCode (lo 4 4 r8)) rm))

/-- Major 0x26 (Table 3.4). -/
def decodeFused (f : RFields) : Except Reject Instr :=
  let r8 := lo 3 8 f.fn
  let r3 := lo 5 3 r8
  match Rm.ofCode (hi 3 8 f.fn), fusedOps.lookup (lo 1 2 r3).toNat with
  | .error r, _ => .error r
  | .ok _, none => .error .unassigned
  | .ok rm, some op => .ok (op (regOf f.a) (regOf f.b) (regOf f.c) (regOf (hi 5 3 r8)) (flag (hi 1 2 r3)) rm)

/-- Major 0x27 (Table 3.4). -/
def decodeFmv (f : RFields) : Except Reject Instr :=
  match f.fn.toNat with
  | 0 => need (f.c == 0) .reserved (.ok (.fmvx (regOf f.a) (regOf f.b)))
  | 1 => need (f.c == 0) .reserved (.ok (.fmvf (regOf f.a) (regOf f.b)))
  | _ => .error .unassigned

/-- Major 0x2C, C format (Table 3.5). -/
def decodeCsr (x : BitVec 26) : Except Reject Instr :=
  let r21 := lo 5 21 x
  let r16 := lo 5 16 r21
  let d := regOf (hi 5 21 x)
  let a := hi 5 16 r21
  let csr := hi 12 4 r16
  match (lo 12 4 r16).toNat with
  | 0 => need (a == 0) .reserved (.ok (.csrrd d csr))
  | 1 => .ok (.csrwr d (regOf a) csr)
  | 2 => .ok (.csrset d (regOf a) csr)
  | 3 => .ok (.csrclr d (regOf a) csr)
  | _ => .error .unassigned

/-- Major 0x2D (Table 3.5). -/
def decodeSystem (f : RFields) : Except Reject Instr :=
  let none3 := f.a == 0 && f.b == 0 && f.c == 0
  match f.fn.toNat with
  | 0x000 => need none3 .reserved (.ok .ecall)
  | 0x001 => need none3 .reserved (.ok .ebreak)
  | 0x002 => need none3 .reserved (.ok .eret)
  | 0x008 => need none3 .reserved (.ok .ifence)
  | 0x010 => need (f.a == 0) .reserved (.ok (.cinv (regOf f.b) (regOf f.c)))
  | 0x011 => need (f.a == 0) .reserved (.ok (.cwb (regOf f.b) (regOf f.c)))
  | 0x012 => need (f.a == 0) .reserved (.ok (.cflush (regOf f.b) (regOf f.c)))
  | _ => .error .unassigned

/-- Major 0x2E (Table 3.5). -/
def decodeQuery (f : RFields) : Except Reject Instr :=
  match f.fn.toNat with
  | 0 => .ok (.vquery (regOf f.a) (regOf f.b) (regOf f.c))
  | 1 => need (f.c == 0) .reserved (.ok (.vdrop (regOf f.a) (regOf f.b)))
  | 2 => .ok (.tdget (regOf f.a) (regOf f.b) (regOf f.c))
  | _ => .error .unassigned

/-- Major 0x30 (Table 3.6). -/
def decodeFence (f : RFields) : Except Reject Instr :=
  let r9 := lo 2 9 f.fn
  let none3 := f.a == 0 && f.b == 0 && f.c == 0
  match (lo 3 6 r9).toNat with
  | 0 =>
    match Scope.ofCode (hi 3 6 r9) with
    | .ok sc => need none3 .reserved (.ok (.fence (Order.ofCode (hi 2 9 f.fn)) sc))
    | .error r => .error r
  | 1 => need (none3 && hi 2 9 f.fn == 0 && hi 3 6 r9 == 0) .reserved (.ok .xfence)
  | _ => .error .unassigned

/-- Major 0x31 (R81). -/
def decodeRfence (x : BitVec 26) : Except Reject Instr :=
  let imm := lo 5 16 (lo 5 21 x)
  let r14 := lo 2 14 imm
  let r11 := lo 3 11 r14
  match Scope.ofCode (hi 3 11 r14) with
  | .error r => .error r
  | .ok sc => need (hi 5 21 x == 0 && hi 5 16 (lo 5 21 x) == 0 && hi 3 8 r11 == 0) .reserved
      (.ok (.rfence (Order.ofCode (hi 2 14 imm)) sc (lo 3 8 r11)))

/-- Major 0x32 (Table 3.6). -/
def decodeSlot (f : RFields) : Except Reject Instr :=
  let r4 := lo 7 4 f.fn
  let n := num3 (lo 1 3 r4)
  need (f.a == 0 && hi 7 4 f.fn == 0) .reserved
    (if hi 1 3 r4 == 0 then .ok (.rslot n (regOf f.b) (regOf f.c))
     else need (f.c == 0) .reserved (.ok (.rslott n (regOf f.b))))

/-- Major 0x33 (Table 3.6). -/
def decodeBarrier (f : RFields) : Except Reject Instr :=
  let r9 := lo 2 9 f.fn
  match Scope.ofCode (hi 3 6 r9) with
  | .error r => .error r
  | .ok sc => need (f.a == 0 && hi 2 9 f.fn == 0) .reserved
      (match (lo 3 6 r9).toNat with
       | 0 => .ok (.barInit (regOf f.b) (regOf f.c) sc)
       | 1 => need (f.c == 0) .reserved (.ok (.barArrive (regOf f.b) sc))
       | 2 => need (f.c == 0) .reserved (.ok (.barWait (regOf f.b) sc))
       | _ => .error .unassigned)

/-- Major 0x34 (Table 3.6). -/
def decodeTask (f : RFields) : Except Reject Instr :=
  let none3 := f.a == 0 && f.b == 0 && f.c == 0
  match f.fn.toNat with
  | 0 => .ok (.launch (regOf f.a) (regOf f.b) (regOf f.c))
  | 1 => need (f.c == 0) .reserved (.ok (.join (regOf f.a) (regOf f.b)))
  | 2 => need none3 .reserved (.ok .exit)
  | 3 => need none3 .reserved (.ok .yield)
  | _ => .error .unassigned

/-- Major 0x35 (Table 3.6). -/
def decodeFarm (f : RFields) : Except Reject Instr :=
  match f.fn.toNat with
  | 0 => need (f.c == 0) .reserved (.ok (.farm (regOf f.a) (regOf f.b)))
  | 1 => need (f.c == 0) .reserved (.ok (.fclaim (regOf f.a) (regOf f.b)))
  | 2 => need (f.a == 0) .reserved (.ok (.wmpub (regOf f.b) (regOf f.c)))
  | 3 => need (f.a == 0) .reserved (.ok (.wmwait (regOf f.b) (regOf f.c)))
  | _ => .error .unassigned

/-- Major 0x37: every word is a hint, and one that Table 3.7 does not assign is a no-op (R82). -/
def decodeHint (x : BitVec 26) : Except Reject Instr :=
  let f := lo 4 22 x
  if hintAssigned x then
    match (hi 4 22 x).toNat with
    | 1 => .ok (.hintClass (lo 20 2 f).toFin)
    | 2 => .ok (.hintPref (flag (hi 1 21 f)) (regOf (hi 5 16 (lo 1 21 f))) (lo 5 16 (lo 1 21 f)))
    | 3 => .ok (.hintLive (flag (hi 1 21 f)) (lo 5 16 (lo 1 21 f)))
    | 4 => .ok (.hintFuse (lo 19 3 f))
    | 5 => .ok (.hintPause (lo 6 16 f))
    | _ => .ok (.hintPlace (hi 3 2 (lo 1 5 (lo 16 6 f))) (flag (hi 1 5 (lo 16 6 f))) (lo 3 2 (lo 1 5 (lo 16 6 f))))
  else .ok (.nullHint x)

/-- The majors of I, U, B, J and S format (Table 3.1). -/
def decodeImm (maj : Nat) (x : BitVec 26) : Except Reject Instr :=
  let r21 := lo 5 21 x
  let a := regOf (hi 5 21 x)
  let b := regOf (hi 5 16 r21)
  let imm := lo 5 16 r21
  match immOps.lookup maj, shiftOps.lookup maj, upperOps.lookup maj, branchOps.lookup maj, jumpOps.lookup maj,
    storeOps.lookup maj with
  | some op, _, _, _, _, _ => .ok (op a b imm)
  | none, some op, _, _, _, _ => need (hi 10 6 imm == 0) .reserved (.ok (op a b (lo 10 6 imm)))
  | none, none, some op, _, _, _ => .ok (op a r21)
  | none, none, none, some op, _, _ => .ok (op a b imm)
  | none, none, none, none, some op, _ => .ok (op x)
  | none, none, none, none, none, some op => .ok (op a b imm)
  | none, none, none, none, none, none => .error .major

/-- A 32-bit instruction by its major opcode (Table 3.1). -/
def decode32 (maj : Nat) (x : BitVec 26) : Except Reject Instr :=
  let f := RFields.ofBits x
  match maj with
  | 0x01 => decodeInt f
  | 0x0D => decodeControl f
  | 0x20 => decodeAmo amoWOps f
  | 0x21 => decodeAmo amoDOps f
  | 0x22 => decodeAmo casOps f
  | 0x23 => decodeReserve f
  | 0x24 => decodeFp f
  | 0x25 => decodeFcvt f
  | 0x26 => decodeFused f
  | 0x27 => decodeFmv f
  | 0x2C => decodeCsr x
  | 0x2D => decodeSystem f
  | 0x2E => decodeQuery f
  | 0x30 => decodeFence f
  | 0x31 => decodeRfence x
  | 0x32 => decodeSlot f
  | 0x33 => decodeBarrier f
  | 0x34 => decodeTask f
  | 0x35 => decodeFarm f
  | 0x37 => decodeHint x
  | m => decodeImm m x

/-! ### Decoding 64-bit instructions -/

/-- A k register in a 5-bit field; above 7 there is none (R84). -/
def kOf (b : BitVec 5) (g : KReg → Except Reject Instr) : Except Reject Instr :=
  if hi 2 3 b == 0 then g (num3 (lo 2 3 b)) else .error .operand

/-- A tile in a 5-bit field; above 1 there is none (R84). -/
def tileOf (b : BitVec 5) (g : Tile → Except Reject Instr) : Except Reject Instr :=
  if hi 4 1 b == 0 then g (lo 4 1 b).toFin else .error .operand

/-- The rounding mode of a field, or the rejection of codes 6 and 7. -/
def rmOf (b : BitVec 3) (g : Rm → Except Reject Instr) : Except Reject Instr :=
  match Rm.ofCode b with
  | .ok rm => g rm
  | .error r => .error r

/-- RM, FLUSH and SAT are 0 (R58). -/
def XV.plain (f : XV) : Bool := f.rm == 0 && f.flush == 0 && f.sat == 0

/-- The second source: XS in the lowest bit of ctl[15:10], the other five zero (R186). -/
def XV.src2 (f : XV) (g : Src2 → Except Reject Instr) : Except Reject Instr :=
  need (hi 5 1 f.x == 0) .reserved
    (if flag (lo 5 1 f.x) then need (f.vs2 == 0) .reserved (g (.scal (regOf f.vs3)))
     else need (f.vs3 == 0) .reserved (g (.vec (regOf f.vs2))))

def vBin (op : VBin → Instr) (f : XV) : Except Reject Instr :=
  need f.plain .operand (f.src2 fun s => .ok (op
    { vd := regOf f.vd, vs1 := regOf f.vs1, src2 := s, k := num3 f.k, fmt := Fmt.ofCode f.fmt, hint := f.hint }))

def vUn (op : VUn → Instr) (f : XV) : Except Reject Instr :=
  need (f.plain && f.x == 0 && f.vs2 == 0 && f.vs3 == 0) .reserved (.ok (op
    { vd := regOf f.vd, vs1 := regOf f.vs1, k := num3 f.k, fmt := Fmt.ofCode f.fmt, hint := f.hint }))

/-- COND in ctl[13:11], XS in ctl[10], ctl[15:14] zero (R84). -/
def vCmp (op : VCmp → Instr) (f : XV) : Except Reject Instr :=
  need (f.plain && hi 2 4 f.x == 0) .reserved
    (kOf f.vd fun kd =>
      { f with x := app 5 1 0 (lo 3 1 (lo 2 4 f.x)) }.src2 fun s => .ok (op
        { kd := kd, vs1 := regOf f.vs1, src2 := s, cond := Cond.ofCode (hi 3 1 (lo 2 4 f.x)), k := num3 f.k,
          fmt := Fmt.ofCode f.fmt, hint := f.hint }))

def vExt (op : VExt → Instr) (f : XV) : Except Reject Instr :=
  need (f.plain && f.x == 0 && f.vs2 == 0) .reserved (.ok (op
    { xd := regOf f.vd, vs1 := regOf f.vs1, xs := regOf f.vs3, k := num3 f.k, fmt := Fmt.ofCode f.fmt, hint := f.hint }))

def vIdx (op : VIdx → Instr) (f : XV) : Except Reject Instr :=
  need (f.plain && f.x == 0 && f.vs1 == 0 && f.vs2 == 0 && f.vs3 == 0) .reserved (.ok (op
    { vd := regOf f.vd, k := num3 f.k, fmt := Fmt.ofCode f.fmt, hint := f.hint }))

def vFBin (op : VFBin → Instr) (f : XV) : Except Reject Instr :=
  need (f.sat == 0) .operand (rmOf f.rm fun rm => f.src2 fun s => .ok (op
    { vd := regOf f.vd, vs1 := regOf f.vs1, src2 := s, k := num3 f.k, fmt := Fmt.ofCode f.fmt, rm := rm,
      flush := flag f.flush, hint := f.hint }))

def vFUn (op : VFUn → Instr) (f : XV) : Except Reject Instr :=
  need (f.sat == 0 && f.x == 0 && f.vs2 == 0 && f.vs3 == 0) .reserved (rmOf f.rm fun rm => .ok (op
    { vd := regOf f.vd, vs1 := regOf f.vs1, k := num3 f.k, fmt := Fmt.ofCode f.fmt, rm := rm,
      flush := flag f.flush, hint := f.hint }))

def vFTern (op : VFTern → Instr) (f : XV) : Except Reject Instr :=
  need (f.sat == 0 && f.x == 0) .reserved (rmOf f.rm fun rm => .ok (op
    { vd := regOf f.vd, vs1 := regOf f.vs1, vs2 := regOf f.vs2, vs3 := regOf f.vs3, k := num3 f.k,
      fmt := Fmt.ofCode f.fmt, rm := rm, flush := flag f.flush, hint := f.hint }))

/-- SFMT in ctl[13:10], ctl[15:14] zero (R57). -/
def vCvt (op : VCvt → Instr) (f : XV) : Except Reject Instr :=
  need (hi 2 4 f.x == 0 && f.vs2 == 0 && f.vs3 == 0) .reserved (rmOf f.rm fun rm => .ok (op
    { vd := regOf f.vd, vs1 := regOf f.vs1, k := num3 f.k, dst := Fmt.ofCode f.fmt, src := Fmt.ofCode (lo 2 4 f.x),
      rm := rm, flush := flag f.flush, sat := flag f.sat, hint := f.hint }))

def kBin (op : KReg → KReg → KReg → Hint → Instr) (f : XV) : Except Reject Instr :=
  need (f.plain && f.x == 0 && f.vs3 == 0 && f.k == 0 && f.fmt == 0) .reserved
    (kOf f.vd fun d => kOf f.vs1 fun a => kOf f.vs2 fun b => .ok (op d a b f.hint))

def kNot (op : KReg → KReg → Hint → Instr) (f : XV) : Except Reject Instr :=
  need (f.plain && f.x == 0 && f.vs2 == 0 && f.vs3 == 0 && f.k == 0 && f.fmt == 0) .reserved
    (kOf f.vd fun d => kOf f.vs1 fun a => .ok (op d a f.hint))

def kCount (op : Reg → KReg → Hint → Instr) (f : XV) : Except Reject Instr :=
  need (f.plain && f.x == 0 && f.vs2 == 0 && f.vs3 == 0 && f.k == 0 && f.fmt == 0) .reserved
    (kOf f.vs1 fun a => .ok (op (regOf f.vd) a f.hint))

def kSet (op : KReg → Reg → Hint → Instr) (f : XV) : Except Reject Instr :=
  need (f.plain && f.x == 0 && f.vs1 == 0 && f.vs2 == 0 && f.k == 0 && f.fmt == 0) .reserved
    (kOf f.vd fun d => .ok (op d (regOf f.vs3) f.hint))

def vSlide (op : VSlide → Instr) (f : XV) : Except Reject Instr :=
  need (f.plain && f.x == 0 && f.vs2 == 0) .reserved (.ok (op
    { vd := regOf f.vd, vs1 := regOf f.vs1, xs := regOf f.vs3, k := num3 f.k, fmt := Fmt.ofCode f.fmt, hint := f.hint }))

def vPermute (op : VPermute → Instr) (f : XV) : Except Reject Instr :=
  need (f.plain && f.x == 0 && f.vs3 == 0) .reserved (.ok (op
    { vd := regOf f.vd, vs1 := regOf f.vs1, vs2 := regOf f.vs2, k := num3 f.k, fmt := Fmt.ofCode f.fmt, hint := f.hint }))

def vRed (op : VRed → Instr) (f : XV) : Except Reject Instr :=
  need (f.sat == 0 && f.x == 0 && f.vs3 == 0) .reserved (rmOf f.rm fun rm => .ok (op
    { vd := regOf f.vd, vs1 := regOf f.vs1, vs2 := regOf f.vs2, k := num3 f.k, fmt := Fmt.ofCode f.fmt, rm := rm,
      flush := flag f.flush, hint := f.hint }))

def vRedQ (op : VRedQ → Instr) (f : XV) : Except Reject Instr :=
  need (f.sat == 0 && f.rm == 0 && f.x == 0 && f.vs1 == 0 && f.k == 0) .reserved (.ok (op
    { vd := regOf f.vd, vs2 := regOf f.vs2, xs := regOf f.vs3, fmt := Fmt.ofCode f.fmt, flush := flag f.flush,
      hint := f.hint }))

def vSpec (op : VSpec → Instr) (f : XV) : Except Reject Instr :=
  need (f.sat == 0 && f.rm == 0 && f.x == 0 && f.vs2 == 0 && f.vs3 == 0) .reserved (.ok (op
    { vd := regOf f.vd, vs1 := regOf f.vs1, k := num3 f.k, fmt := Fmt.ofCode f.fmt, flush := flag f.flush,
      hint := f.hint }))

def tOuter (op : TOuter → Instr) (f : XV) : Except Reject Instr :=
  need (f.sat == 0 && f.flush == 0 && f.x == 0 && f.vs3 == 0 && f.k == 0) .reserved
    (tileOf f.vd fun t => rmOf f.rm fun rm => .ok (op
      { md := t, vs1 := regOf f.vs1, vs2 := regOf f.vs2, fmt := Fmt.ofCode f.fmt, rm := rm, hint := f.hint }))

/-- SB in ctl[15:11], ctl[10] zero (R235). -/
def tScaled (op : TScaled → Instr) (f : XV) : Except Reject Instr :=
  need (f.sat == 0 && f.flush == 0 && lo 5 1 f.x == 0 && f.k == 0) .reserved
    (tileOf f.vd fun t => rmOf f.rm fun rm => .ok (op
      { md := t, vs1 := regOf f.vs1, vs2 := regOf f.vs2, sa := regOf f.vs3, sb := regOf (hi 5 1 f.x),
        fmt := Fmt.ofCode f.fmt, rm := rm, hint := f.hint }))

def tZero (op : Tile → Hint → Instr) (f : XV) : Except Reject Instr :=
  need (f.plain && f.x == 0 && f.vs1 == 0 && f.vs2 == 0 && f.vs3 == 0 && f.k == 0 && f.fmt == 0) .reserved
    (tileOf f.vd fun t => .ok (op t f.hint))

/-- The base in bits 10:6 and the pitch in bits 15:11 (R237). -/
def tMem (op : TMem → Instr) (f : XV) : Except Reject Instr :=
  need (f.plain && f.x == 0 && f.vs1 == 0 && f.k == 0 && f.fmt == 0) .reserved
    (tileOf f.vd fun t => .ok (op { md := t, base := regOf f.vs3, pitch := regOf f.vs2, hint := f.hint }))

/-- DIR in ctl[10] (R239). -/
def tLine (op : TLine → Instr) (f : XV) : Except Reject Instr :=
  need (f.plain && hi 5 1 f.x == 0 && f.vs2 == 0 && f.k == 0 && f.fmt == 0) .reserved
    (tileOf f.vs1 fun t => .ok (op
      { v := regOf f.vd, tile := t, xs := regOf f.vs3, toTile := flag (lo 5 1 f.x), hint := f.hint }))

def vMem (op : VMem → Instr) (f : XM) : Except Reject Instr :=
  need (f.ix == 0 && f.rsv == 0) .reserved (.ok (op
    { v := regOf f.v, base := regOf f.base, k := num3 f.k, fmt := Fmt.ofCode f.fmt, off := f.off, hint := f.hint }))

def vMemIx (op : VMemIx → Instr) (f : XM) : Except Reject Instr :=
  need (f.rsv == 0) .reserved (.ok (op
    { v := regOf f.v, base := regOf f.base, ix := regOf f.ix, k := num3 f.k, fmt := Fmt.ofCode f.fmt, off := f.off,
      hint := f.hint }))

def vPop (op : VPop → Instr) (f : XM) : Except Reject Instr :=
  need (f.base == 0 && f.rsv == 0 && f.off == 0 && hi 2 3 f.ix == 0) .reserved (.ok (op
    { vd := regOf f.v, st := num3 (lo 2 3 f.ix), k := num3 f.k, fmt := Fmt.ofCode f.fmt, hint := f.hint }))

/-- Major 0x38 but setvl (R85). -/
def xv38 : List (Nat × (XV → Except Reject Instr)) :=
  [(0x10, vBin .vadd), (0x11, vBin .vsub), (0x12, vBin .vmul), (0x13, vBin .vmulh),
   (0x14, vBin .vdiv), (0x15, vBin .vrem), (0x16, vBin .vmin), (0x17, vBin .vmax),
   (0x18, vBin .vand), (0x19, vBin .vor), (0x1A, vBin .vxor), (0x1B, vBin .vsll),
   (0x1C, vBin .vsrl), (0x1D, vBin .vsra), (0x1E, vUn .vabs), (0x1F, vUn .vneg),
   (0x20, vCmp .vcmp), (0x21, vBin .vmerge), (0x22, vUn .vmv), (0x23, vExt .vmvx),
   (0x24, vIdx .vid)]

/-- Major 0x39 (R85). -/
def xv39 : List (Nat × (XV → Except Reject Instr)) :=
  [(0x00, vFBin .vfadd), (0x01, vFBin .vfsub), (0x02, vFBin .vfmul), (0x03, vFBin .vfdiv),
   (0x04, vFUn .vfsqrt), (0x05, vFTern .vfma), (0x06, vFTern .vfms), (0x07, vFTern .vfnma),
   (0x08, vBin .vfmin), (0x09, vBin .vfmax), (0x0A, vUn .vfabs), (0x0B, vUn .vfneg),
   (0x0C, vCmp .vfcmp), (0x0D, vCvt .vfcvt)]

/-- Major 0x3A (R86). -/
def xm3A : List (Nat × (XM → Except Reject Instr)) :=
  [(0x00, vMem .vld), (0x01, vMemIx .vlds), (0x02, vMemIx .vldx), (0x03, vPop .vld_st),
   (0x08, vMem .vst), (0x09, vMemIx .vsts), (0x0A, vMemIx .vstx)]

/-- Major 0x3B (R86). -/
def xv3B : List (Nat × (XV → Except Reject Instr)) :=
  [(0x00, kBin .kand), (0x01, kBin .kor), (0x02, kBin .kxor), (0x03, kNot .knot),
   (0x04, kCount .kpopc), (0x05, kCount .kfirst), (0x06, kSet .kset), (0x10, vSlide .vslideup),
   (0x11, vSlide .vslidedn), (0x12, vPermute .vperm), (0x13, vUn .vcompress), (0x14, vUn .vexpand),
   (0x20, vRed .vredsum), (0x21, vRed .vredosum), (0x22, vRed .vredmax), (0x23, vRedQ .vredq),
   (0x24, vRed .vredmin), (0x25, vRed .vredand), (0x26, vRed .vredor), (0x30, vSpec .vexp2),
   (0x31, vSpec .vrcp), (0x32, vSpec .vlog2), (0x33, vSpec .vrsqrt), (0x34, vSpec .vsinpi),
   (0x35, vSpec .vcospi)]

/-- Major 0x3C but msetvl and mexit (R87). -/
def xv3C : List (Nat × (XV → Except Reject Instr)) :=
  [(0x10, tOuter .mopa), (0x11, tOuter .mopa4), (0x12, tScaled .mopas), (0x18, tZero .mzero),
   (0x19, tMem .mld), (0x1A, tMem .mst), (0x1B, tLine .mrow), (0x1C, tLine .mcol)]

/-- setvl and msetvl: sel[3:0] is the format (R85, R87). -/
def setLen (op : SetLen → Instr) (f : XE) : Except Reject Instr :=
  need (f.x2 == 0 && f.x3 == 0 && hi 2 4 f.sel == 0 && f.ctl == 0) .reserved (.ok (op
    { xd := regOf f.xd, req := regOf f.x1, fmt := Fmt.ofCode (lo 2 4 f.sel), hint := f.hint }))

/-- Where a copy delivers: MBX is ctl[4], and sel is reserved with it (R88). -/
def deliverOf (f : XE) (mbx : BitVec 1) (g : Deliver → Except Reject Instr) : Except Reject Instr :=
  if flag mbx then need (f.sel == 0) .reserved (g .mailbox) else g (.barrier f.sel.toFin)

/-- Major 0x3D (Table 3.12). -/
def decodeEngine (fn : Nat) (f : XE) : Except Reject Instr :=
  let d := regOf f.xd
  let a := regOf f.x1
  let b := regOf f.x2
  let c := regOf f.x3
  let h := f.hint
  match fn with
  | 0x00 => need (hi 11 1 f.ctl == 0) .reserved
      (deliverOf f (lo 11 1 f.ctl) fun t => .ok (.cpy ⟨d, a, b, c, t, h⟩))
  | 0x01 => need (hi 10 2 f.ctl == 0) .reserved
      (deliverOf f (lo 1 1 (lo 10 2 f.ctl)) fun t => .ok (.cpyt ⟨d, a, b, c, t, flag (hi 1 1 (lo 10 2 f.ctl)), h⟩))
  | 0x02 => need (hi 11 1 f.ctl == 0 && f.x2 == 0 && f.x3 == 0) .reserved (deliverOf f (lo 11 1 f.ctl) fun t => .ok (.cpyr d a t h))
  | 0x03 => need (f.ctl == 0 && f.xd == 0 && f.x2 == 0 && f.x3 == 0) .reserved (.ok (.cbinit a f.sel.toFin h))
  | 0x04 => need (f.ctl == 0 && f.x1 == 0 && f.x2 == 0 && f.x3 == 0) .reserved (.ok (.cbwait d f.sel.toFin h))
  | 0x08 => need (f.ctl == 0 && f.xd == 0 && f.x2 == 0 && f.x3 == 0 && hi 3 3 f.sel == 0) .reserved
      (.ok (.sopen a (num3 (lo 3 3 f.sel)) h))
  | 0x09 => need (f.ctl == 0 && f.xd == 0 && f.x1 == 0 && f.x2 == 0 && f.x3 == 0 && hi 3 3 f.sel == 0) .reserved
      (.ok (.sclose (num3 (lo 3 3 f.sel)) h))
  | 0x10 => need (f.ctl == 0 && f.x2 == 0 && f.x3 == 0 && f.sel == 0) .reserved (.ok (.mbxpop d a h))
  | 0x11 => need (f.ctl == 0 && f.xd == 0 && f.x1 == 0 && f.x2 == 0 && f.x3 == 0 && f.sel == 0) .reserved (.ok (.waitmsg h))
  | 0x12 => need (f.ctl == 0 && f.x3 == 0 && f.sel == 0) .reserved (.ok (.msgsend d a b h))
  | 0x18 => need (f.ctl == 0 && f.x2 == 0 && f.x3 == 0 && hi 2 4 f.sel == 0) .reserved
      (.ok (.rxopen d a (lo 2 4 f.sel).toFin h))
  | 0x19 => need (f.ctl == 0 && f.x2 == 0 && f.x3 == 0 && hi 2 4 f.sel == 0) .reserved
      (.ok (.rxpop d a (lo 2 4 f.sel).toFin h))
  | 0x20 =>
    let r8 := lo 4 8 f.ctl
    let r5 := lo 3 5 r8
    match Scope.ofCode (hi 3 5 r8), CollOp.ofCode (hi 3 2 r5) with
    | .ok sc, .ok op => need (lo 3 2 r5 == 0) .reserved
        (.ok (.coll ⟨d, a, b, c, f.sel.toFin, Fmt.ofCode (hi 4 8 f.ctl), sc, op, h⟩))
    | .error r, _ => .error r
    | .ok _, .error r => .error r
  | 0x21 => need (f.ctl == 0 && f.x2 == 0 && f.x3 == 0 && f.sel == 0) .reserved (.ok (.collwait d a h))
  | _ => .error .unassigned

/-- Major 0x3E (Table 3.12). -/
def decodePrivileged (fn : Nat) (f : XE) : Except Reject Instr :=
  let d := regOf f.xd
  let a := regOf f.x1
  let b := regOf f.x2
  match fn with
  | 0x00 => need (f.ctl == 0 && f.x2 == 0 && f.x3 == 0 && f.sel == 0) .reserved (.ok (.vdef d a f.hint))
  | 0x01 => need (f.ctl == 0 && f.x3 == 0 && f.sel == 0) .reserved (.ok (.vresize d a b f.hint))
  | 0x02 => need (f.ctl == 0 && f.x3 == 0 && f.sel == 0) .reserved (.ok (.tdset d a b f.hint))
  | 0x03 => need (hi 11 1 f.ctl == 0 && f.xd == 0 && f.sel == 0) .reserved
      (.ok (.tlbinv a b (regOf f.x3) (flag (lo 11 1 f.ctl)) f.hint))
  | _ => .error .unassigned

/-- The row of an XV or XM list, applied to the fields. -/
def row {α : Type} (ops : List (Nat × (α → Except Reject Instr))) (fn : Nat) (f : α) : Except Reject Instr :=
  match ops.lookup fn with
  | some op => op f
  | none => .error .unassigned

/-- A 64-bit instruction by its major opcode and fn (R55). -/
def decode64 (maj : Nat) (x : BitVec 26) (w1 : Half) : Except Reject Instr :=
  let fn := (hi 16 16 w1).toNat
  let ctl := lo 16 16 w1
  match maj with
  | 0x38 => if fn = 0 then setLen .setvl (XE.ofBits x ctl) else row xv38 fn (XV.ofBits x ctl)
  | 0x39 => row xv39 fn (XV.ofBits x ctl)
  | 0x3A => row xm3A fn (XM.ofBits x ctl)
  | 0x3B => row xv3B fn (XV.ofBits x ctl)
  | 0x3C =>
    if fn = 0 then setLen .msetvl (XE.ofBits x ctl)
    else if fn = 1 then need (x == 0 && hi 12 4 ctl == 0) .reserved (.ok (.mexit (lo 12 4 ctl)))
    else row xv3C fn (XV.ofBits x ctl)
  | 0x3D => decodeEngine fn (XE.ofBits x ctl)
  | _ => decodePrivileged fn (XE.ofBits x ctl)

/-- Majors 0x38–0x3E begin a 64-bit instruction (R47). -/
def longMajor (maj : BitVec 6) : Bool := 0x38 ≤ maj.toNat && maj.toNat ≤ 0x3E

/-- Bytes of the instruction that begins with a word (R47). -/
def lengthOf (w0 : Half) : Nat := if longMajor (hi 6 26 w0) then 8 else 4

/-- Strict decode of one or two words (R62, R75): a word pair that is no defined encoding is rejected by name. For a
32-bit instruction the second word plays no part. -/
def decodeWords (w0 w1 : Half) : Except Reject Instr :=
  let maj := hi 6 26 w0
  let i := if longMajor maj then decode64 maj.toNat (lo 6 26 w0) w1 else decode32 maj.toNat (lo 6 26 w0)
  match i with
  | .ok i => if wf i then .ok i else .error .operand
  | .error r => .error r

/-! ### Encoding -/

/-- R format. -/
def wR (maj : BitVec 6) (a b c : Reg) (fn : BitVec 11) : Half := app 6 26 maj (RFields.bits ⟨bits5 a, bits5 b, bits5 c, fn⟩)
/-- I, S and B format: two registers and 16 bits. -/
def wI (maj : BitVec 6) (a b : Reg) (imm : BitVec 16) : Half := app 6 26 maj (app 5 21 (bits5 a) (app 5 16 (bits5 b) imm))
/-- U format. -/
def wU (maj : BitVec 6) (a : Reg) (imm : BitVec 21) : Half := app 6 26 maj (app 5 21 (bits5 a) imm)
/-- J format. -/
def wJ (maj : BitVec 6) (off : BitVec 26) : Half := app 6 26 maj off
/-- C format. -/
def wC (a b : Reg) (csr : BitVec 12) (fn4 : BitVec 4) : Half := app 6 26 0x2C (app 5 21 (bits5 a) (app 5 16 (bits5 b) (app 12 4 csr fn4)))
/-- R format with ORD and SCOPE (R59). -/
def wA (maj : BitVec 6) (a b c : Reg) (o : Order) (sc : Scope) (op : BitVec 6) : Half :=
  wR maj a b c (app 2 9 o.code (app 3 6 sc.code op))
/-- R format with RM and W (R79). -/
def wF (maj : BitVec 6) (a b c : Reg) (rm : Rm) (w : Bool) (op : BitVec 7) : Half :=
  wR maj a b c (app 3 8 rm.code (app 1 7 (BitVec.ofBool w) op))
/-- The fused scalar rows, with rs3 in fn[7:3] (R79). -/
def wT (a b c d : Reg) (rm : Rm) (w : Bool) (op : BitVec 2) : Half :=
  wR 0x26 a b c (app 3 8 rm.code (app 5 3 (bits5 d) (app 1 2 (BitVec.ofBool w) op)))
/-- A hint word (R82). -/
def wH (h : BitVec 4) (f : BitVec 22) : Half := app 6 26 0x37 (app 4 22 h f)
/-- XV. -/
def wXV (maj : BitVec 6) (fn : BitVec 16) (f : XV) : List Half := [app 6 26 maj f.word0, app 16 16 fn f.ctl]
/-- XM. -/
def wXM (fn : BitVec 16) (f : XM) : List Half := [app 6 26 0x3A f.word0, app 16 16 fn f.ctl]
/-- XE. -/
def wXE (maj : BitVec 6) (d a b c : Reg) (sel : BitVec 6) (fn : BitVec 16) (ctl : BitVec 12) (h : Hint) : List Half :=
  [app 6 26 maj (XE.word0 ⟨bits5 d, bits5 a, bits5 b, bits5 c, sel, ctl, h⟩), app 16 16 fn (app 12 4 ctl h)]

/-- vs2, bits 10:6 and XS of a second source (R186). -/
def XV.withSrc2 (f : XV) (s : Src2) (x : BitVec 1 → BitVec 6) : XV :=
  match s with
  | .vec v => { f with vs2 := bits5 v, x := x 0 }
  | .scal r => { f with vs3 := bits5 r, x := x 1 }

def eBin (maj : BitVec 6) (fn : BitVec 16) (o : VBin) : List Half :=
  wXV maj fn (XV.withSrc2 { XV.zero with
    vd := bits5 o.vd, vs1 := bits5 o.vs1, k := bits3 o.k, fmt := o.fmt.code,
    hint := o.hint } o.src2 (app 5 1 0))
def eUn (maj : BitVec 6) (fn : BitVec 16) (o : VUn) : List Half :=
  wXV maj fn { XV.zero with vd := bits5 o.vd, vs1 := bits5 o.vs1, k := bits3 o.k, fmt := o.fmt.code, hint := o.hint }
def eCmp (maj : BitVec 6) (fn : BitVec 16) (o : VCmp) : List Half :=
  wXV maj fn (XV.withSrc2 { XV.zero with
    vd := bitsK o.kd, vs1 := bits5 o.vs1, k := bits3 o.k, fmt := o.fmt.code,
    hint := o.hint } o.src2 fun b => app 2 4 0 (app 3 1 o.cond.code b))
def eFBin (maj : BitVec 6) (fn : BitVec 16) (o : VFBin) : List Half :=
  wXV maj fn (XV.withSrc2 { XV.zero with
    vd := bits5 o.vd, vs1 := bits5 o.vs1, k := bits3 o.k, fmt := o.fmt.code,
    rm := o.rm.code, flush := BitVec.ofBool o.flush, hint := o.hint } o.src2 (app 5 1 0))
def eTern (maj : BitVec 6) (fn : BitVec 16) (o : VFTern) : List Half :=
  wXV maj fn { XV.zero with
    vd := bits5 o.vd, vs1 := bits5 o.vs1, vs2 := bits5 o.vs2, vs3 := bits5 o.vs3, k := bits3 o.k,
    fmt := o.fmt.code, rm := o.rm.code, flush := BitVec.ofBool o.flush, hint := o.hint }
def eMemIx (fn : BitVec 16) (o : VMemIx) : List Half :=
  wXM fn {
    v := bits5 o.v, base := bits5 o.base, ix := bits5 o.ix, rsv := 0, k := bits3 o.k, fmt := o.fmt.code,
    off := o.off, hint := o.hint }
def eSlide (fn : BitVec 16) (o : VSlide) : List Half :=
  wXV 0x3B fn { XV.zero with
    vd := bits5 o.vd, vs1 := bits5 o.vs1, vs3 := bits5 o.xs, k := bits3 o.k, fmt := o.fmt.code,
    hint := o.hint }
def eRed (fn : BitVec 16) (o : VRed) : List Half :=
  wXV 0x3B fn { XV.zero with
    vd := bits5 o.vd, vs1 := bits5 o.vs1, vs2 := bits5 o.vs2, k := bits3 o.k, fmt := o.fmt.code,
    rm := o.rm.code, flush := BitVec.ofBool o.flush, hint := o.hint }
def eSpec (fn : BitVec 16) (o : VSpec) : List Half :=
  wXV 0x3B fn { XV.zero with
    vd := bits5 o.vd, vs1 := bits5 o.vs1, k := bits3 o.k, fmt := o.fmt.code,
    flush := BitVec.ofBool o.flush, hint := o.hint }
def eOuter (fn : BitVec 16) (o : TOuter) : List Half :=
  wXV 0x3C fn { XV.zero with
    vd := bitsT o.md, vs1 := bits5 o.vs1, vs2 := bits5 o.vs2, fmt := o.fmt.code, rm := o.rm.code,
    hint := o.hint }

/-- sel of a copy's delivery (R88). -/
def selOf : Deliver → BitVec 6
  | .barrier b => BitVec.ofFin b
  | .mailbox => 0
/-- MBX of a copy's delivery (R88). -/
def mbxBit : Deliver → BitVec 1
  | .barrier _ => 0
  | .mailbox => 1

/-- The words of an instruction, word 0 first; an event has none. -/
def encode : Instr → List Half
  | .add d a b => [wR 0x01 d a b 0x000]
  | .sub d a b => [wR 0x01 d a b 0x001]
  | .and d a b => [wR 0x01 d a b 0x002]
  | .or d a b => [wR 0x01 d a b 0x003]
  | .xor d a b => [wR 0x01 d a b 0x004]
  | .andn d a b => [wR 0x01 d a b 0x005]
  | .sll d a b => [wR 0x01 d a b 0x006]
  | .srl d a b => [wR 0x01 d a b 0x007]
  | .sra d a b => [wR 0x01 d a b 0x008]
  | .rol d a b => [wR 0x01 d a b 0x009]
  | .ror d a b => [wR 0x01 d a b 0x00A]
  | .slt d a b => [wR 0x01 d a b 0x00B]
  | .sltn d a b => [wR 0x01 d a b 0x00C]
  | .min d a b => [wR 0x01 d a b 0x00D]
  | .max d a b => [wR 0x01 d a b 0x00E]
  | .minn d a b => [wR 0x01 d a b 0x00F]
  | .maxn d a b => [wR 0x01 d a b 0x010]
  | .mul d a b => [wR 0x01 d a b 0x011]
  | .mulh d a b => [wR 0x01 d a b 0x012]
  | .mulhn d a b => [wR 0x01 d a b 0x013]
  | .div d a b => [wR 0x01 d a b 0x014]
  | .divn d a b => [wR 0x01 d a b 0x015]
  | .rem d a b => [wR 0x01 d a b 0x016]
  | .remn d a b => [wR 0x01 d a b 0x017]
  | .sadd1 d a b => [wR 0x01 d a b 0x018]
  | .sadd2 d a b => [wR 0x01 d a b 0x019]
  | .sadd3 d a b => [wR 0x01 d a b 0x01A]
  | .bext d a b => [wR 0x01 d a b 0x01B]
  | .bins d a b => [wR 0x01 d a b 0x01C]
  | .clz d a => [wR 0x01 d a 0 0x020]
  | .ctz d a => [wR 0x01 d a 0 0x021]
  | .popc d a => [wR 0x01 d a 0 0x022]
  | .sext_b d a => [wR 0x01 d a 0 0x023]
  | .sext_h d a => [wR 0x01 d a 0 0x024]
  | .sext_w d a => [wR 0x01 d a 0 0x025]
  | .zext_b d a => [wR 0x01 d a 0 0x026]
  | .zext_h d a => [wR 0x01 d a 0 0x027]
  | .zext_w d a => [wR 0x01 d a 0 0x028]
  | .addi d a imm => [wI 0x02 d a imm]
  | .andi d a imm => [wI 0x03 d a imm]
  | .ori d a imm => [wI 0x04 d a imm]
  | .xori d a imm => [wI 0x05 d a imm]
  | .slti d a imm => [wI 0x06 d a imm]
  | .slli d a sh => [wI 0x07 d a (app 10 6 0 sh)]
  | .srli d a sh => [wI 0x08 d a (app 10 6 0 sh)]
  | .srai d a sh => [wI 0x09 d a (app 10 6 0 sh)]
  | .lup d imm => [wU 0x0E d imm]
  | .pcadd d imm => [wU 0x0F d imm]
  | .beq a b off => [wI 0x10 a b off]
  | .bne a b off => [wI 0x11 a b off]
  | .blt a b off => [wI 0x12 a b off]
  | .bge a b off => [wI 0x13 a b off]
  | .bltn a b off => [wI 0x14 a b off]
  | .bgen a b off => [wI 0x15 a b off]
  | .j off => [wJ 0x16 off]
  | .call off => [wJ 0x17 off]
  | .jx a => [wR 0x0D 0 a 0 0x000]
  | .callx d a => [wR 0x0D d a 0 0x001]
  | .ret a => [wR 0x0D 0 a 0 0x002]
  | .land => [wR 0x0D 0 0 0 0x003]
  | .ldb d a imm => [wI 0x18 d a imm]
  | .ldbz d a imm => [wI 0x0A d a imm]
  | .ldh d a imm => [wI 0x19 d a imm]
  | .ldhz d a imm => [wI 0x0B d a imm]
  | .ldw d a imm => [wI 0x1A d a imm]
  | .ldwz d a imm => [wI 0x0C d a imm]
  | .ldd d a imm => [wI 0x1B d a imm]
  | .stb v a imm => [wI 0x1C v a imm]
  | .sth v a imm => [wI 0x1D v a imm]
  | .stw v a imm => [wI 0x1E v a imm]
  | .std v a imm => [wI 0x1F v a imm]
  | .amoadd_w d a b o sc => [wA 0x20 d a b o sc 0x00]
  | .amoand_w d a b o sc => [wA 0x20 d a b o sc 0x01]
  | .amoor_w d a b o sc => [wA 0x20 d a b o sc 0x02]
  | .amoxor_w d a b o sc => [wA 0x20 d a b o sc 0x03]
  | .amomin_w d a b o sc => [wA 0x20 d a b o sc 0x04]
  | .amomax_w d a b o sc => [wA 0x20 d a b o sc 0x05]
  | .amominn_w d a b o sc => [wA 0x20 d a b o sc 0x06]
  | .amomaxn_w d a b o sc => [wA 0x20 d a b o sc 0x07]
  | .amoswp_w d a b o sc => [wA 0x20 d a b o sc 0x08]
  | .amoadd_d d a b o sc => [wA 0x21 d a b o sc 0x00]
  | .amoand_d d a b o sc => [wA 0x21 d a b o sc 0x01]
  | .amoor_d d a b o sc => [wA 0x21 d a b o sc 0x02]
  | .amoxor_d d a b o sc => [wA 0x21 d a b o sc 0x03]
  | .amomin_d d a b o sc => [wA 0x21 d a b o sc 0x04]
  | .amomax_d d a b o sc => [wA 0x21 d a b o sc 0x05]
  | .amominn_d d a b o sc => [wA 0x21 d a b o sc 0x06]
  | .amomaxn_d d a b o sc => [wA 0x21 d a b o sc 0x07]
  | .amoswp_d d a b o sc => [wA 0x21 d a b o sc 0x08]
  | .amocas_w d a b o sc => [wA 0x22 d a b o sc 0x00]
  | .amocas_d d a b o sc => [wA 0x22 d a b o sc 0x01]
  | .ldres_w d a o sc => [wA 0x23 d a 0 o sc 0x00]
  | .ldres_d d a o sc => [wA 0x23 d a 0 o sc 0x01]
  | .stcond_w d a b o sc => [wA 0x23 d a b o sc 0x02]
  | .stcond_d d a b o sc => [wA 0x23 d a b o sc 0x03]
  | .fadd d a b w rm => [wF 0x24 d a b rm w 0x00]
  | .fsub d a b w rm => [wF 0x24 d a b rm w 0x01]
  | .fmul d a b w rm => [wF 0x24 d a b rm w 0x02]
  | .fdiv d a b w rm => [wF 0x24 d a b rm w 0x03]
  | .fsqrt d a w rm => [wF 0x24 d a 0 rm w 0x04]
  | .fmin d a b w => [wF 0x24 d a b .dyn w 0x05]
  | .fmax d a b w => [wF 0x24 d a b .dyn w 0x06]
  | .fcmpeq d a b w => [wF 0x24 d a b .dyn w 0x07]
  | .fcmplt d a b w => [wF 0x24 d a b .dyn w 0x08]
  | .fcmple d a b w => [wF 0x24 d a b .dyn w 0x09]
  | .fsgn d a b w => [wF 0x24 d a b .dyn w 0x0B]
  | .fclass d a w => [wF 0x24 d a 0 .dyn w 0x0A]
  | .fneg d a w => [wF 0x24 d a 0 .dyn w 0x0C]
  | .fabs d a w => [wF 0x24 d a 0 .dyn w 0x0D]
  | .fma d a b c w rm => [wT d a b c rm w 0b00]
  | .fms d a b c w rm => [wT d a b c rm w 0b01]
  | .fnma d a b c w rm => [wT d a b c rm w 0b10]
  | .fcvt d a dst src rm => [wR 0x25 d a 0 (app 3 8 rm.code (app 4 4 dst.code src.code))]
  | .fmvx d a => [wR 0x27 d a 0 0x000]
  | .fmvf d a => [wR 0x27 d a 0 0x001]
  | .csrrd d csr => [wC d 0 csr 0x0]
  | .csrwr d a csr => [wC d a csr 0x1]
  | .csrset d a csr => [wC d a csr 0x2]
  | .csrclr d a csr => [wC d a csr 0x3]
  | .ecall => [wR 0x2D 0 0 0 0x000]
  | .ebreak => [wR 0x2D 0 0 0 0x001]
  | .eret => [wR 0x2D 0 0 0 0x002]
  | .ifence => [wR 0x2D 0 0 0 0x008]
  | .cinv a b => [wR 0x2D 0 a b 0x010]
  | .cwb a b => [wR 0x2D 0 a b 0x011]
  | .cflush a b => [wR 0x2D 0 a b 0x012]
  | .vquery d a b => [wR 0x2E d a b 0x000]
  | .vdrop d a => [wR 0x2E d a 0 0x001]
  | .tdget d a b => [wR 0x2E d a b 0x002]
  | .fence o sc => [wA 0x30 0 0 0 o sc 0x00]
  | .xfence => [wR 0x30 0 0 0 0x001]
  | .rfence o sc mask => [wI 0x31 0 0 (app 2 14 o.code (app 3 11 sc.code (app 3 8 0 mask)))]
  | .rslot n a b => [wR 0x32 0 a b (app 7 4 0 (app 1 3 0 (slotBits n)))]
  | .rslott n a => [wR 0x32 0 a 0 (app 7 4 0 (app 1 3 1 (slotBits n)))]
  | .barInit a b sc => [wA 0x33 0 a b .relaxed sc 0x00]
  | .barArrive a sc => [wA 0x33 0 a 0 .relaxed sc 0x01]
  | .barWait a sc => [wA 0x33 0 a 0 .relaxed sc 0x02]
  | .launch d a b => [wR 0x34 d a b 0x000]
  | .join d a => [wR 0x34 d a 0 0x001]
  | .exit => [wR 0x34 0 0 0 0x002]
  | .yield => [wR 0x34 0 0 0 0x003]
  | .farm d a => [wR 0x35 d a 0 0x000]
  | .fclaim d a => [wR 0x35 d a 0 0x001]
  | .wmpub a b => [wR 0x35 0 a b 0x002]
  | .wmwait a b => [wR 0x35 0 a b 0x003]
  | .nullHint bits => [wJ 0x37 bits]
  | .hintClass cls => [wH 1 (app 20 2 0 (BitVec.ofFin cls))]
  | .hintPref w a len => [wH 2 (app 1 21 (BitVec.ofBool w) (app 5 16 (bits5 a) len))]
  | .hintLive up mask => [wH 3 (app 1 21 (BitVec.ofBool up) (app 5 16 0 mask))]
  | .hintFuse n => [wH 4 (app 19 3 0 n)]
  | .hintPause n => [wH 5 (app 6 16 0 n)]
  | .hintPlace die v cl => [wH 6 (app 16 6 0 (app 1 5 (BitVec.ofBool v) (app 3 2 die cl)))]
  | .setvl o => wXE 0x38 o.xd o.req 0 0 (app 2 4 0 o.fmt.code) 0x0000 0 o.hint
  | .vadd o => eBin 0x38 0x0010 o
  | .vsub o => eBin 0x38 0x0011 o
  | .vmul o => eBin 0x38 0x0012 o
  | .vmulh o => eBin 0x38 0x0013 o
  | .vdiv o => eBin 0x38 0x0014 o
  | .vrem o => eBin 0x38 0x0015 o
  | .vmin o => eBin 0x38 0x0016 o
  | .vmax o => eBin 0x38 0x0017 o
  | .vand o => eBin 0x38 0x0018 o
  | .vor o => eBin 0x38 0x0019 o
  | .vxor o => eBin 0x38 0x001A o
  | .vsll o => eBin 0x38 0x001B o
  | .vsrl o => eBin 0x38 0x001C o
  | .vsra o => eBin 0x38 0x001D o
  | .vabs o => eUn 0x38 0x001E o
  | .vneg o => eUn 0x38 0x001F o
  | .vcmp o => eCmp 0x38 0x0020 o
  | .vmerge o => eBin 0x38 0x0021 o
  | .vmv o => eUn 0x38 0x0022 o
  | .vmvx o => wXV 0x38 0x0023 { XV.zero with vd := bits5 o.xd, vs1 := bits5 o.vs1, vs3 := bits5 o.xs, k := bits3 o.k, fmt := o.fmt.code, hint := o.hint }
  | .vid o => wXV 0x38 0x0024 { XV.zero with vd := bits5 o.vd, k := bits3 o.k, fmt := o.fmt.code, hint := o.hint }
  | .vfadd o => eFBin 0x39 0x0000 o
  | .vfsub o => eFBin 0x39 0x0001 o
  | .vfmul o => eFBin 0x39 0x0002 o
  | .vfdiv o => eFBin 0x39 0x0003 o
  | .vfsqrt o => wXV 0x39 0x0004 { XV.zero with vd := bits5 o.vd, vs1 := bits5 o.vs1, k := bits3 o.k, fmt := o.fmt.code, rm := o.rm.code, flush := BitVec.ofBool o.flush, hint := o.hint }
  | .vfma o => eTern 0x39 0x0005 o
  | .vfms o => eTern 0x39 0x0006 o
  | .vfnma o => eTern 0x39 0x0007 o
  | .vfmin o => eBin 0x39 0x0008 o
  | .vfmax o => eBin 0x39 0x0009 o
  | .vfabs o => eUn 0x39 0x000A o
  | .vfneg o => eUn 0x39 0x000B o
  | .vfcmp o => eCmp 0x39 0x000C o
  | .vfcvt o => wXV 0x39 0x000D { XV.zero with vd := bits5 o.vd, vs1 := bits5 o.vs1, k := bits3 o.k, fmt := o.dst.code, x := app 2 4 0 o.src.code, sat := BitVec.ofBool o.sat, rm := o.rm.code, flush := BitVec.ofBool o.flush, hint := o.hint }
  | .vld o => wXM 0x0000 { v := bits5 o.v, base := bits5 o.base, ix := 0, rsv := 0, k := bits3 o.k, fmt := o.fmt.code, off := o.off, hint := o.hint }
  | .vst o => wXM 0x0008 { v := bits5 o.v, base := bits5 o.base, ix := 0, rsv := 0, k := bits3 o.k, fmt := o.fmt.code, off := o.off, hint := o.hint }
  | .vlds o => eMemIx 0x0001 o
  | .vldx o => eMemIx 0x0002 o
  | .vsts o => eMemIx 0x0009 o
  | .vstx o => eMemIx 0x000A o
  | .vld_st o => wXM 0x0003 { v := bits5 o.vd, base := 0, ix := app 2 3 0 (bits3 o.st), rsv := 0, k := bits3 o.k, fmt := o.fmt.code, off := 0, hint := o.hint }
  | .kand kd ka kb h => wXV 0x3B 0x0000 { XV.zero with vd := bitsK kd, vs1 := bitsK ka, vs2 := bitsK kb, hint := h }
  | .kor kd ka kb h => wXV 0x3B 0x0001 { XV.zero with vd := bitsK kd, vs1 := bitsK ka, vs2 := bitsK kb, hint := h }
  | .kxor kd ka kb h => wXV 0x3B 0x0002 { XV.zero with vd := bitsK kd, vs1 := bitsK ka, vs2 := bitsK kb, hint := h }
  | .knot kd ka h => wXV 0x3B 0x0003 { XV.zero with vd := bitsK kd, vs1 := bitsK ka, hint := h }
  | .kpopc xd ka h => wXV 0x3B 0x0004 { XV.zero with vd := bits5 xd, vs1 := bitsK ka, hint := h }
  | .kfirst xd ka h => wXV 0x3B 0x0005 { XV.zero with vd := bits5 xd, vs1 := bitsK ka, hint := h }
  | .kset kd xs h => wXV 0x3B 0x0006 { XV.zero with vd := bitsK kd, vs3 := bits5 xs, hint := h }
  | .vslideup o => eSlide 0x0010 o
  | .vslidedn o => eSlide 0x0011 o
  | .vperm o => wXV 0x3B 0x0012 { XV.zero with vd := bits5 o.vd, vs1 := bits5 o.vs1, vs2 := bits5 o.vs2, k := bits3 o.k, fmt := o.fmt.code, hint := o.hint }
  | .vcompress o => eUn 0x3B 0x0013 o
  | .vexpand o => eUn 0x3B 0x0014 o
  | .vredsum o => eRed 0x0020 o
  | .vredosum o => eRed 0x0021 o
  | .vredmax o => eRed 0x0022 o
  | .vredq o => wXV 0x3B 0x0023 { XV.zero with vd := bits5 o.vd, vs2 := bits5 o.vs2, vs3 := bits5 o.xs, fmt := o.fmt.code, flush := BitVec.ofBool o.flush, hint := o.hint }
  | .vredmin o => eRed 0x0024 o
  | .vredand o => eRed 0x0025 o
  | .vredor o => eRed 0x0026 o
  | .vexp2 o => eSpec 0x0030 o
  | .vrcp o => eSpec 0x0031 o
  | .vlog2 o => eSpec 0x0032 o
  | .vrsqrt o => eSpec 0x0033 o
  | .vsinpi o => eSpec 0x0034 o
  | .vcospi o => eSpec 0x0035 o
  | .msetvl o => wXE 0x3C o.xd o.req 0 0 (app 2 4 0 o.fmt.code) 0x0000 0 o.hint
  | .mexit h => wXE 0x3C 0 0 0 0 0 0x0001 0 h
  | .mopa o => eOuter 0x0010 o
  | .mopa4 o => eOuter 0x0011 o
  | .mopas o => wXV 0x3C 0x0012 { XV.zero with vd := bitsT o.md, vs1 := bits5 o.vs1, vs2 := bits5 o.vs2, vs3 := bits5 o.sa, fmt := o.fmt.code, x := app 5 1 (bits5 o.sb) 0, rm := o.rm.code, hint := o.hint }
  | .mzero md h => wXV 0x3C 0x0018 { XV.zero with vd := bitsT md, hint := h }
  | .mld o => wXV 0x3C 0x0019 { XV.zero with vd := bitsT o.md, vs2 := bits5 o.pitch, vs3 := bits5 o.base, hint := o.hint }
  | .mst o => wXV 0x3C 0x001A { XV.zero with vd := bitsT o.md, vs2 := bits5 o.pitch, vs3 := bits5 o.base, hint := o.hint }
  | .mrow o => wXV 0x3C 0x001B { XV.zero with vd := bits5 o.v, vs1 := bitsT o.tile, vs3 := bits5 o.xs, x := app 5 1 0 (BitVec.ofBool o.toTile), hint := o.hint }
  | .mcol o => wXV 0x3C 0x001C { XV.zero with vd := bits5 o.v, vs1 := bitsT o.tile, vs3 := bits5 o.xs, x := app 5 1 0 (BitVec.ofBool o.toTile), hint := o.hint }
  | .cpy o => wXE 0x3D o.xd o.dst o.src o.len (selOf o.dlv) 0x0000 (app 11 1 0 (mbxBit o.dlv)) o.hint
  | .cpyt o => wXE 0x3D o.xd o.dst o.src o.handle (selOf o.dlv) 0x0001 (app 10 2 0 (app 1 1 (BitVec.ofBool o.boxDst) (mbxBit o.dlv))) o.hint
  | .cpyr xd id t h => wXE 0x3D xd id 0 0 (selOf t) 0x0002 (app 11 1 0 (mbxBit t)) h
  | .cbinit n b h => wXE 0x3D 0 n 0 0 (BitVec.ofFin b) 0x0003 0 h
  | .cbwait xd b h => wXE 0x3D xd 0 0 0 (BitVec.ofFin b) 0x0004 0 h
  | .sopen a st h => wXE 0x3D 0 a 0 0 (app 3 3 0 (bits3 st)) 0x0008 0 h
  | .sclose st h => wXE 0x3D 0 0 0 0 (app 3 3 0 (bits3 st)) 0x0009 0 h
  | .mbxpop xd a h => wXE 0x3D xd a 0 0 0 0x0010 0 h
  | .waitmsg h => wXE 0x3D 0 0 0 0 0 0x0011 0 h
  | .msgsend xd t a h => wXE 0x3D xd t a 0 0 0x0012 0 h
  | .rxopen xd a q h => wXE 0x3D xd a 0 0 (app 2 4 0 (bits4 q)) 0x0018 0 h
  | .rxpop xd a q h => wXE 0x3D xd a 0 0 (app 2 4 0 (bits4 q)) 0x0019 0 h
  | .coll o => wXE 0x3D o.xd o.dst o.src o.count (BitVec.ofFin o.group) 0x0020 (app 4 8 o.fmt.code (app 3 5 o.scope.code (app 3 2 o.op.code 0))) o.hint
  | .collwait xd a h => wXE 0x3D xd a 0 0 0 0x0021 0 h
  | .vdef xd a h => wXE 0x3E xd a 0 0 0 0x0000 0 h
  | .vresize xd i a h => wXE 0x3E xd i a 0 0 0x0001 0 h
  | .tdset xd t a h => wXE 0x3E xd t a 0 0 0x0002 0 h
  | .tlbinv a b c all h => wXE 0x3E 0 a b c 0 0x0003 (app 11 1 0 (BitVec.ofBool all)) h
  | .illegalWord w0 w1 => if longMajor (hi 6 26 w0) then [w0, w1] else [w0]
  | .runLimit .. | .vqEntryIssue .. | .vectorMemoryResponse .. | .elementProgress ..
  | .waitResume .. | .barArriveFire .. | .copyTransfer .. | .copyCompletion ..
  | .streamFetch .. | .rxMessageArrival .. | .collOperationStart .. | .collPartialTransfer ..
  | .collOperationEnd .. | .collPackageUnreachable .. | .pcieAtomicopCompletion .. | .pcieCompletionTimeout ..
  | .vaultWalkStep .. | .regionRequest .. | .leaseExpiry .. | .leaseRecallAck ..
  | .regionDecay .. | .cxlCacheResponse .. | .snpData .. | .snpInv ..
  | .snpCur .. | .cxlMemRead .. | .cxlMemWrite .. | .heartbeat ..
  | .agentDeath .. | .agentReadmit .. | .linkStop .. | .linkGo ..
  | .linkSectorReceive .. | .linkDictChecksum .. | .qctlWrite .. | .tailWrite ..
  | .nop .. | .hqLaunch .. | .entryWrite .. | .tdWrite ..
  | .badCommand .. | .registerWrite .. | .doorbell .. | .interrupt ..
  | .netLaunchPacket .. | .quantumEnd .. | .waitSlotTimeout .. | .priorityAging ..
  | .hartWake .. | .mixWindowEnd .. | .retrieverArrival .. | .tlbinvAck ..
  | .powerInterval .. | .thermalClampOn .. | .thermalClampOff .. | .powerClampOn ..
  | .powerClampOff .. | .coreRetire .. | .debug .. | .pldmSensorRead ..
  | .pldmFirmwareUpdate .. | .commitSvn .. | .getMeasurements | .packageReset ..
  | .featreqWrite .. | .create .. | .start .. | .swapout ..
  | .swapin .. | .terminate .. | .destroy .. | .badOp ..
  | .bankpool .. | .groupdef .. | .asidrange .. | .ctxarea ..
  | .codefail .. | .partreq .. | .tdtable .. | .asidctx ..
  | .pcieReadCompletion .. | .birsp .. | .hintPauseEnd .. | .taskTerminated ..
  | .mainSideUnpowered => []

/-- The instruction that the decoder reads from the bits `w` of an opcode-table row of `nbits` bits, bit 0 the lowest bit
of the first word (R6); the bits above `nbits` are 0. -/
def decodeTableWord (nbits w : Nat) : Option Instr :=
  let w0 : Half := BitVec.ofNat 32 w
  let w1 : Half := if nbits ≤ 32 then 0 else BitVec.ofNat 32 (w / 2 ^ 32)
  match decodeWords w0 w1 with
  | .ok i => some i
  | .error _ => none

end Sys2Proof
end

