-- ==== Sys2Proof/Machine/Table.lean ====
section
/-! DEFINITION. Fixed facts of the part: numbering of cores, clusters and slices, distances, the address map, the class
matrix, and which registers and features an instruction uses. -/

namespace Sys2Proof.Machine

/-- The core classes (R27). -/
inductive Cls where
  | mastiff | hound | whippet
deriving DecidableEq, Repr

/-- CLS codes (Table 1.6). -/
def Cls.code : Cls → Nat
  | .mastiff => 0 | .hound => 1 | .whippet => 2

/-- Class of a core (R14). -/
def clsOf (core : Nat) : Cls := if core < 16 then .mastiff else if core < 272 then .hound else .whippet

/-- Cluster number of a core (Table 17.1). -/
def clusterOf (core : Nat) : Nat :=
  if core < 16 then 0 else if core < 272 then 1 + (core - 16) / 32 else 9 + (core - 272) / 96

/-- Die of a core (R14). -/
def dieOf (core : Nat) : Nat :=
  if core < 16 then 0 else if core < 144 then 1 else if core < 272 then 2 else if core < 464 then 3
  else if core < 656 then 4 else 5

/-- Cluster within the die (R14). -/
def clusterInDie (core : Nat) : Nat :=
  match clsOf core with
  | .mastiff => 0
  | .hound => (core - 16) % 128 / 32
  | .whippet => (core - 272) % 192 / 96

/-- Position of a core within its cluster (R363). -/
def positionOf (core : Nat) : Nat :=
  match clsOf core with
  | .mastiff => core
  | .hound => (core - 16) % 128 % 32
  | .whippet => (core - 272) % 192 % 96

/-- First core of a core's cluster. -/
def clusterBase (core : Nat) : Nat := core - positionOf core

/-- Hart slots per core (Table 0.1). -/
def slotsOf (core : Nat) : Nat :=
  match clsOf core with
  | .mastiff => 2 | .hound => 4 | .whippet => 2

/-- Lane-cluster size in containers (Table 1.3). -/
def lcsize : Cls → Nat
  | .mastiff => 0 | .hound => 128 | .whippet => 32

/-- Passes per full-length vector instruction (Table 1.6). -/
def passes : Cls → Nat
  | .mastiff => 0 | .hound => 4 | .whippet => 16

/-- Bytes of a local store (Table 14.5). -/
def storeBytes : Cls → Nat
  | .mastiff => 0 | .hound => 192 * 1024 | .whippet => 384 * 1024

/-- Island of a core (Table 22.1). -/
def islandOf (core : Nat) : Nat :=
  match clsOf core with
  | .mastiff => 0
  | .hound => 4 * dieOf core + clusterInDie core
  | .whippet => 4 * dieOf core + 2 * clusterInDie core + positionOf core / 48

/-- The two dies of each Mortar link (Table 16.1). -/
def linkEnds : List (Nat × Nat) := [(0, 1), (0, 2), (0, 3), (0, 4), (0, 5), (1, 2), (3, 4), (4, 5), (3, 5)]

/-- The agent is alive (R382). -/
def State.alive (s : State) (a : Agent) : Bool :=
  match s.agents.lookup a with
  | some st => st.alive
  | none => false

/-- Keystone is dead, and with it the whole part stops (Table 15.7). -/
def State.stopped (s : State) : Bool := !s.alive (.die 0)

/-- The dies are joined by a link in service (R423). -/
def State.joined (s : State) (a b : Nat) : Bool :=
  (List.finRange 9).any fun n =>
    s.alive (.link n) && (linkEnds.getD n.val (0, 0) == (a, b) || linkEnds.getD n.val (0, 0) == (b, a))

/-- Distance of two cores in hops (Table 17.5). -/
def State.distance (s : State) (a b : Nat) : Nat :=
  if a = b then 0
  else if clusterOf a = clusterOf b then 1
  else if dieOf a = dieOf b then 2
  else if s.joined (dieOf a) (dieOf b) then 3
  else 4

/-- What lies at a physical address (Table 14.8, R363). -/
inductive Place where
  | hbm (die : Nat)
  | store (core off : Nat)
  | homeStore (off : Nat)
  | homeWindow (off : Nat)
  | host (port : Fin 2)
  | hole
deriving DecidableEq, Repr

/-- The map of Table 14.8. -/
def placeOf (pa : Nat) : Place :=
  if 0x4000000000 ≤ pa && pa < 0x7000000000 then .hbm 1
  else if 0x8000000000 ≤ pa && pa < 0xB000000000 then .hbm 2
  else if 0xC000000000 ≤ pa && pa < 0xE000000000 then .hbm 3
  else if 0x10000000000 ≤ pa && pa < 0x12000000000 then .hbm 4
  else if 0x14000000000 ≤ pa && pa < 0x16000000000 then .hbm 5
  else if 0x100000000000 ≤ pa && pa < 0x10001A800000 then
    .store ((pa - 0x100000000000) / 0x80000) ((pa - 0x100000000000) % 0x80000)
  else if 0x100100000000 ≤ pa && pa < 0x100100080000 then .homeStore (pa - 0x100100000000)
  else if 0x100104000000 ≤ pa && pa < 0x100108000000 then .homeWindow (pa - 0x100104000000)
  else if 0x80000000000000 ≤ pa && pa < 0xC0000000000000 then .host 0
  else if 0xC0000000000000 ≤ pa && pa < 0x100000000000000 then .host 1
  else .hole

/-- LSBASE + core × 0x8_0000 (R363). -/
def storeBase (core : Nat) : Nat := 0x100000000000 + core * 0x80000

/-- The core is fenced (R501). -/
def State.fenced (s : State) (core : Nat) : Bool := s.cores.any fun c => c.core == core && c.fenced

/-- The byte at a local-store offset exists (R363, R436). -/
def State.storePresent (s : State) (core off : Nat) : Bool :=
  decide (core < 848) && decide (off < storeBytes (clsOf core)) && !s.fenced core

/-- The physical address with the alias ranges resolved against a home core, and none where nothing is there (R363). -/
def State.resolve (s : State) (home pa : Nat) : Option Nat :=
  match placeOf pa with
  | .hbm _ => some pa
  | .host _ => some pa
  | .hole => none
  | .store c off => if s.storePresent c off then some pa else none
  | .homeStore off => if s.storePresent home off then some (storeBase home + off) else none
  | .homeWindow off =>
    let b := storeBytes (clsOf home)
    if b = 0 then none
    else
      let n := off / b
      let size := match clsOf home with | .mastiff => 0 | .hound => 32 | .whippet => 96
      if n < size && s.storePresent (clusterBase home + n) (off % b) then
        some (storeBase (clusterBase home + n) + off % b)
      else none

/-- Level of a CSR number (R22). -/
def csrLevel (n : BitVec 12) : Nat := if n.toNat < 0x100 then 0 else if n.toNat < 0x200 then 1 else 2

/-- Class of a CSR access: S-level numbers are absent on Whippet (Table 1.13). -/
def csrClass (c : Cls) (n : BitVec 12) : Bool := csrLevel n != 1 || c != .whippet

/-- The class executes the instruction (Table 1.13). -/
def implements (c : Cls) : Instr → Bool
  | .mulh .. | .mulhn .. | .div .. | .divn .. | .rem .. | .remn .. | .fadd ..
  | .fsub .. | .fmul .. | .fdiv .. | .fsqrt .. | .fmin .. | .fmax .. | .fcmpeq ..
  | .fcmplt .. | .fcmple .. | .fsgn .. | .fclass .. | .fneg .. | .fabs .. | .fma ..
  | .fms .. | .fnma .. | .fcvt .. | .fmvx .. | .fmvf .. | .ifence | .cinv ..
  | .cwb .. | .cflush .. | .vquery .. | .vdrop .. | .tdget .. | .farm .. => c != .whippet
  | .setvl .. | .vld .. | .vlds .. | .vldx .. | .vst .. | .vsts .. | .vstx ..
  | .vld_st .. | .vmv .. | .vmvx .. | .vmerge .. | .vfcvt .. | .vadd .. | .vsub ..
  | .vmul .. | .vfadd .. | .vfsub .. | .vfmul .. | .vfma .. | .vfmin .. | .vfmax ..
  | .vcmp .. | .vfcmp .. | .kand .. | .kor .. | .kxor .. | .knot .. | .kpopc ..
  | .kfirst .. | .kset .. | .vrcp .. | .vredsum .. | .vredosum .. | .vredmax .. | .vredq .. => c != .mastiff
  | .vmulh .. | .vdiv .. | .vrem .. | .vmin .. | .vmax .. | .vand .. | .vor ..
  | .vxor .. | .vsll .. | .vsrl .. | .vsra .. | .vabs .. | .vneg .. | .vfdiv ..
  | .vfsqrt .. | .vfms .. | .vfnma .. | .vfabs .. | .vfneg .. | .vid .. | .vslideup ..
  | .vslidedn .. | .vperm .. | .vcompress .. | .vexpand .. | .vredmin .. | .vredand .. | .vredor ..
  | .vlog2 .. | .vrsqrt .. | .vsinpi .. | .vcospi .. => c == .hound
  | .msetvl .. | .mexit .. | .mopa .. | .mopa4 .. | .mopas .. | .mzero .. | .mld ..
  | .mst .. | .mrow .. | .mcol .. => c == .whippet
  | .vdef .. | .vresize .. | .tdset .. | .tlbinv .. => c == .mastiff
  | .vexp2 o => c == .hound || (c == .whippet && o.fmt == .f32)
  | .csrrd _ n => csrClass c n
  | .csrwr _ _ n => csrClass c n
  | .csrset _ _ n => csrClass c n
  | .csrclr _ _ n => csrClass c n
  | .add .. | .sub .. | .and .. | .or .. | .xor .. | .andn .. | .sll ..
  | .srl .. | .sra .. | .rol .. | .ror .. | .slt .. | .sltn .. | .min ..
  | .max .. | .minn .. | .maxn .. | .mul .. | .sadd1 .. | .sadd2 .. | .sadd3 ..
  | .bext .. | .bins .. | .clz .. | .ctz .. | .popc .. | .sext_b .. | .sext_h ..
  | .sext_w .. | .zext_b .. | .zext_h .. | .zext_w .. | .addi .. | .andi .. | .ori ..
  | .xori .. | .slti .. | .slli .. | .srli .. | .srai .. | .lup .. | .pcadd ..
  | .beq .. | .bne .. | .blt .. | .bge .. | .bltn .. | .bgen .. | .j ..
  | .call .. | .jx .. | .callx .. | .ret .. | .land | .ldb .. | .ldbz ..
  | .ldh .. | .ldhz .. | .ldw .. | .ldwz .. | .ldd .. | .stb .. | .sth ..
  | .stw .. | .std .. | .amoadd_w .. | .amoand_w .. | .amoor_w .. | .amoxor_w .. | .amomin_w ..
  | .amomax_w .. | .amominn_w .. | .amomaxn_w .. | .amoswp_w .. | .amoadd_d .. | .amoand_d .. | .amoor_d ..
  | .amoxor_d .. | .amomin_d .. | .amomax_d .. | .amominn_d .. | .amomaxn_d .. | .amoswp_d .. | .amocas_w ..
  | .amocas_d .. | .ldres_w .. | .ldres_d .. | .stcond_w .. | .stcond_d .. | .ecall | .ebreak
  | .eret | .fence .. | .xfence | .rfence .. | .rslot .. | .rslott .. | .barInit ..
  | .barArrive .. | .barWait .. | .launch .. | .join .. | .exit | .yield | .fclaim ..
  | .wmpub .. | .wmwait .. | .nullHint .. | .hintClass .. | .hintPref .. | .hintLive .. | .hintFuse ..
  | .hintPause .. | .hintPlace .. | .cpy .. | .cpyt .. | .cpyr .. | .cbinit .. | .cbwait ..
  | .sopen .. | .sclose .. | .mbxpop .. | .waitmsg .. | .msgsend .. | .rxopen .. | .rxpop ..
  | .coll .. | .collwait .. | .illegalWord .. | .runLimit .. | .vqEntryIssue .. | .vectorMemoryResponse .. | .elementProgress ..
  | .waitResume .. | .barArriveFire .. | .copyTransfer .. | .copyCompletion .. | .streamFetch .. | .rxMessageArrival .. | .collOperationStart ..
  | .collPartialTransfer .. | .collOperationEnd .. | .collPackageUnreachable .. | .pcieAtomicopCompletion .. | .pcieCompletionTimeout .. | .vaultWalkStep .. | .regionRequest ..
  | .leaseExpiry .. | .leaseRecallAck .. | .regionDecay .. | .cxlCacheResponse .. | .snpData .. | .snpInv .. | .snpCur ..
  | .cxlMemRead .. | .cxlMemWrite .. | .heartbeat .. | .agentDeath .. | .agentReadmit .. | .linkStop .. | .linkGo ..
  | .linkSectorReceive .. | .linkDictChecksum .. | .qctlWrite .. | .tailWrite .. | .nop .. | .hqLaunch .. | .entryWrite ..
  | .tdWrite .. | .badCommand .. | .registerWrite .. | .doorbell .. | .interrupt .. | .netLaunchPacket .. | .quantumEnd ..
  | .waitSlotTimeout .. | .priorityAging .. | .hartWake .. | .mixWindowEnd .. | .retrieverArrival .. | .tlbinvAck .. | .powerInterval ..
  | .thermalClampOn .. | .thermalClampOff .. | .powerClampOn .. | .powerClampOff .. | .coreRetire .. | .debug .. | .pldmSensorRead ..
  | .pldmFirmwareUpdate .. | .commitSvn .. | .getMeasurements | .packageReset .. | .featreqWrite .. | .create .. | .start ..
  | .swapout .. | .swapin .. | .terminate .. | .destroy .. | .badOp .. | .bankpool .. | .groupdef ..
  | .asidrange .. | .ctxarea .. | .codefail .. | .partreq .. | .tdtable .. | .asidctx .. | .pcieReadCompletion ..
  | .birsp .. | .hintPauseEnd .. | .taskTerminated .. | .mainSideUnpowered => true

/-- Lowest level that may execute the instruction (Tables 3.5 and 3.12; R22 for CSR numbers). eret checks its own. -/
def minLevel : Instr → Nat
  | .csrrd _ n => csrLevel n
  | .csrwr _ _ n => csrLevel n
  | .csrset _ _ n => csrLevel n
  | .csrclr _ _ n => csrLevel n
  | .vdrop .. | .vdef .. | .vresize .. | .tdset .. | .tlbinv .. => 1
  | .add .. | .sub .. | .and .. | .or .. | .xor .. | .andn .. | .sll ..
  | .srl .. | .sra .. | .rol .. | .ror .. | .slt .. | .sltn .. | .min ..
  | .max .. | .minn .. | .maxn .. | .mul .. | .mulh .. | .mulhn .. | .div ..
  | .divn .. | .rem .. | .remn .. | .sadd1 .. | .sadd2 .. | .sadd3 .. | .bext ..
  | .bins .. | .clz .. | .ctz .. | .popc .. | .sext_b .. | .sext_h .. | .sext_w ..
  | .zext_b .. | .zext_h .. | .zext_w .. | .addi .. | .andi .. | .ori .. | .xori ..
  | .slti .. | .slli .. | .srli .. | .srai .. | .lup .. | .pcadd .. | .beq ..
  | .bne .. | .blt .. | .bge .. | .bltn .. | .bgen .. | .j .. | .call ..
  | .jx .. | .callx .. | .ret .. | .land | .ldb .. | .ldbz .. | .ldh ..
  | .ldhz .. | .ldw .. | .ldwz .. | .ldd .. | .stb .. | .sth .. | .stw ..
  | .std .. | .amoadd_w .. | .amoand_w .. | .amoor_w .. | .amoxor_w .. | .amomin_w .. | .amomax_w ..
  | .amominn_w .. | .amomaxn_w .. | .amoswp_w .. | .amoadd_d .. | .amoand_d .. | .amoor_d .. | .amoxor_d ..
  | .amomin_d .. | .amomax_d .. | .amominn_d .. | .amomaxn_d .. | .amoswp_d .. | .amocas_w .. | .amocas_d ..
  | .ldres_w .. | .ldres_d .. | .stcond_w .. | .stcond_d .. | .fadd .. | .fsub .. | .fmul ..
  | .fdiv .. | .fsqrt .. | .fmin .. | .fmax .. | .fcmpeq .. | .fcmplt .. | .fcmple ..
  | .fsgn .. | .fclass .. | .fneg .. | .fabs .. | .fma .. | .fms .. | .fnma ..
  | .fcvt .. | .fmvx .. | .fmvf .. | .ecall | .ebreak | .eret | .ifence
  | .cinv .. | .cwb .. | .cflush .. | .vquery .. | .tdget .. | .fence .. | .xfence
  | .rfence .. | .rslot .. | .rslott .. | .barInit .. | .barArrive .. | .barWait .. | .launch ..
  | .join .. | .exit | .yield | .farm .. | .fclaim .. | .wmpub .. | .wmwait ..
  | .nullHint .. | .hintClass .. | .hintPref .. | .hintLive .. | .hintFuse .. | .hintPause .. | .hintPlace ..
  | .setvl .. | .vadd .. | .vsub .. | .vmul .. | .vmulh .. | .vdiv .. | .vrem ..
  | .vmin .. | .vmax .. | .vand .. | .vor .. | .vxor .. | .vsll .. | .vsrl ..
  | .vsra .. | .vabs .. | .vneg .. | .vcmp .. | .vmerge .. | .vmv .. | .vmvx ..
  | .vid .. | .vfadd .. | .vfsub .. | .vfmul .. | .vfdiv .. | .vfsqrt .. | .vfma ..
  | .vfms .. | .vfnma .. | .vfmin .. | .vfmax .. | .vfabs .. | .vfneg .. | .vfcmp ..
  | .vfcvt .. | .vld .. | .vlds .. | .vldx .. | .vld_st .. | .vst .. | .vsts ..
  | .vstx .. | .kand .. | .kor .. | .kxor .. | .knot .. | .kpopc .. | .kfirst ..
  | .kset .. | .vslideup .. | .vslidedn .. | .vperm .. | .vcompress .. | .vexpand .. | .vredsum ..
  | .vredosum .. | .vredmax .. | .vredq .. | .vredmin .. | .vredand .. | .vredor .. | .vexp2 ..
  | .vrcp .. | .vlog2 .. | .vrsqrt .. | .vsinpi .. | .vcospi .. | .msetvl .. | .mexit ..
  | .mopa .. | .mopa4 .. | .mopas .. | .mzero .. | .mld .. | .mst .. | .mrow ..
  | .mcol .. | .cpy .. | .cpyt .. | .cpyr .. | .cbinit .. | .cbwait .. | .sopen ..
  | .sclose .. | .mbxpop .. | .waitmsg .. | .msgsend .. | .rxopen .. | .rxpop .. | .coll ..
  | .collwait .. | .illegalWord .. | .runLimit .. | .vqEntryIssue .. | .vectorMemoryResponse .. | .elementProgress .. | .waitResume ..
  | .barArriveFire .. | .copyTransfer .. | .copyCompletion .. | .streamFetch .. | .rxMessageArrival .. | .collOperationStart .. | .collPartialTransfer ..
  | .collOperationEnd .. | .collPackageUnreachable .. | .pcieAtomicopCompletion .. | .pcieCompletionTimeout .. | .vaultWalkStep .. | .regionRequest .. | .leaseExpiry ..
  | .leaseRecallAck .. | .regionDecay .. | .cxlCacheResponse .. | .snpData .. | .snpInv .. | .snpCur .. | .cxlMemRead ..
  | .cxlMemWrite .. | .heartbeat .. | .agentDeath .. | .agentReadmit .. | .linkStop .. | .linkGo .. | .linkSectorReceive ..
  | .linkDictChecksum .. | .qctlWrite .. | .tailWrite .. | .nop .. | .hqLaunch .. | .entryWrite .. | .tdWrite ..
  | .badCommand .. | .registerWrite .. | .doorbell .. | .interrupt .. | .netLaunchPacket .. | .quantumEnd .. | .waitSlotTimeout ..
  | .priorityAging .. | .hartWake .. | .mixWindowEnd .. | .retrieverArrival .. | .tlbinvAck .. | .powerInterval .. | .thermalClampOn ..
  | .thermalClampOff .. | .powerClampOn .. | .powerClampOff .. | .coreRetire .. | .debug .. | .pldmSensorRead .. | .pldmFirmwareUpdate ..
  | .commitSvn .. | .getMeasurements | .packageReset .. | .featreqWrite .. | .create .. | .start .. | .swapout ..
  | .swapin .. | .terminate .. | .destroy .. | .badOp .. | .bankpool .. | .groupdef .. | .asidrange ..
  | .ctxarea .. | .codefail .. | .partreq .. | .tdtable .. | .asidctx .. | .pcieReadCompletion .. | .birsp ..
  | .hintPauseEnd .. | .taskTerminated .. | .mainSideUnpowered => 0

/-- Bit of isafeat0 that the major opcode belongs to (Table 19.1). -/
def featureBit : Instr → Nat
  | .fadd .. | .fsub .. | .fmul .. | .fdiv .. | .fsqrt .. | .fmin .. | .fmax ..
  | .fcmpeq .. | .fcmplt .. | .fcmple .. | .fsgn .. | .fclass .. | .fneg .. | .fabs ..
  | .fma .. | .fms .. | .fnma .. | .fcvt .. | .fmvx .. | .fmvf .. => 1
  | .setvl .. | .vld .. | .vlds .. | .vldx .. | .vst .. | .vsts .. | .vstx ..
  | .vld_st .. | .vmv .. | .vmvx .. | .vmerge .. | .vfcvt .. | .vadd .. | .vsub ..
  | .vmul .. | .vfadd .. | .vfsub .. | .vfmul .. | .vfma .. | .vfmin .. | .vfmax ..
  | .vcmp .. | .vfcmp .. | .kand .. | .kor .. | .kxor .. | .knot .. | .kpopc ..
  | .kfirst .. | .kset .. | .vrcp .. | .vredsum .. | .vredosum .. | .vredmax .. | .vredq ..
  | .vmulh .. | .vdiv .. | .vrem .. | .vmin .. | .vmax .. | .vand .. | .vor ..
  | .vxor .. | .vsll .. | .vsrl .. | .vsra .. | .vabs .. | .vneg .. | .vfdiv ..
  | .vfsqrt .. | .vfms .. | .vfnma .. | .vfabs .. | .vfneg .. | .vid .. | .vslideup ..
  | .vslidedn .. | .vperm .. | .vcompress .. | .vexpand .. | .vredmin .. | .vredand .. | .vredor ..
  | .vlog2 .. | .vrsqrt .. | .vsinpi .. | .vcospi .. | .vexp2 .. => 2
  | .msetvl .. | .mexit .. | .mopa .. | .mopa4 .. | .mopas .. | .mzero .. | .mld ..
  | .mst .. | .mrow .. | .mcol .. => 3
  | .cpy .. | .cpyt .. | .cpyr .. | .cbinit .. | .cbwait .. | .sopen .. | .sclose ..
  | .mbxpop .. | .waitmsg .. | .msgsend .. | .rxopen .. | .rxpop .. | .coll .. | .collwait .. => 4
  | .add .. | .sub .. | .and .. | .or .. | .xor .. | .andn .. | .sll ..
  | .srl .. | .sra .. | .rol .. | .ror .. | .slt .. | .sltn .. | .min ..
  | .max .. | .minn .. | .maxn .. | .mul .. | .mulh .. | .mulhn .. | .div ..
  | .divn .. | .rem .. | .remn .. | .sadd1 .. | .sadd2 .. | .sadd3 .. | .bext ..
  | .bins .. | .clz .. | .ctz .. | .popc .. | .sext_b .. | .sext_h .. | .sext_w ..
  | .zext_b .. | .zext_h .. | .zext_w .. | .addi .. | .andi .. | .ori .. | .xori ..
  | .slti .. | .slli .. | .srli .. | .srai .. | .lup .. | .pcadd .. | .beq ..
  | .bne .. | .blt .. | .bge .. | .bltn .. | .bgen .. | .j .. | .call ..
  | .jx .. | .callx .. | .ret .. | .land | .ldb .. | .ldbz .. | .ldh ..
  | .ldhz .. | .ldw .. | .ldwz .. | .ldd .. | .stb .. | .sth .. | .stw ..
  | .std .. | .amoadd_w .. | .amoand_w .. | .amoor_w .. | .amoxor_w .. | .amomin_w .. | .amomax_w ..
  | .amominn_w .. | .amomaxn_w .. | .amoswp_w .. | .amoadd_d .. | .amoand_d .. | .amoor_d .. | .amoxor_d ..
  | .amomin_d .. | .amomax_d .. | .amominn_d .. | .amomaxn_d .. | .amoswp_d .. | .amocas_w .. | .amocas_d ..
  | .ldres_w .. | .ldres_d .. | .stcond_w .. | .stcond_d .. | .csrrd .. | .csrwr .. | .csrset ..
  | .csrclr .. | .ecall | .ebreak | .eret | .ifence | .cinv .. | .cwb ..
  | .cflush .. | .vquery .. | .vdrop .. | .tdget .. | .fence .. | .xfence | .rfence ..
  | .rslot .. | .rslott .. | .barInit .. | .barArrive .. | .barWait .. | .launch .. | .join ..
  | .exit | .yield | .farm .. | .fclaim .. | .wmpub .. | .wmwait .. | .nullHint ..
  | .hintClass .. | .hintPref .. | .hintLive .. | .hintFuse .. | .hintPause .. | .hintPlace .. | .vdef ..
  | .vresize .. | .tdset .. | .tlbinv .. | .illegalWord .. | .runLimit .. | .vqEntryIssue .. | .vectorMemoryResponse ..
  | .elementProgress .. | .waitResume .. | .barArriveFire .. | .copyTransfer .. | .copyCompletion .. | .streamFetch .. | .rxMessageArrival ..
  | .collOperationStart .. | .collPartialTransfer .. | .collOperationEnd .. | .collPackageUnreachable .. | .pcieAtomicopCompletion .. | .pcieCompletionTimeout .. | .vaultWalkStep ..
  | .regionRequest .. | .leaseExpiry .. | .leaseRecallAck .. | .regionDecay .. | .cxlCacheResponse .. | .snpData .. | .snpInv ..
  | .snpCur .. | .cxlMemRead .. | .cxlMemWrite .. | .heartbeat .. | .agentDeath .. | .agentReadmit .. | .linkStop ..
  | .linkGo .. | .linkSectorReceive .. | .linkDictChecksum .. | .qctlWrite .. | .tailWrite .. | .nop .. | .hqLaunch ..
  | .entryWrite .. | .tdWrite .. | .badCommand .. | .registerWrite .. | .doorbell .. | .interrupt .. | .netLaunchPacket ..
  | .quantumEnd .. | .waitSlotTimeout .. | .priorityAging .. | .hartWake .. | .mixWindowEnd .. | .retrieverArrival .. | .tlbinvAck ..
  | .powerInterval .. | .thermalClampOn .. | .thermalClampOff .. | .powerClampOn .. | .powerClampOff .. | .coreRetire .. | .debug ..
  | .pldmSensorRead .. | .pldmFirmwareUpdate .. | .commitSvn .. | .getMeasurements | .packageReset .. | .featreqWrite .. | .create ..
  | .start .. | .swapout .. | .swapin .. | .terminate .. | .destroy .. | .badOp .. | .bankpool ..
  | .groupdef .. | .asidrange .. | .ctxarea .. | .codefail .. | .partreq .. | .tdtable .. | .asidctx ..
  | .pcieReadCompletion .. | .birsp .. | .hintPauseEnd .. | .taskTerminated .. | .mainSideUnpowered => 0

/-- The format fields of an instruction, for F8 (R463). -/
def formats : Instr → List Fmt
  | .vadd o => [o.fmt]
  | .vsub o => [o.fmt]
  | .vmul o => [o.fmt]
  | .vmulh o => [o.fmt]
  | .vdiv o => [o.fmt]
  | .vrem o => [o.fmt]
  | .vmin o => [o.fmt]
  | .vmax o => [o.fmt]
  | .vand o => [o.fmt]
  | .vor o => [o.fmt]
  | .vxor o => [o.fmt]
  | .vsll o => [o.fmt]
  | .vsrl o => [o.fmt]
  | .vsra o => [o.fmt]
  | .vabs o => [o.fmt]
  | .vneg o => [o.fmt]
  | .vcmp o => [o.fmt]
  | .vmerge o => [o.fmt]
  | .vmv o => [o.fmt]
  | .vmvx o => [o.fmt]
  | .vid o => [o.fmt]
  | .vfadd o => [o.fmt]
  | .vfsub o => [o.fmt]
  | .vfmul o => [o.fmt]
  | .vfdiv o => [o.fmt]
  | .vfsqrt o => [o.fmt]
  | .vfma o => [o.fmt]
  | .vfms o => [o.fmt]
  | .vfnma o => [o.fmt]
  | .vfmin o => [o.fmt]
  | .vfmax o => [o.fmt]
  | .vfabs o => [o.fmt]
  | .vfneg o => [o.fmt]
  | .vfcmp o => [o.fmt]
  | .vld o => [o.fmt]
  | .vlds o => [o.fmt]
  | .vldx o => [o.fmt]
  | .vld_st o => [o.fmt]
  | .vst o => [o.fmt]
  | .vsts o => [o.fmt]
  | .vstx o => [o.fmt]
  | .vslideup o => [o.fmt]
  | .vslidedn o => [o.fmt]
  | .vperm o => [o.fmt]
  | .vcompress o => [o.fmt]
  | .vexpand o => [o.fmt]
  | .vredsum o => [o.fmt]
  | .vredosum o => [o.fmt]
  | .vredmax o => [o.fmt]
  | .vredq o => [o.fmt]
  | .vredmin o => [o.fmt]
  | .vredand o => [o.fmt]
  | .vredor o => [o.fmt]
  | .vexp2 o => [o.fmt]
  | .vrcp o => [o.fmt]
  | .vlog2 o => [o.fmt]
  | .vrsqrt o => [o.fmt]
  | .vsinpi o => [o.fmt]
  | .vcospi o => [o.fmt]
  | .setvl o => [o.fmt]
  | .msetvl o => [o.fmt]
  | .mopa o => [o.fmt]
  | .mopa4 o => [o.fmt]
  | .mopas o => [o.fmt]
  | .coll o => [o.fmt]
  | .vfcvt o => [o.dst, o.src]
  | .fcvt _ _ dst src _ => [dst, src]
  | .add .. | .sub .. | .and .. | .or .. | .xor .. | .andn .. | .sll ..
  | .srl .. | .sra .. | .rol .. | .ror .. | .slt .. | .sltn .. | .min ..
  | .max .. | .minn .. | .maxn .. | .mul .. | .mulh .. | .mulhn .. | .div ..
  | .divn .. | .rem .. | .remn .. | .sadd1 .. | .sadd2 .. | .sadd3 .. | .bext ..
  | .bins .. | .clz .. | .ctz .. | .popc .. | .sext_b .. | .sext_h .. | .sext_w ..
  | .zext_b .. | .zext_h .. | .zext_w .. | .addi .. | .andi .. | .ori .. | .xori ..
  | .slti .. | .slli .. | .srli .. | .srai .. | .lup .. | .pcadd .. | .beq ..
  | .bne .. | .blt .. | .bge .. | .bltn .. | .bgen .. | .j .. | .call ..
  | .jx .. | .callx .. | .ret .. | .land | .ldb .. | .ldbz .. | .ldh ..
  | .ldhz .. | .ldw .. | .ldwz .. | .ldd .. | .stb .. | .sth .. | .stw ..
  | .std .. | .amoadd_w .. | .amoand_w .. | .amoor_w .. | .amoxor_w .. | .amomin_w .. | .amomax_w ..
  | .amominn_w .. | .amomaxn_w .. | .amoswp_w .. | .amoadd_d .. | .amoand_d .. | .amoor_d .. | .amoxor_d ..
  | .amomin_d .. | .amomax_d .. | .amominn_d .. | .amomaxn_d .. | .amoswp_d .. | .amocas_w .. | .amocas_d ..
  | .ldres_w .. | .ldres_d .. | .stcond_w .. | .stcond_d .. | .fadd .. | .fsub .. | .fmul ..
  | .fdiv .. | .fsqrt .. | .fmin .. | .fmax .. | .fcmpeq .. | .fcmplt .. | .fcmple ..
  | .fsgn .. | .fclass .. | .fneg .. | .fabs .. | .fma .. | .fms .. | .fnma ..
  | .fmvx .. | .fmvf .. | .csrrd .. | .csrwr .. | .csrset .. | .csrclr .. | .ecall
  | .ebreak | .eret | .ifence | .cinv .. | .cwb .. | .cflush .. | .vquery ..
  | .vdrop .. | .tdget .. | .fence .. | .xfence | .rfence .. | .rslot .. | .rslott ..
  | .barInit .. | .barArrive .. | .barWait .. | .launch .. | .join .. | .exit | .yield
  | .farm .. | .fclaim .. | .wmpub .. | .wmwait .. | .nullHint .. | .hintClass .. | .hintPref ..
  | .hintLive .. | .hintFuse .. | .hintPause .. | .hintPlace .. | .kand .. | .kor .. | .kxor ..
  | .knot .. | .kpopc .. | .kfirst .. | .kset .. | .mexit .. | .mzero .. | .mld ..
  | .mst .. | .mrow .. | .mcol .. | .cpy .. | .cpyt .. | .cpyr .. | .cbinit ..
  | .cbwait .. | .sopen .. | .sclose .. | .mbxpop .. | .waitmsg .. | .msgsend .. | .rxopen ..
  | .rxpop .. | .collwait .. | .vdef .. | .vresize .. | .tdset .. | .tlbinv .. | .illegalWord ..
  | .runLimit .. | .vqEntryIssue .. | .vectorMemoryResponse .. | .elementProgress .. | .waitResume .. | .barArriveFire .. | .copyTransfer ..
  | .copyCompletion .. | .streamFetch .. | .rxMessageArrival .. | .collOperationStart .. | .collPartialTransfer .. | .collOperationEnd .. | .collPackageUnreachable ..
  | .pcieAtomicopCompletion .. | .pcieCompletionTimeout .. | .vaultWalkStep .. | .regionRequest .. | .leaseExpiry .. | .leaseRecallAck .. | .regionDecay ..
  | .cxlCacheResponse .. | .snpData .. | .snpInv .. | .snpCur .. | .cxlMemRead .. | .cxlMemWrite .. | .heartbeat ..
  | .agentDeath .. | .agentReadmit .. | .linkStop .. | .linkGo .. | .linkSectorReceive .. | .linkDictChecksum .. | .qctlWrite ..
  | .tailWrite .. | .nop .. | .hqLaunch .. | .entryWrite .. | .tdWrite .. | .badCommand .. | .registerWrite ..
  | .doorbell .. | .interrupt .. | .netLaunchPacket .. | .quantumEnd .. | .waitSlotTimeout .. | .priorityAging .. | .hartWake ..
  | .mixWindowEnd .. | .retrieverArrival .. | .tlbinvAck .. | .powerInterval .. | .thermalClampOn .. | .thermalClampOff .. | .powerClampOn ..
  | .powerClampOff .. | .coreRetire .. | .debug .. | .pldmSensorRead .. | .pldmFirmwareUpdate .. | .commitSvn .. | .getMeasurements
  | .packageReset .. | .featreqWrite .. | .create .. | .start .. | .swapout .. | .swapin .. | .terminate ..
  | .destroy .. | .badOp .. | .bankpool .. | .groupdef .. | .asidrange .. | .ctxarea .. | .codefail ..
  | .partreq .. | .tdtable .. | .asidctx .. | .pcieReadCompletion .. | .birsp .. | .hintPauseEnd .. | .taskTerminated ..
  | .mainSideUnpowered => []

/-- x register of a second source: the broadcast of codes 0x0–0x7 and 0xC–0xF (R186). -/
def src2X (f : Fmt) : Src2 → List Reg
  | .vec _ => []
  | .scal x => if f.isFp then [] else [x]

/-- f register of a second source: the broadcast of codes 0x8–0xB (R186). -/
def src2F (f : Fmt) : Src2 → List Reg
  | .vec _ => []
  | .scal x => if f.isFp then [x] else []

/-- The x registers that an instruction reads or writes as a scalar register (R33). -/
def xRegs : Instr → List Reg
  | .add d a b => [d, a, b]
  | .sub d a b => [d, a, b]
  | .and d a b => [d, a, b]
  | .or d a b => [d, a, b]
  | .xor d a b => [d, a, b]
  | .andn d a b => [d, a, b]
  | .sll d a b => [d, a, b]
  | .srl d a b => [d, a, b]
  | .sra d a b => [d, a, b]
  | .rol d a b => [d, a, b]
  | .ror d a b => [d, a, b]
  | .slt d a b => [d, a, b]
  | .sltn d a b => [d, a, b]
  | .min d a b => [d, a, b]
  | .max d a b => [d, a, b]
  | .minn d a b => [d, a, b]
  | .maxn d a b => [d, a, b]
  | .mul d a b => [d, a, b]
  | .mulh d a b => [d, a, b]
  | .mulhn d a b => [d, a, b]
  | .div d a b => [d, a, b]
  | .divn d a b => [d, a, b]
  | .rem d a b => [d, a, b]
  | .remn d a b => [d, a, b]
  | .sadd1 d a b => [d, a, b]
  | .sadd2 d a b => [d, a, b]
  | .sadd3 d a b => [d, a, b]
  | .bext d a b => [d, a, b]
  | .bins d a b => [d, a, b]
  | .clz d a => [d, a]
  | .ctz d a => [d, a]
  | .popc d a => [d, a]
  | .sext_b d a => [d, a]
  | .sext_h d a => [d, a]
  | .sext_w d a => [d, a]
  | .zext_b d a => [d, a]
  | .zext_h d a => [d, a]
  | .zext_w d a => [d, a]
  | .addi d a _ => [d, a]
  | .andi d a _ => [d, a]
  | .ori d a _ => [d, a]
  | .xori d a _ => [d, a]
  | .slti d a _ => [d, a]
  | .slli d a _ => [d, a]
  | .srli d a _ => [d, a]
  | .srai d a _ => [d, a]
  | .lup d _ => [d]
  | .pcadd d _ => [d]
  | .beq a b _ => [a, b]
  | .bne a b _ => [a, b]
  | .blt a b _ => [a, b]
  | .bge a b _ => [a, b]
  | .bltn a b _ => [a, b]
  | .bgen a b _ => [a, b]
  | .call _ => [1]
  | .jx a => [a]
  | .callx d a => [d, a]
  | .ret a => [a]
  | .ldb d a _ => [d, a]
  | .ldbz d a _ => [d, a]
  | .ldh d a _ => [d, a]
  | .ldhz d a _ => [d, a]
  | .ldw d a _ => [d, a]
  | .ldwz d a _ => [d, a]
  | .ldd d a _ => [d, a]
  | .stb v a _ => [v, a]
  | .sth v a _ => [v, a]
  | .stw v a _ => [v, a]
  | .std v a _ => [v, a]
  | .amoadd_w d a b _ _ => [d, a, b]
  | .amoand_w d a b _ _ => [d, a, b]
  | .amoor_w d a b _ _ => [d, a, b]
  | .amoxor_w d a b _ _ => [d, a, b]
  | .amomin_w d a b _ _ => [d, a, b]
  | .amomax_w d a b _ _ => [d, a, b]
  | .amominn_w d a b _ _ => [d, a, b]
  | .amomaxn_w d a b _ _ => [d, a, b]
  | .amoswp_w d a b _ _ => [d, a, b]
  | .amoadd_d d a b _ _ => [d, a, b]
  | .amoand_d d a b _ _ => [d, a, b]
  | .amoor_d d a b _ _ => [d, a, b]
  | .amoxor_d d a b _ _ => [d, a, b]
  | .amomin_d d a b _ _ => [d, a, b]
  | .amomax_d d a b _ _ => [d, a, b]
  | .amominn_d d a b _ _ => [d, a, b]
  | .amomaxn_d d a b _ _ => [d, a, b]
  | .amoswp_d d a b _ _ => [d, a, b]
  | .amocas_w d a b _ _ => [d, a, b]
  | .amocas_d d a b _ _ => [d, a, b]
  | .ldres_w d a _ _ => [d, a]
  | .ldres_d d a _ _ => [d, a]
  | .stcond_w d a b _ _ => [d, a, b]
  | .stcond_d d a b _ _ => [d, a, b]
  | .fcmpeq d _ _ _ => [d]
  | .fcmplt d _ _ _ => [d]
  | .fcmple d _ _ _ => [d]
  | .fclass d _ _ => [d]
  | .fcvt d a dst src _ => (if dst.isInt then [d] else []) ++ (if src.isInt then [a] else [])
  | .fmvx d _ => [d]
  | .fmvf _ a => [a]
  | .csrrd d _ => [d]
  | .csrwr d a _ => [d, a]
  | .csrset d a _ => [d, a]
  | .csrclr d a _ => [d, a]
  | .cinv a b => [a, b]
  | .cwb a b => [a, b]
  | .cflush a b => [a, b]
  | .vquery d a b => [d, a, b]
  | .vdrop d a => [d, a]
  | .tdget d a b => [d, a, b]
  | .rslot _ a b => [a, b]
  | .rslott _ a => [a]
  | .barInit a b _ => [a, b]
  | .barArrive a _ => [a]
  | .barWait a _ => [a]
  | .launch d a b => [d, a, b]
  | .join d a => [d, a]
  | .farm d a => [d, a]
  | .fclaim d a => [d, a]
  | .wmpub a b => [a, b]
  | .wmwait a b => [a, b]
  | .hintPref _ a _ => [a]
  | .setvl o => [o.xd, o.req]
  | .vadd o => src2X o.fmt o.src2
  | .vsub o => src2X o.fmt o.src2
  | .vmul o => src2X o.fmt o.src2
  | .vmulh o => src2X o.fmt o.src2
  | .vdiv o => src2X o.fmt o.src2
  | .vrem o => src2X o.fmt o.src2
  | .vmin o => src2X o.fmt o.src2
  | .vmax o => src2X o.fmt o.src2
  | .vand o => src2X o.fmt o.src2
  | .vor o => src2X o.fmt o.src2
  | .vxor o => src2X o.fmt o.src2
  | .vsll o => src2X o.fmt o.src2
  | .vsrl o => src2X o.fmt o.src2
  | .vsra o => src2X o.fmt o.src2
  | .vcmp o => src2X o.fmt o.src2
  | .vmerge o => src2X o.fmt o.src2
  | .vmvx o => [o.xd, o.xs]
  | .vfadd o => src2X o.fmt o.src2
  | .vfsub o => src2X o.fmt o.src2
  | .vfmul o => src2X o.fmt o.src2
  | .vfdiv o => src2X o.fmt o.src2
  | .vfmin o => src2X o.fmt o.src2
  | .vfmax o => src2X o.fmt o.src2
  | .vfcmp o => src2X o.fmt o.src2
  | .vld o => [o.base]
  | .vlds o => [o.base, o.ix]
  | .vldx o => [o.base]
  | .vst o => [o.base]
  | .vsts o => [o.base, o.ix]
  | .vstx o => [o.base]
  | .kpopc xd _ _ => [xd]
  | .kfirst xd _ _ => [xd]
  | .kset _ xs _ => [xs]
  | .vslideup o => [o.xs]
  | .vslidedn o => [o.xs]
  | .vredq o => [o.xs]
  | .msetvl o => [o.xd, o.req]
  | .mld o => [o.base, o.pitch]
  | .mst o => [o.base, o.pitch]
  | .mrow o => [o.xs]
  | .mcol o => [o.xs]
  | .cpy o => [o.xd, o.dst, o.src, o.len]
  | .cpyt o => [o.xd, o.dst, o.src, o.handle]
  | .cpyr xd a _ _ => [xd, a]
  | .cbinit a _ _ => [a]
  | .cbwait xd _ _ => [xd]
  | .sopen a _ _ => [a]
  | .mbxpop xd a _ => [xd, a]
  | .msgsend xd a b _ => [xd, a, b]
  | .rxopen xd a _ _ => [xd, a]
  | .rxpop xd a _ _ => [xd, a]
  | .coll o => [o.xd, o.dst, o.src, o.count]
  | .collwait xd a _ => [xd, a]
  | .vdef xd a _ => [xd, a]
  | .vresize xd a b _ => [xd, a, b]
  | .tdset xd a b _ => [xd, a, b]
  | .tlbinv a b c _ _ => [a, b, c]
  | .j .. | .land | .fadd .. | .fsub .. | .fmul .. | .fdiv .. | .fsqrt ..
  | .fmin .. | .fmax .. | .fsgn .. | .fneg .. | .fabs .. | .fma .. | .fms ..
  | .fnma .. | .ecall | .ebreak | .eret | .ifence | .fence .. | .xfence
  | .rfence .. | .exit | .yield | .nullHint .. | .hintClass .. | .hintLive .. | .hintFuse ..
  | .hintPause .. | .hintPlace .. | .vabs .. | .vneg .. | .vmv .. | .vid .. | .vfsqrt ..
  | .vfma .. | .vfms .. | .vfnma .. | .vfabs .. | .vfneg .. | .vfcvt .. | .vld_st ..
  | .kand .. | .kor .. | .kxor .. | .knot .. | .vperm .. | .vcompress .. | .vexpand ..
  | .vredsum .. | .vredosum .. | .vredmax .. | .vredmin .. | .vredand .. | .vredor .. | .vexp2 ..
  | .vrcp .. | .vlog2 .. | .vrsqrt .. | .vsinpi .. | .vcospi .. | .mexit .. | .mopa ..
  | .mopa4 .. | .mopas .. | .mzero .. | .sclose .. | .waitmsg .. | .illegalWord .. | .runLimit ..
  | .vqEntryIssue .. | .vectorMemoryResponse .. | .elementProgress .. | .waitResume .. | .barArriveFire .. | .copyTransfer .. | .copyCompletion ..
  | .streamFetch .. | .rxMessageArrival .. | .collOperationStart .. | .collPartialTransfer .. | .collOperationEnd .. | .collPackageUnreachable .. | .pcieAtomicopCompletion ..
  | .pcieCompletionTimeout .. | .vaultWalkStep .. | .regionRequest .. | .leaseExpiry .. | .leaseRecallAck .. | .regionDecay .. | .cxlCacheResponse ..
  | .snpData .. | .snpInv .. | .snpCur .. | .cxlMemRead .. | .cxlMemWrite .. | .heartbeat .. | .agentDeath ..
  | .agentReadmit .. | .linkStop .. | .linkGo .. | .linkSectorReceive .. | .linkDictChecksum .. | .qctlWrite .. | .tailWrite ..
  | .nop .. | .hqLaunch .. | .entryWrite .. | .tdWrite .. | .badCommand .. | .registerWrite .. | .doorbell ..
  | .interrupt .. | .netLaunchPacket .. | .quantumEnd .. | .waitSlotTimeout .. | .priorityAging .. | .hartWake .. | .mixWindowEnd ..
  | .retrieverArrival .. | .tlbinvAck .. | .powerInterval .. | .thermalClampOn .. | .thermalClampOff .. | .powerClampOn .. | .powerClampOff ..
  | .coreRetire .. | .debug .. | .pldmSensorRead .. | .pldmFirmwareUpdate .. | .commitSvn .. | .getMeasurements | .packageReset ..
  | .featreqWrite .. | .create .. | .start .. | .swapout .. | .swapin .. | .terminate .. | .destroy ..
  | .badOp .. | .bankpool .. | .groupdef .. | .asidrange .. | .ctxarea .. | .codefail .. | .partreq ..
  | .tdtable .. | .asidctx .. | .pcieReadCompletion .. | .birsp .. | .hintPauseEnd .. | .taskTerminated .. | .mainSideUnpowered => []

/-- The f registers that an instruction reads or writes as a scalar register (R33). -/
def fRegs : Instr → List Reg
  | .fadd d a b _ _ => [d, a, b]
  | .fsub d a b _ _ => [d, a, b]
  | .fmul d a b _ _ => [d, a, b]
  | .fdiv d a b _ _ => [d, a, b]
  | .fsqrt d a _ _ => [d, a]
  | .fmin d a b _ => [d, a, b]
  | .fmax d a b _ => [d, a, b]
  | .fcmpeq _ a b _ => [a, b]
  | .fcmplt _ a b _ => [a, b]
  | .fcmple _ a b _ => [a, b]
  | .fsgn d a b _ => [d, a, b]
  | .fclass _ a _ => [a]
  | .fneg d a _ => [d, a]
  | .fabs d a _ => [d, a]
  | .fma d a b c _ _ => [d, a, b, c]
  | .fms d a b c _ _ => [d, a, b, c]
  | .fnma d a b c _ _ => [d, a, b, c]
  | .fcvt d a dst src _ => (if dst.isInt then [] else [d]) ++ (if src.isInt then [] else [a])
  | .fmvx _ a => [a]
  | .fmvf d _ => [d]
  | .vadd o => src2F o.fmt o.src2
  | .vsub o => src2F o.fmt o.src2
  | .vmul o => src2F o.fmt o.src2
  | .vmulh o => src2F o.fmt o.src2
  | .vdiv o => src2F o.fmt o.src2
  | .vrem o => src2F o.fmt o.src2
  | .vmin o => src2F o.fmt o.src2
  | .vmax o => src2F o.fmt o.src2
  | .vand o => src2F o.fmt o.src2
  | .vor o => src2F o.fmt o.src2
  | .vxor o => src2F o.fmt o.src2
  | .vsll o => src2F o.fmt o.src2
  | .vsrl o => src2F o.fmt o.src2
  | .vsra o => src2F o.fmt o.src2
  | .vcmp o => src2F o.fmt o.src2
  | .vmerge o => src2F o.fmt o.src2
  | .vfadd o => src2F o.fmt o.src2
  | .vfsub o => src2F o.fmt o.src2
  | .vfmul o => src2F o.fmt o.src2
  | .vfdiv o => src2F o.fmt o.src2
  | .vfmin o => src2F o.fmt o.src2
  | .vfmax o => src2F o.fmt o.src2
  | .vfcmp o => src2F o.fmt o.src2
  | .add .. | .sub .. | .and .. | .or .. | .xor .. | .andn .. | .sll ..
  | .srl .. | .sra .. | .rol .. | .ror .. | .slt .. | .sltn .. | .min ..
  | .max .. | .minn .. | .maxn .. | .mul .. | .mulh .. | .mulhn .. | .div ..
  | .divn .. | .rem .. | .remn .. | .sadd1 .. | .sadd2 .. | .sadd3 .. | .bext ..
  | .bins .. | .clz .. | .ctz .. | .popc .. | .sext_b .. | .sext_h .. | .sext_w ..
  | .zext_b .. | .zext_h .. | .zext_w .. | .addi .. | .andi .. | .ori .. | .xori ..
  | .slti .. | .slli .. | .srli .. | .srai .. | .lup .. | .pcadd .. | .beq ..
  | .bne .. | .blt .. | .bge .. | .bltn .. | .bgen .. | .j .. | .call ..
  | .jx .. | .callx .. | .ret .. | .land | .ldb .. | .ldbz .. | .ldh ..
  | .ldhz .. | .ldw .. | .ldwz .. | .ldd .. | .stb .. | .sth .. | .stw ..
  | .std .. | .amoadd_w .. | .amoand_w .. | .amoor_w .. | .amoxor_w .. | .amomin_w .. | .amomax_w ..
  | .amominn_w .. | .amomaxn_w .. | .amoswp_w .. | .amoadd_d .. | .amoand_d .. | .amoor_d .. | .amoxor_d ..
  | .amomin_d .. | .amomax_d .. | .amominn_d .. | .amomaxn_d .. | .amoswp_d .. | .amocas_w .. | .amocas_d ..
  | .ldres_w .. | .ldres_d .. | .stcond_w .. | .stcond_d .. | .csrrd .. | .csrwr .. | .csrset ..
  | .csrclr .. | .ecall | .ebreak | .eret | .ifence | .cinv .. | .cwb ..
  | .cflush .. | .vquery .. | .vdrop .. | .tdget .. | .fence .. | .xfence | .rfence ..
  | .rslot .. | .rslott .. | .barInit .. | .barArrive .. | .barWait .. | .launch .. | .join ..
  | .exit | .yield | .farm .. | .fclaim .. | .wmpub .. | .wmwait .. | .nullHint ..
  | .hintClass .. | .hintPref .. | .hintLive .. | .hintFuse .. | .hintPause .. | .hintPlace .. | .setvl ..
  | .vabs .. | .vneg .. | .vmv .. | .vmvx .. | .vid .. | .vfsqrt .. | .vfma ..
  | .vfms .. | .vfnma .. | .vfabs .. | .vfneg .. | .vfcvt .. | .vld .. | .vlds ..
  | .vldx .. | .vld_st .. | .vst .. | .vsts .. | .vstx .. | .kand .. | .kor ..
  | .kxor .. | .knot .. | .kpopc .. | .kfirst .. | .kset .. | .vslideup .. | .vslidedn ..
  | .vperm .. | .vcompress .. | .vexpand .. | .vredsum .. | .vredosum .. | .vredmax .. | .vredq ..
  | .vredmin .. | .vredand .. | .vredor .. | .vexp2 .. | .vrcp .. | .vlog2 .. | .vrsqrt ..
  | .vsinpi .. | .vcospi .. | .msetvl .. | .mexit .. | .mopa .. | .mopa4 .. | .mopas ..
  | .mzero .. | .mld .. | .mst .. | .mrow .. | .mcol .. | .cpy .. | .cpyt ..
  | .cpyr .. | .cbinit .. | .cbwait .. | .sopen .. | .sclose .. | .mbxpop .. | .waitmsg ..
  | .msgsend .. | .rxopen .. | .rxpop .. | .coll .. | .collwait .. | .vdef .. | .vresize ..
  | .tdset .. | .tlbinv .. | .illegalWord .. | .runLimit .. | .vqEntryIssue .. | .vectorMemoryResponse .. | .elementProgress ..
  | .waitResume .. | .barArriveFire .. | .copyTransfer .. | .copyCompletion .. | .streamFetch .. | .rxMessageArrival .. | .collOperationStart ..
  | .collPartialTransfer .. | .collOperationEnd .. | .collPackageUnreachable .. | .pcieAtomicopCompletion .. | .pcieCompletionTimeout .. | .vaultWalkStep .. | .regionRequest ..
  | .leaseExpiry .. | .leaseRecallAck .. | .regionDecay .. | .cxlCacheResponse .. | .snpData .. | .snpInv .. | .snpCur ..
  | .cxlMemRead .. | .cxlMemWrite .. | .heartbeat .. | .agentDeath .. | .agentReadmit .. | .linkStop .. | .linkGo ..
  | .linkSectorReceive .. | .linkDictChecksum .. | .qctlWrite .. | .tailWrite .. | .nop .. | .hqLaunch .. | .entryWrite ..
  | .tdWrite .. | .badCommand .. | .registerWrite .. | .doorbell .. | .interrupt .. | .netLaunchPacket .. | .quantumEnd ..
  | .waitSlotTimeout .. | .priorityAging .. | .hartWake .. | .mixWindowEnd .. | .retrieverArrival .. | .tlbinvAck .. | .powerInterval ..
  | .thermalClampOn .. | .thermalClampOff .. | .powerClampOn .. | .powerClampOff .. | .coreRetire .. | .debug .. | .pldmSensorRead ..
  | .pldmFirmwareUpdate .. | .commitSvn .. | .getMeasurements | .packageReset .. | .featreqWrite .. | .create .. | .start ..
  | .swapout .. | .swapin .. | .terminate .. | .destroy .. | .badOp .. | .bankpool .. | .groupdef ..
  | .asidrange .. | .ctxarea .. | .codefail .. | .partreq .. | .tdtable .. | .asidctx .. | .pcieReadCompletion ..
  | .birsp .. | .hintPauseEnd .. | .taskTerminated .. | .mainSideUnpowered => []

/-- The x destination of a queued instruction, marked pending until its result returns (R33). -/
def queuedDest : Instr → Option Reg
  | .vmvx o => some o.xd
  | .kpopc xd _ _ => some xd
  | .kfirst xd _ _ => some xd
  | .cpy o => some o.xd
  | .cpyt o => some o.xd
  | .cpyr xd _ _ _ => some xd
  | .cbwait xd _ _ => some xd
  | .mbxpop xd _ _ => some xd
  | .msgsend xd _ _ _ => some xd
  | .rxopen xd _ _ _ => some xd
  | .rxpop xd _ _ _ => some xd
  | .coll o => some o.xd
  | .collwait xd _ _ => some xd
  | .add .. | .sub .. | .and .. | .or .. | .xor .. | .andn .. | .sll ..
  | .srl .. | .sra .. | .rol .. | .ror .. | .slt .. | .sltn .. | .min ..
  | .max .. | .minn .. | .maxn .. | .mul .. | .mulh .. | .mulhn .. | .div ..
  | .divn .. | .rem .. | .remn .. | .sadd1 .. | .sadd2 .. | .sadd3 .. | .bext ..
  | .bins .. | .clz .. | .ctz .. | .popc .. | .sext_b .. | .sext_h .. | .sext_w ..
  | .zext_b .. | .zext_h .. | .zext_w .. | .addi .. | .andi .. | .ori .. | .xori ..
  | .slti .. | .slli .. | .srli .. | .srai .. | .lup .. | .pcadd .. | .beq ..
  | .bne .. | .blt .. | .bge .. | .bltn .. | .bgen .. | .j .. | .call ..
  | .jx .. | .callx .. | .ret .. | .land | .ldb .. | .ldbz .. | .ldh ..
  | .ldhz .. | .ldw .. | .ldwz .. | .ldd .. | .stb .. | .sth .. | .stw ..
  | .std .. | .amoadd_w .. | .amoand_w .. | .amoor_w .. | .amoxor_w .. | .amomin_w .. | .amomax_w ..
  | .amominn_w .. | .amomaxn_w .. | .amoswp_w .. | .amoadd_d .. | .amoand_d .. | .amoor_d .. | .amoxor_d ..
  | .amomin_d .. | .amomax_d .. | .amominn_d .. | .amomaxn_d .. | .amoswp_d .. | .amocas_w .. | .amocas_d ..
  | .ldres_w .. | .ldres_d .. | .stcond_w .. | .stcond_d .. | .fadd .. | .fsub .. | .fmul ..
  | .fdiv .. | .fsqrt .. | .fmin .. | .fmax .. | .fcmpeq .. | .fcmplt .. | .fcmple ..
  | .fsgn .. | .fclass .. | .fneg .. | .fabs .. | .fma .. | .fms .. | .fnma ..
  | .fcvt .. | .fmvx .. | .fmvf .. | .csrrd .. | .csrwr .. | .csrset .. | .csrclr ..
  | .ecall | .ebreak | .eret | .ifence | .cinv .. | .cwb .. | .cflush ..
  | .vquery .. | .vdrop .. | .tdget .. | .fence .. | .xfence | .rfence .. | .rslot ..
  | .rslott .. | .barInit .. | .barArrive .. | .barWait .. | .launch .. | .join .. | .exit
  | .yield | .farm .. | .fclaim .. | .wmpub .. | .wmwait .. | .nullHint .. | .hintClass ..
  | .hintPref .. | .hintLive .. | .hintFuse .. | .hintPause .. | .hintPlace .. | .setvl .. | .vadd ..
  | .vsub .. | .vmul .. | .vmulh .. | .vdiv .. | .vrem .. | .vmin .. | .vmax ..
  | .vand .. | .vor .. | .vxor .. | .vsll .. | .vsrl .. | .vsra .. | .vabs ..
  | .vneg .. | .vcmp .. | .vmerge .. | .vmv .. | .vid .. | .vfadd .. | .vfsub ..
  | .vfmul .. | .vfdiv .. | .vfsqrt .. | .vfma .. | .vfms .. | .vfnma .. | .vfmin ..
  | .vfmax .. | .vfabs .. | .vfneg .. | .vfcmp .. | .vfcvt .. | .vld .. | .vlds ..
  | .vldx .. | .vld_st .. | .vst .. | .vsts .. | .vstx .. | .kand .. | .kor ..
  | .kxor .. | .knot .. | .kset .. | .vslideup .. | .vslidedn .. | .vperm .. | .vcompress ..
  | .vexpand .. | .vredsum .. | .vredosum .. | .vredmax .. | .vredq .. | .vredmin .. | .vredand ..
  | .vredor .. | .vexp2 .. | .vrcp .. | .vlog2 .. | .vrsqrt .. | .vsinpi .. | .vcospi ..
  | .msetvl .. | .mexit .. | .mopa .. | .mopa4 .. | .mopas .. | .mzero .. | .mld ..
  | .mst .. | .mrow .. | .mcol .. | .cbinit .. | .sopen .. | .sclose .. | .waitmsg ..
  | .vdef .. | .vresize .. | .tdset .. | .tlbinv .. | .illegalWord .. | .runLimit .. | .vqEntryIssue ..
  | .vectorMemoryResponse .. | .elementProgress .. | .waitResume .. | .barArriveFire .. | .copyTransfer .. | .copyCompletion .. | .streamFetch ..
  | .rxMessageArrival .. | .collOperationStart .. | .collPartialTransfer .. | .collOperationEnd .. | .collPackageUnreachable .. | .pcieAtomicopCompletion .. | .pcieCompletionTimeout ..
  | .vaultWalkStep .. | .regionRequest .. | .leaseExpiry .. | .leaseRecallAck .. | .regionDecay .. | .cxlCacheResponse .. | .snpData ..
  | .snpInv .. | .snpCur .. | .cxlMemRead .. | .cxlMemWrite .. | .heartbeat .. | .agentDeath .. | .agentReadmit ..
  | .linkStop .. | .linkGo .. | .linkSectorReceive .. | .linkDictChecksum .. | .qctlWrite .. | .tailWrite .. | .nop ..
  | .hqLaunch .. | .entryWrite .. | .tdWrite .. | .badCommand .. | .registerWrite .. | .doorbell .. | .interrupt ..
  | .netLaunchPacket .. | .quantumEnd .. | .waitSlotTimeout .. | .priorityAging .. | .hartWake .. | .mixWindowEnd .. | .retrieverArrival ..
  | .tlbinvAck .. | .powerInterval .. | .thermalClampOn .. | .thermalClampOff .. | .powerClampOn .. | .powerClampOff .. | .coreRetire ..
  | .debug .. | .pldmSensorRead .. | .pldmFirmwareUpdate .. | .commitSvn .. | .getMeasurements | .packageReset .. | .featreqWrite ..
  | .create .. | .start .. | .swapout .. | .swapin .. | .terminate .. | .destroy .. | .badOp ..
  | .bankpool .. | .groupdef .. | .asidrange .. | .ctxarea .. | .codefail .. | .partreq .. | .tdtable ..
  | .asidctx .. | .pcieReadCompletion .. | .birsp .. | .hintPauseEnd .. | .taskTerminated .. | .mainSideUnpowered => none

/-- The instruction enters the vector queue: majors 0x38–0x3D but setvl, msetvl and mexit, and bar.arrive (R37). -/
def entersQueue : Instr → Bool
  | .vld .. | .vlds .. | .vldx .. | .vst .. | .vsts .. | .vstx .. | .vld_st ..
  | .vmv .. | .vmvx .. | .vmerge .. | .vfcvt .. | .vadd .. | .vsub .. | .vmul ..
  | .vfadd .. | .vfsub .. | .vfmul .. | .vfma .. | .vfmin .. | .vfmax .. | .vcmp ..
  | .vfcmp .. | .kand .. | .kor .. | .kxor .. | .knot .. | .kpopc .. | .kfirst ..
  | .kset .. | .vrcp .. | .vredsum .. | .vredosum .. | .vredmax .. | .vredq .. | .vmulh ..
  | .vdiv .. | .vrem .. | .vmin .. | .vmax .. | .vand .. | .vor .. | .vxor ..
  | .vsll .. | .vsrl .. | .vsra .. | .vabs .. | .vneg .. | .vfdiv .. | .vfsqrt ..
  | .vfms .. | .vfnma .. | .vfabs .. | .vfneg .. | .vid .. | .vslideup .. | .vslidedn ..
  | .vperm .. | .vcompress .. | .vexpand .. | .vredmin .. | .vredand .. | .vredor .. | .vlog2 ..
  | .vrsqrt .. | .vsinpi .. | .vcospi .. | .vexp2 .. | .mopa .. | .mopa4 .. | .mopas ..
  | .mzero .. | .mld .. | .mst .. | .mrow .. | .mcol .. | .cpy .. | .cpyt ..
  | .cpyr .. | .cbinit .. | .cbwait .. | .sopen .. | .sclose .. | .mbxpop .. | .waitmsg ..
  | .msgsend .. | .rxopen .. | .rxpop .. | .coll .. | .collwait .. | .barArrive .. => true
  | .add .. | .sub .. | .and .. | .or .. | .xor .. | .andn .. | .sll ..
  | .srl .. | .sra .. | .rol .. | .ror .. | .slt .. | .sltn .. | .min ..
  | .max .. | .minn .. | .maxn .. | .mul .. | .mulh .. | .mulhn .. | .div ..
  | .divn .. | .rem .. | .remn .. | .sadd1 .. | .sadd2 .. | .sadd3 .. | .bext ..
  | .bins .. | .clz .. | .ctz .. | .popc .. | .sext_b .. | .sext_h .. | .sext_w ..
  | .zext_b .. | .zext_h .. | .zext_w .. | .addi .. | .andi .. | .ori .. | .xori ..
  | .slti .. | .slli .. | .srli .. | .srai .. | .lup .. | .pcadd .. | .beq ..
  | .bne .. | .blt .. | .bge .. | .bltn .. | .bgen .. | .j .. | .call ..
  | .jx .. | .callx .. | .ret .. | .land | .ldb .. | .ldbz .. | .ldh ..
  | .ldhz .. | .ldw .. | .ldwz .. | .ldd .. | .stb .. | .sth .. | .stw ..
  | .std .. | .amoadd_w .. | .amoand_w .. | .amoor_w .. | .amoxor_w .. | .amomin_w .. | .amomax_w ..
  | .amominn_w .. | .amomaxn_w .. | .amoswp_w .. | .amoadd_d .. | .amoand_d .. | .amoor_d .. | .amoxor_d ..
  | .amomin_d .. | .amomax_d .. | .amominn_d .. | .amomaxn_d .. | .amoswp_d .. | .amocas_w .. | .amocas_d ..
  | .ldres_w .. | .ldres_d .. | .stcond_w .. | .stcond_d .. | .fadd .. | .fsub .. | .fmul ..
  | .fdiv .. | .fsqrt .. | .fmin .. | .fmax .. | .fcmpeq .. | .fcmplt .. | .fcmple ..
  | .fsgn .. | .fclass .. | .fneg .. | .fabs .. | .fma .. | .fms .. | .fnma ..
  | .fcvt .. | .fmvx .. | .fmvf .. | .csrrd .. | .csrwr .. | .csrset .. | .csrclr ..
  | .ecall | .ebreak | .eret | .ifence | .cinv .. | .cwb .. | .cflush ..
  | .vquery .. | .vdrop .. | .tdget .. | .fence .. | .xfence | .rfence .. | .rslot ..
  | .rslott .. | .barInit .. | .barWait .. | .launch .. | .join .. | .exit | .yield
  | .farm .. | .fclaim .. | .wmpub .. | .wmwait .. | .nullHint .. | .hintClass .. | .hintPref ..
  | .hintLive .. | .hintFuse .. | .hintPause .. | .hintPlace .. | .setvl .. | .msetvl .. | .mexit ..
  | .vdef .. | .vresize .. | .tdset .. | .tlbinv .. | .illegalWord .. | .runLimit .. | .vqEntryIssue ..
  | .vectorMemoryResponse .. | .elementProgress .. | .waitResume .. | .barArriveFire .. | .copyTransfer .. | .copyCompletion .. | .streamFetch ..
  | .rxMessageArrival .. | .collOperationStart .. | .collPartialTransfer .. | .collOperationEnd .. | .collPackageUnreachable .. | .pcieAtomicopCompletion .. | .pcieCompletionTimeout ..
  | .vaultWalkStep .. | .regionRequest .. | .leaseExpiry .. | .leaseRecallAck .. | .regionDecay .. | .cxlCacheResponse .. | .snpData ..
  | .snpInv .. | .snpCur .. | .cxlMemRead .. | .cxlMemWrite .. | .heartbeat .. | .agentDeath .. | .agentReadmit ..
  | .linkStop .. | .linkGo .. | .linkSectorReceive .. | .linkDictChecksum .. | .qctlWrite .. | .tailWrite .. | .nop ..
  | .hqLaunch .. | .entryWrite .. | .tdWrite .. | .badCommand .. | .registerWrite .. | .doorbell .. | .interrupt ..
  | .netLaunchPacket .. | .quantumEnd .. | .waitSlotTimeout .. | .priorityAging .. | .hartWake .. | .mixWindowEnd .. | .retrieverArrival ..
  | .tlbinvAck .. | .powerInterval .. | .thermalClampOn .. | .thermalClampOff .. | .powerClampOn .. | .powerClampOff .. | .coreRetire ..
  | .debug .. | .pldmSensorRead .. | .pldmFirmwareUpdate .. | .commitSvn .. | .getMeasurements | .packageReset .. | .featreqWrite ..
  | .create .. | .start .. | .swapout .. | .swapin .. | .terminate .. | .destroy .. | .badOp ..
  | .bankpool .. | .groupdef .. | .asidrange .. | .ctxarea .. | .codefail .. | .partreq .. | .tdtable ..
  | .asidctx .. | .pcieReadCompletion .. | .birsp .. | .hintPauseEnd .. | .taskTerminated .. | .mainSideUnpowered => false

/-- Entries of majors 0x38 to 0x3C, which touch vector, mask or tile registers (R454). -/
def touchesVector : Instr → Bool
  | .vld .. | .vlds .. | .vldx .. | .vst .. | .vsts .. | .vstx .. | .vld_st ..
  | .vmv .. | .vmvx .. | .vmerge .. | .vfcvt .. | .vadd .. | .vsub .. | .vmul ..
  | .vfadd .. | .vfsub .. | .vfmul .. | .vfma .. | .vfmin .. | .vfmax .. | .vcmp ..
  | .vfcmp .. | .kand .. | .kor .. | .kxor .. | .knot .. | .kpopc .. | .kfirst ..
  | .kset .. | .vrcp .. | .vredsum .. | .vredosum .. | .vredmax .. | .vredq .. | .vmulh ..
  | .vdiv .. | .vrem .. | .vmin .. | .vmax .. | .vand .. | .vor .. | .vxor ..
  | .vsll .. | .vsrl .. | .vsra .. | .vabs .. | .vneg .. | .vfdiv .. | .vfsqrt ..
  | .vfms .. | .vfnma .. | .vfabs .. | .vfneg .. | .vid .. | .vslideup .. | .vslidedn ..
  | .vperm .. | .vcompress .. | .vexpand .. | .vredmin .. | .vredand .. | .vredor .. | .vlog2 ..
  | .vrsqrt .. | .vsinpi .. | .vcospi .. | .vexp2 .. | .mopa .. | .mopa4 .. | .mopas ..
  | .mzero .. | .mld .. | .mst .. | .mrow .. | .mcol .. => true
  | .add .. | .sub .. | .and .. | .or .. | .xor .. | .andn .. | .sll ..
  | .srl .. | .sra .. | .rol .. | .ror .. | .slt .. | .sltn .. | .min ..
  | .max .. | .minn .. | .maxn .. | .mul .. | .mulh .. | .mulhn .. | .div ..
  | .divn .. | .rem .. | .remn .. | .sadd1 .. | .sadd2 .. | .sadd3 .. | .bext ..
  | .bins .. | .clz .. | .ctz .. | .popc .. | .sext_b .. | .sext_h .. | .sext_w ..
  | .zext_b .. | .zext_h .. | .zext_w .. | .addi .. | .andi .. | .ori .. | .xori ..
  | .slti .. | .slli .. | .srli .. | .srai .. | .lup .. | .pcadd .. | .beq ..
  | .bne .. | .blt .. | .bge .. | .bltn .. | .bgen .. | .j .. | .call ..
  | .jx .. | .callx .. | .ret .. | .land | .ldb .. | .ldbz .. | .ldh ..
  | .ldhz .. | .ldw .. | .ldwz .. | .ldd .. | .stb .. | .sth .. | .stw ..
  | .std .. | .amoadd_w .. | .amoand_w .. | .amoor_w .. | .amoxor_w .. | .amomin_w .. | .amomax_w ..
  | .amominn_w .. | .amomaxn_w .. | .amoswp_w .. | .amoadd_d .. | .amoand_d .. | .amoor_d .. | .amoxor_d ..
  | .amomin_d .. | .amomax_d .. | .amominn_d .. | .amomaxn_d .. | .amoswp_d .. | .amocas_w .. | .amocas_d ..
  | .ldres_w .. | .ldres_d .. | .stcond_w .. | .stcond_d .. | .fadd .. | .fsub .. | .fmul ..
  | .fdiv .. | .fsqrt .. | .fmin .. | .fmax .. | .fcmpeq .. | .fcmplt .. | .fcmple ..
  | .fsgn .. | .fclass .. | .fneg .. | .fabs .. | .fma .. | .fms .. | .fnma ..
  | .fcvt .. | .fmvx .. | .fmvf .. | .csrrd .. | .csrwr .. | .csrset .. | .csrclr ..
  | .ecall | .ebreak | .eret | .ifence | .cinv .. | .cwb .. | .cflush ..
  | .vquery .. | .vdrop .. | .tdget .. | .fence .. | .xfence | .rfence .. | .rslot ..
  | .rslott .. | .barInit .. | .barArrive .. | .barWait .. | .launch .. | .join .. | .exit
  | .yield | .farm .. | .fclaim .. | .wmpub .. | .wmwait .. | .nullHint .. | .hintClass ..
  | .hintPref .. | .hintLive .. | .hintFuse .. | .hintPause .. | .hintPlace .. | .setvl .. | .msetvl ..
  | .mexit .. | .cpy .. | .cpyt .. | .cpyr .. | .cbinit .. | .cbwait .. | .sopen ..
  | .sclose .. | .mbxpop .. | .waitmsg .. | .msgsend .. | .rxopen .. | .rxpop .. | .coll ..
  | .collwait .. | .vdef .. | .vresize .. | .tdset .. | .tlbinv .. | .illegalWord .. | .runLimit ..
  | .vqEntryIssue .. | .vectorMemoryResponse .. | .elementProgress .. | .waitResume .. | .barArriveFire .. | .copyTransfer .. | .copyCompletion ..
  | .streamFetch .. | .rxMessageArrival .. | .collOperationStart .. | .collPartialTransfer .. | .collOperationEnd .. | .collPackageUnreachable .. | .pcieAtomicopCompletion ..
  | .pcieCompletionTimeout .. | .vaultWalkStep .. | .regionRequest .. | .leaseExpiry .. | .leaseRecallAck .. | .regionDecay .. | .cxlCacheResponse ..
  | .snpData .. | .snpInv .. | .snpCur .. | .cxlMemRead .. | .cxlMemWrite .. | .heartbeat .. | .agentDeath ..
  | .agentReadmit .. | .linkStop .. | .linkGo .. | .linkSectorReceive .. | .linkDictChecksum .. | .qctlWrite .. | .tailWrite ..
  | .nop .. | .hqLaunch .. | .entryWrite .. | .tdWrite .. | .badCommand .. | .registerWrite .. | .doorbell ..
  | .interrupt .. | .netLaunchPacket .. | .quantumEnd .. | .waitSlotTimeout .. | .priorityAging .. | .hartWake .. | .mixWindowEnd ..
  | .retrieverArrival .. | .tlbinvAck .. | .powerInterval .. | .thermalClampOn .. | .thermalClampOff .. | .powerClampOn .. | .powerClampOff ..
  | .coreRetire .. | .debug .. | .pldmSensorRead .. | .pldmFirmwareUpdate .. | .commitSvn .. | .getMeasurements | .packageReset ..
  | .featreqWrite .. | .create .. | .start .. | .swapout .. | .swapin .. | .terminate .. | .destroy ..
  | .badOp .. | .bankpool .. | .groupdef .. | .asidrange .. | .ctxarea .. | .codefail .. | .partreq ..
  | .tdtable .. | .asidctx .. | .pcieReadCompletion .. | .birsp .. | .hintPauseEnd .. | .taskTerminated .. | .mainSideUnpowered => false

end Sys2Proof.Machine
end

