-- ==== Sys2Proof/Machine/Harts.lean ====
section
/-! DEFINITION. Reading and changing harts, partitions, slots and registers, each through one accessor. -/

namespace Sys2Proof.Machine

/-! ### Harts -/

/-- The live hart with a key. -/
def State.hart? (s : State) (k : HartKey) : Option Hart := s.harts.find? fun h => h.key == k

/-- The state with one hart changed. -/
def State.modHart (s : State) (k : HartKey) (f : Hart → Hart) : State :=
  { s with harts := s.harts.map fun g => if g.key == k then f g else g }

/-- The state with a hart's record replaced. -/
def State.putHart (s : State) (h : Hart) : State := s.modHart h.key fun _ => h

/-- The hart whose turn it is. -/
def State.curHart? (s : State) : Option Hart := s.cur.bind s.hart?

/-- The core that a hart occupies, or last occupied. -/
def Hart.core (h : Hart) : Nat :=
  match h.sched.slot with
  | some i => i.core
  | none => h.sched.lastCore

/-- Class of the core that a hart occupies. -/
def Hart.cls (h : Hart) : Cls := clsOf h.core

/-- Level code (R21). -/
def Level.code : Level → BitVec 2
  | .t => 0 | .s => 1 | .m => 2

/-- The level with a code; 3 is reserved. -/
def Level.ofCode (c : BitVec 2) : Level := if c = 0 then .t else if c = 1 then .s else .m

/-- x[r]; x0 reads zero (R15). -/
def Hart.getX (h : Hart) (r : Reg) : Word := if r = 0 then 0 else h.x[r]

/-- Writes x[r]; a write to x0 is discarded (R15). -/
def Hart.setX (h : Hart) (r : Reg) (v : Word) : Hart := if r = 0 then h else { h with x := h.x.set r v }

/-- f[r]. -/
def Hart.getF (h : Hart) (r : Reg) : Word := h.f[r]

/-- Writes f[r]. -/
def Hart.setF (h : Hart) (r : Reg) (v : Word) : Hart := { h with f := h.f.set r v }

/-- Bit `n` of a mask of registers. -/
def maskBit (m : Half) (r : Reg) : Bool := m.getLsbD r.val

/-- The mask with one bit set or cleared. -/
def setMaskBit (m : Half) (r : Reg) (b : Bool) : Half :=
  if b then m ||| BitVec.twoPow 32 r.val else m &&& ~~~ BitVec.twoPow 32 r.val

/-- Marks x[r] pending; x0 is never pending (Table 1.10), and a queued instruction whose destination is x0 holds none of the eight places of
the read queue, of which R33 says nothing (log 40). -/
def Hart.setPend (h : Hart) (r : Reg) (b : Bool) : Hart :=
  if r = 0 then h else { h with xpend := setMaskBit h.xpend r b }

/-- estatus (Table 1.7). -/
def Hart.estatus (h : Hart) : Word :=
  zext64 (BitVec.ofBool h.csr.qtrap ++ ((0 : BitVec 1) ++ (h.csr.pp ++ (BitVec.ofBool h.csr.pie ++
    (BitVec.ofBool h.csr.ie ++ h.level.code)))))

/-- An AtomicOp of the hart has been sent, and its outcome is still to be taken: nothing may make its instruction start anew (R164). -/
def Hart.sent (h : Hart) : Bool :=
  match h.req with
  | .atomicOp _ _ _ _ _ _ => true
  | .atomicDone _ _ => true
  | .none => false
  | .read _ _ => false
  | .readDone _ _ => false
  | .flush _ => false
  | .cxl _ _ => false
  | .timedOut _ atomic => atomic
  | .cxlError _ => false

/-- A STEP that is due at T: single step is still on (R458). -/
def Hart.dueStep (h : Hart) : Option Word := if h.level == .t && h.csr.step then h.sched.stepDue else none

/-- The hart's task handle as its partition's pool names it. -/
def Hart.taskWord (h : Hart) : Word := zext64 h.task

/-! ### Partitions -/

/-- A partition; number 16 stands for device firmware's own harts (log 5). -/
def State.part (s : State) (p : Fin 17) : Part := s.parts[p]

/-- The state with one partition changed. -/
def State.modPart (s : State) (p : Fin 17) (f : Part → Part) : State := { s with parts := s.parts.set p (f s.parts[p]) }

/-- A partition's number among those of the host. -/
def partNo (p : Fin 16) : Fin 17 := p.castSucc

/-- A task of a partition. -/
def Part.task? (p : Part) (h : Half) : Option Task := p.tasks.find? fun t => t.handle == h

/-- The partition with one task changed. -/
def Part.modTask (p : Part) (h : Half) (f : Task → Task) : Part :=
  { p with tasks := p.tasks.map fun t => if t.handle == h then f t else t }

/-- A vault by index; a free index has no record. -/
def Part.vault? (p : Part) (i : BitVec 8) : Option Vault := p.vaults.find? fun v => v.index == i

/-- The partition with one vault changed. -/
def Part.modVault (p : Part) (i : BitVec 8) (f : Vault → Vault) : Part :=
  { p with vaults := p.vaults.map fun v => if v.index == i then f v else v }

/-- The partition owns the asid (R438). -/
def Part.ownsAsid (p : Part) (a : BitVec 10) : Bool := p.asid0 ≤ a.toNat && a.toNat < p.asid0 + p.asidN

/-! ### Slots and cores -/

/-- A slot; one without a record is empty. -/
def State.slot (s : State) (i : SlotId) : Slot := (s.slots.find? fun x => x.id == i).getD (Slot.empty i)

/-- The state with a slot's record replaced. -/
def State.putSlot (s : State) (x : Slot) : State :=
  { s with slots := x :: s.slots.filter fun y => y.id != x.id }

/-- The record of a core; one without a record has the largest budgets of its range (R421). -/
def State.core (s : State) (c : Nat) : Core :=
  (s.cores.find? fun x => x.core == c).getD
    { core := c, lanes := (match clsOf c with | .mastiff => 0 | .hound => 2048 | .whippet => 1024),
      matrix := (match clsOf c with | .whippet => 256 | .mastiff => 0 | .hound => 0), fenced := false }

/-- The state with a core's record replaced. -/
def State.putCore (s : State) (c : Core) : State :=
  { s with cores := c :: s.cores.filter fun y => y.core != c.core }

/-- vown names the hart (R453). -/
def Slot.names (x : Slot) (h : Hart) : Bool :=
  x.valid && x.owner == h.key.part && x.hart.toNat == h.key.id && x.asid == h.csr.asid

/-- vown of the hart's slot names it. -/
def State.owns (s : State) (h : Hart) : Bool :=
  match h.sched.slot with
  | some i => (s.slot i).names h
  | none => false

/-- The context that vown of a slot names, if a live hart is it. -/
def State.ownerOf (s : State) (x : Slot) : Option Hart :=
  if x.valid then s.hart? { part := x.owner, id := x.hart.toNat } else none

/-! ### Free values -/

/-- Frequency at which an island runs, in MHz (R497, R499). -/
def Island.freq (i : Island) : Nat := if i.clamped then min 800 i.mhz else i.mhz

/-- Frequency of a core's island. -/
def State.mhzOf (s : State) (core : Nat) : Nat := ((s.islands[islandOf core]?).map Island.freq).getD 3300

/-- The next free value's number; the counter rises with each use (log 9). -/
def State.draw (s : State) : State × Nat := ({ s with fresh := s.fresh + 1 }, s.fresh)

/-- Adds an outward message. -/
def State.emit (s : State) (o : Output) : State := { s with out := s.out ++ [o] }

/-- Outstanding accesses after a change, without those that wait for nothing any more. -/
def Hart.modOutst (h : Hart) (f : Outstanding → Outstanding) : Hart :=
  { h with outst := (h.outst.map f).filter fun o => o.region.isSome || o.port.isSome || o.sector.isSome || o.wrCur.isSome }

end Sys2Proof.Machine
end

