-- ==== Sys2Proof/Machine/Coherence.lean ====
section
/-! DEFINITION. Vault lines, scalar caches, region directories and what a read or a write does to them. Memory itself
always holds the current coherent bytes; this file keeps the record of who holds copies (log 4). -/

namespace Sys2Proof.Machine

/-- A list without its duplicates. -/
def dedup {α : Type} [BEq α] : List α → List α
  | [] => []
  | a :: l => if l.contains a then dedup l else a :: dedup l

/-- First byte of the 64-byte sector of an address. -/
def sectorOf (pa : Nat) : Nat := pa / 64 * 64

/-- Number of the 2 MiB region of an address (R366). -/
def regionOf (pa : Nat) : Nat := pa / 0x200000

/-- The home die of an address: its stacks' die, and Keystone for host memory (R349, R366). -/
def homeDie (pa : Nat) : Nat :=
  match placeOf pa with
  | .hbm d => d
  | .store c _ => dieOf c
  | .homeStore _ => 0
  | .homeWindow _ => 0
  | .host _ => 0
  | .hole => 0

/-- Number of the home slice of a sector within its die (R349). -/
def homeSliceNo (pa : Nat) : Nat := (bitsOf pa 10 6 ^^^ bitsOf pa 15 11) ^^^ bitsOf pa 20 16

/-- Home slice of a sector of HBM or of host memory (R349). -/
def homeSlice (pa : Nat) : Nat := 32 * homeDie pa + homeSliceNo pa

/-- Proxy slice of a die for a sector (R368): every request of the die for the sector passes through it. -/
def proxySlice (die pa : Nat) : Nat := 32 * die + homeSliceNo pa

/-- The slice where the directory entry of a region lies (R373). -/
def entrySlice (r : Nat) : Nat := 32 * homeDie (r * 0x200000) + r % 32

/-- The HBM stack of an address, by the stacks of its die (R366, Table 14.7). -/
def stackOf (pa : Nat) : Option Nat :=
  match placeOf pa with
  | .hbm d =>
    let base := [(1, 0x4000000000, 0, 3), (2, 0x8000000000, 3, 3), (3, 0xC000000000, 6, 2), (4, 0x10000000000, 8, 2), (5, 0x14000000000, 10, 2)]
    (base.find? fun x => x.1 == d).map fun x => x.2.2.1 + (pa - x.2.1) / 1024 % x.2.2.2
  | .store _ _ => none
  | .homeStore _ => none
  | .homeWindow _ => none
  | .host _ => none
  | .hole => none

/-- Bank and row of an offset in a local store (R362). -/
def storeBank (o : Nat) : Nat × Nat := (o / 4 % 96, o / 4 / 96)

/-- Die of an L2 slice (R347). -/
def dieOfSlice (j : Nat) : Nat := j / 32

/-! ### Targets that fail -/

/-- The agent that an address is homed on or reached through (R384). -/
def agentOf (pa : Nat) : Option Agent :=
  match placeOf pa with
  | .hbm d => if h : d < 6 then some (.die ⟨d, h⟩) else none
  | .store c _ => if h : dieOf c < 6 then some (.die ⟨dieOf c, h⟩) else none
  | .host n => some (.port n)
  | .homeStore _ => none
  | .homeWindow _ => none
  | .hole => none

/-- Agent codes of a lost-write record (R385). -/
def agentCode : Agent → Nat
  | .die d => d.val
  | .port n => 0x10 + n.val
  | .link n => 0x20 + n.val

/-- The dead agent that an access would need, with its incarnation (R154, R382). -/
def State.deadAt (s : State) (pa : Nat) : Option (Agent × BitVec 16) :=
  match agentOf pa with
  | some a =>
    match s.agents.lookup a with
    | some st => if st.alive then none else some (a, st.incarnation)
    | none => none
  | none => none

/-! ### Vault lines (R351 to R357) -/

/-- Line size of a vault in bytes. -/
def Vault.lineBytes (v : Vault) : Nat := 64 * 2 ^ v.lineLog

/-- Sets per way (Table 14.2). -/
def Vault.sets (v : Vault) : Nat := 8192 / v.lineBytes

/-- vault_place (R351): the share and the set of an address under a list of shares. -/
def vaultPlace (v : Vault) (shares : List Share) (pa : Nat) : Option (Share × Nat) :=
  let q := pa / 8192
  let h := (q ^^^ (q >>> 12) ^^^ (q >>> 24) ^^^ (q >>> 36)) % 4096
  (shares[h % max shares.length 1]?).map fun sh => (sh, pa / v.lineBytes % v.sets)

/-- The line lies in a share's bank and within its ways. -/
def Line.inShare (l : Line) (sh : Share) (ways : Nat) : Bool :=
  l.slice == sh.slice && l.bank == sh.bank && decide (sh.first ≤ l.way) && decide (l.way < sh.first + ways)

/-- The line belongs to a vault of a partition. -/
def Line.ofVault (l : Line) (p : Fin 17) (i : BitVec 8) : Bool := l.part == p && l.vault == i

/-- The line holds the address. -/
def Line.holds (l : Line) (pa : Nat) : Bool := decide (l.tag ≤ pa) && decide (pa < l.tag + 64 * l.sectors.length)

/-- The state of the sector of an address in the line. -/
def Line.sector (l : Line) (pa : Nat) : Sector := l.sectors.getD ((pa - l.tag) / 64) .invalid

/-- The line with one sector's state replaced. -/
def Line.setSector (l : Line) (pa : Nat) (x : Sector) : Line := { l with sectors := l.sectors.set ((pa - l.tag) / 64) x }

/-- The sector is dirty. -/
def Sector.isDirty : Sector → Bool
  | .dirty _ => true
  | .clean => false
  | .invalid => false

/-- The sector is valid. -/
def Sector.isValid : Sector → Bool
  | .dirty _ => true
  | .clean => true
  | .invalid => false

/-- The state with other vault lines; a line without a valid sector is no line (R352). -/
def State.setLines (s : State) (l : List Line) : State := { s with lines := l.filter fun x => x.sectors.any Sector.isValid }

/-- Applies a change to the sector of an address in every line that a test selects. -/
def State.modSector (s : State) (pa : Nat) (sel : Line → Bool) (f : Sector → Sector) : State :=
  s.setLines (s.lines.map fun l => if l.holds pa && sel l then l.setSector pa (f (l.sector pa)) else l)

/-- State of a host sector for the device (Table 15.5). -/
def State.cxlState (s : State) (pa : Nat) : Cxl := (s.cxl.lookup (sectorOf pa)).getD .i

/-- The state with a host sector's state set. -/
def State.setCxl (s : State) (pa : Nat) (c : Cxl) : State :=
  { s with cxl := (sectorOf pa, c) :: s.cxl.filter fun x => x.1 != sectorOf pa }

/-- Codes of the CXL.cache requests that the part sends (Table 15.6). -/
def rdAny : Nat := 0
/-- RdOwn. -/
def rdOwn : Nat := 1
/-- RdOwnNoData. -/
def rdOwnNoData : Nat := 2
/-- WrCur. -/
def wrCur : Nat := 3
/-- The codes of the CXL.cache evictions. -/
def cleanEvictNoData : Nat := 4
/-- CleanEvict. -/
def cleanEvict : Nat := 5
/-- DirtyEvict. -/
def dirtyEvict : Nat := 6

/-- The state with other L1D contents: a hart whose L1D loses its reserved sector remembers it (R161). -/
def State.setL1d (s : State) (l : List (Nat × Nat)) : State :=
  { s with
    l1d := l
    harts := s.harts.map fun h =>
      match h.resv with
      | some a => if s.l1d.contains (h.core, a) && !l.contains (h.core, a) then { h with resvLost := true } else h
      | none => h }

/-- The copies in L1Ds and L1Is that a test on core and physical sector selects go. -/
def State.dropL1 (s : State) (sel : Nat → Nat → Bool) : State :=
  { s.setL1d (s.l1d.filter fun e => !sel e.1 e.2) with l1i := s.l1i.filter fun e => !sel e.core e.pa }

/-- Some L1D or L1I may hold the sector. -/
def State.inL1 (s : State) (pa : Nat) : Bool := (s.l1d.any fun e => e.2 == sectorOf pa) || s.l1i.any fun e => e.pa == sectorOf pa

/-- A WrCur is sent for a sector; its number is the count of those before it (R379). -/
def State.sendWrCur (s : State) (pa : Nat) : State :=
  { s.emit (.hostRequest (sectorOf pa) wrCur) with wrCurs := s.wrCurs ++ [(sectorOf pa, s.wrCount)], wrCount := s.wrCount + 1 }

/-- A vault line holds the sector of an address in a state that a test selects. -/
def State.lineWith (s : State) (pa : Nat) (t : Sector → Bool) : Bool := s.lines.any fun l => l.holds pa && t (l.sector pa)

/-- No device cache holds the sector any more. -/
def State.dropSector (s : State) (sec : Nat) : State := (s.modSector sec (fun _ => true) fun _ => .invalid).dropL1 fun _ x => x == sec

/-- A host sector whose last line, or whose dirty line, has gone is evicted (Table 15.6): a clean one once no vault, no L1D and no L1I holds it, a
dirty one as soon as no line holds it dirty, with every clean copy elsewhere, since DirtyEvict leaves the device without the sector (R349, R352). -/
def State.hostEvict (s : State) (pa : Nat) : State :=
  match placeOf pa with
  | .host n =>
    if !s.ports[n].cxl || s.lineWith pa Sector.isDirty then s
    else
      let clean := fun code : Nat =>
        if s.lineWith pa Sector.isValid || s.inL1 pa then s else (s.emit (.hostRequest (sectorOf pa) code)).setCxl pa .i
      let dirty := ((s.dropSector (sectorOf pa)).emit (.hostRequest (sectorOf pa) dirtyEvict)).setCxl pa .i
      match s.cxlState pa with
      | .i => s
      | .z => s
      | .s => clean cleanEvictNoData
      | .e => clean cleanEvict
      | .m => dirty
      | .o => dirty
  | .hbm _ => s
  | .store _ _ => s
  | .homeStore _ => s
  | .homeWindow _ => s
  | .hole => s

/-- The lines that a test selects are written back and invalidated (R352). -/
def State.dropLines (s : State) (sel : Line → Bool) : State :=
  let gone := s.lines.filter sel
  let s := { s with lines := s.lines.filter fun l => !sel l }
  gone.foldl (fun s l => (List.range l.sectors.length).foldl (fun s n => s.hostEvict (l.tag + 64 * n)) s) s

/-- The vault line that holds an address, with at least one valid sector. -/
def State.line? (s : State) (p : Fin 17) (i : BitVec 8) (pa : Nat) : Option Line :=
  s.lines.find? fun l => l.ofVault p i && l.holds pa

/-- The line stands where the new placement puts its address (R356). -/
def Vault.placed (v : Vault) (l : Line) : Bool :=
  match vaultPlace v v.shares l.tag with
  | some (sh, set) => l.inShare sh v.ways && l.set == set
  | none => false

/-- Number of a set, for its FIFO pointer. -/
def setKey (sh : Share) (set : Nat) : Nat := ((sh.slice * 16 + sh.bank) * 16 + sh.first) * 128 + set

/-- The used bits of a set after one way has been used (R353). A used bit stands with its line, and goes with it (log 94). -/
def useWay (ways : Nat) (sh : Share) (set way : Nat) (lines : List Line) : List Line :=
  let inSet := fun l : Line => l.inShare sh ways && l.set == set
  let full := (List.range ways).all fun w => w + sh.first == way || lines.any fun l => inSet l && l.way == w + sh.first && l.used
  lines.map fun l => if inSet l then (if l.way == way then { l with used := true } else if full then { l with used := false } else l) else l

/-- The way that a fill takes (R353): the lowest without a line, else by pseudo-LRU or at the FIFO pointer, which stands at 0 until a fill moves it and
outlives the vault that moved it (log 94). -/
def State.victim (s : State) (v : Vault) (sh : Share) (set : Nat) : Nat :=
  let ways := (List.range v.ways).map (· + sh.first)
  let at_ := fun w => s.lines.find? fun l =>
    l.slice == sh.slice && l.bank == sh.bank && l.way == w && l.set == set && l.sectors.any Sector.isValid
  match ways.find? fun w => (at_ w).isNone with
  | some w => w
  | none =>
    if v.fifo then sh.first + ((s.fifo.lookup (setKey sh set)).getD 0) % max v.ways 1
    else (ways.find? fun w => match at_ w with | some l => !l.used | none => true).getD sh.first

/-- Installs a line with its sector states at the place of its tag, evicting the victim (R352, R353). -/
def State.install (s : State) (p : Fin 17) (v : Vault) (pa : Nat) (high : Bool) (states : List Sector) : State :=
  let tag := pa / v.lineBytes * v.lineBytes
  match vaultPlace v v.shares tag with
  | none => s
  | some (sh, set) =>
    let way := s.victim v sh set
    let full := !(List.range v.ways).any fun w => !s.lines.any fun l => l.slice == sh.slice && l.bank == sh.bank && l.way == w + sh.first && l.set == set
    let s := s.dropLines fun l => l.slice == sh.slice && l.bank == sh.bank && l.way == way && l.set == set
    let rest := s.lines
    let line : Line :=
      { part := p, vault := v.index, slice := sh.slice, bank := sh.bank, way := way, set := set, tag := tag,
        sectors := states, used := false }
    let lines := if high && !v.fifo then useWay v.ways sh set way (line :: rest) else line :: rest
    let fifo :=
      if v.fifo && full && high then
        (setKey sh set, (way - sh.first + 1) % max v.ways 1) :: s.fifo.filter fun e => e.1 != setKey sh set
      else s.fifo
    State.setLines { s with fifo := fifo } lines

/-- A hit sets the used bit of its way. -/
def State.hitLine (s : State) (v : Vault) (l : Line) : State :=
  if v.fifo then s
  else
    match v.shares.find? fun sh => l.inShare sh v.ways with
    | some sh => { s with lines := useWay v.ways sh l.set l.way s.lines }
    | none => s

/-- The sectors of a line that a fill can take: of host memory in CXL mode, those that the host has granted (R352, R378). -/
def State.fillable (s : State) (pa : Nat) : Bool :=
  match placeOf pa with
  | .host _ => s.cxlState pa != .i && s.cxlState pa != .z
  | .hbm _ => true
  | .store _ _ => true
  | .homeStore _ => true
  | .homeWindow _ => true
  | .hole => true

/-- A sector becomes valid by a fill, or because the access writes it (`write`): one that is written whole is not read (R352). -/
def State.arrives (s : State) (sec pa : Nat) (write : Bool) : Bool := s.fillable sec || (write && sec == sectorOf pa)

/-- A fill brings every sector of the line that is not valid (R352). -/
def State.fillLine (s : State) (l : Line) (pa : Nat) (write : Bool) : Line :=
  { l with sectors := l.sectors.zipIdx.map fun x => if x.1.isValid then x.1 else if s.arrives (l.tag + 64 * x.2) pa write then .clean else .invalid }

/-- The sector states of a line that is filled as a miss. -/
def State.missStates (s : State) (v : Vault) (pa : Nat) (write : Bool) : List Sector :=
  (List.range (v.lineBytes / 64)).map fun n => if s.arrives (pa / v.lineBytes * v.lineBytes + 64 * n) pa write then .clean else .invalid

/-- Die of the slice that a vault gives an address. -/
def Vault.dieFor (v : Vault) (pa : Nat) : Nat :=
  match vaultPlace v v.shares pa with
  | some (sh, _) => dieOfSlice sh.slice
  | none => 0

/-- The vault places the address in a slice of a live die; on a dead one it keeps no line (R383, R384). -/
def State.sliceAlive (s : State) (v : Vault) (pa : Nat) : Bool := if h : v.dieFor pa < 6 then s.alive (.die ⟨v.dieFor pa, h⟩) else false

/-- A line of a vault has left its old place for another die, and its new place is to be filled still (R357). -/
def State.isAstray (s : State) (p : Fin 17) (v : Vault) (pa : Nat) : Bool := s.astray.contains (p, v.index, pa / v.lineBytes * v.lineBytes)

/-- The priority with which an access takes a line, if it takes one: a line on its way to another die enters at high priority whatever the access
asks for (R357, Table 14.3). -/
def State.fillAlloc (s : State) (p : Fin 17) (v : Vault) (pa : Nat) (alloc : Option Bool) : Option Bool :=
  if s.isAstray p v pa then some true else alloc

/-- The line leaves its old place for another die (R357): it is written back and dropped, and is to be filled at its new place. -/
def State.dropAstray (s : State) (p : Fin 17) (v : Vault) (pa : Nat) : State :=
  match s.line? p v.index pa with
  | none => s
  | some l =>
    if v.placed l then s
    else
      match vaultPlace v v.shares l.tag with
      | some (sh, _) =>
        if dieOfSlice sh.slice = dieOfSlice l.slice then s
        else
          let s := s.dropLines fun m => m.ofVault p v.index && m.holds pa
          { s with astray := (p, v.index, l.tag) :: s.astray.filter (· != (p, v.index, l.tag)) }
      | none => s

/-- The walk of a vdrop has passed the place at which a miss would take a line: none is taken there any more (R332, R361, log 74). -/
def State.walked (s : State) (v : Vault) (pa : Nat) : Bool :=
  v.state == .dropping &&
  (match vaultPlace v v.shares (pa / v.lineBytes * v.lineBytes) with
   | some (sh, set) => decide (((v.shares.findIdx (· == sh)) * v.sets + set) * v.ways + (s.victim v sh set - sh.first) < v.walk)
   | none => true)

/-- A lookup (R352, R353, R356, R357). A line at its place is hit, which counts for replacement unless the access goes on with the
same line (`again`); a line at its old place moves, on one die with its states, across dies by way of memory. On a miss the
access takes a line where `alloc` gives the priority of its fill, in a vault that is being dropped too, so that the walk treats it (R361). `write`:
the access writes its sector. -/
def State.lookup (s : State) (p : Fin 17) (v : Vault) (pa : Nat) (alloc : Option Bool) (again write : Bool) : State :=
  let fill := fun s : State => s.setLines (s.lines.map fun m => if m.ofVault p v.index && m.holds pa then s.fillLine m pa write else m)
  if !s.sliceAlive v pa then s
  else
  match s.line? p v.index pa with
  | none =>
    match s.fillAlloc p v pa alloc with
    | some high =>
      if s.walked v pa then s
      else
        State.install { s with astray := s.astray.filter (· != (p, v.index, pa / v.lineBytes * v.lineBytes)) } p v pa high (s.missStates v pa write)
    | none => s
  | some l =>
    if v.placed l then
      let s := if again then s else s.hitLine v l
      if (l.sector pa).isValid || alloc.isNone then s else fill s
    else
      match vaultPlace v v.shares l.tag with
      | some (sh, _) =>
        if dieOfSlice sh.slice = dieOfSlice l.slice then
          let s := State.install { s with lines := s.lines.filter fun m => !(m.ofVault p v.index && m.holds pa) } p v pa true l.sectors
          if (l.sector pa).isValid || alloc.isNone then s else fill s
        else
          let s := s.dropLines fun m => m.ofVault p v.index && m.holds pa
          s.install p v pa true (s.missStates v pa write)
      | none => s

/-! ### Scalar caches (R369, R370) -/

/-- Sectors that the L1D of a core holds at most, and those of its L1I (Table 0.2). -/
def l1Sectors (core : Nat) : Nat × Nat :=
  match clsOf core with
  | .mastiff => (128 * 16, 64 * 16)
  | .hound => (32 * 16, 32 * 16)
  | .whippet => (8 * 16, 16 * 16)

/-- The first `n` elements that a test selects, and all that it does not. -/
def keepFirst {α : Type} (t : α → Bool) : Nat → List α → List α
  | _, [] => []
  | n, a :: l => if t a then (match n with | 0 => keepFirst t 0 l | m + 1 => a :: keepFirst t m l) else a :: keepFirst t n l

/-- A core's L1D takes a copy, and gives up its oldest when it is full (log 21). -/
def State.addL1d (s : State) (core pa : Nat) : State :=
  s.setL1d (keepFirst (fun e => e.1 == core) (l1Sectors core).1 ((core, sectorOf pa) :: s.l1d.filter (· != (core, sectorOf pa))))

/-- The L1D copies of a sector go, but for that of one core. -/
def State.dropL1d (s : State) (pa : Nat) (keep : Option Nat) : State :=
  s.setL1d (s.l1d.filter fun e => e.2 != sectorOf pa || some e.1 == keep)

/-! ### Host snoops (R379) -/

/-- The state of a sector after a snoop (Table 15.6); Z is not snooped. -/
def Cxl.snooped (c : Cxl) (k : Snoop) : Cxl :=
  match k with
  | .cur => c
  | .inv => .i
  | .data => (match c with | .i => .i | .s => .s | .e => .s | .m => .o | .o => .o | .z => .z)

/-- A write of bytes within one sector ends the reservations on it (R161). -/
def State.endReservations (s : State) (pa n : Nat) : State :=
  { s with harts := s.harts.map fun h =>
      { h with resv := match h.resv with
                       | some a => if decide (a < pa + n) && decide (pa < a + 64) then none else some a
                       | none => none } }

/-- The answer to a snoop of a sector (Table 15.6): the data where the device copy is dirty, and the new state; after SnpInv no device copy is left. -/
def State.answerSnoop (s : State) (sec : Nat) (k : Snoop) : State :=
  let st := s.cxlState sec
  let s := (s.emit (.snoop sec (if st == .m || st == .o then some (Mem.bytes s.mem sec 64) else none))).setCxl sec (st.snooped k)
  match k with
  | .inv => (s.dropSector sec).endReservations sec 64
  | .data => s
  | .cur => s

/-- The snoops that waited for a sector are answered. -/
def State.answerWaiting (s : State) (sec : Nat) : State :=
  let mine := s.snoops.filter fun x => x.1 == sec
  mine.foldl (fun s x => s.answerSnoop sec x.2) { s with snoops := s.snoops.filter fun x => x.1 != sec }

/-- A write has landed on a sector that the device owns: it is M, and the snoops that waited for it are answered (R379). -/
def State.landed (s : State) (sec : Nat) : State := (s.setCxl sec .m).answerWaiting sec

/-- Sectors in Z whose write will not come any more are given back to the host. -/
def State.giveUpZ (s : State) : State :=
  ((s.cxl.filter fun x => x.2 == .z).map (·.1)).foldl (fun s sec => (s.setCxl sec .i).answerWaiting sec) s

/-! ### Region directories (R373 to R376) -/

/-- The directory entry of a region: until it has one, a region of HBM is P with its home die, and one of host memory, which
is always F, has no holders (R373). The quiet period of one that nothing has written begins at time 0 (R374 does not say; log 101). -/
def State.region (s : State) (r : Nat) : Region :=
  (s.regions.find? fun e => e.index == r).getD
    { index := r, state := (match placeOf (r * 0x200000) with | .host _ => .f [] [] | _ => .p (homeDie (r * 0x200000))),
      lastWrite := 0, decayFrom := 0, askers := [], closing := none, recalled := [], waiting := [], covered := [] }

/-- A region's entry is P with its home die again; what it knows of its last write stands (R373, R387). -/
def Region.atHome (e : Region) (time : Nat) : Region :=
  { e with state := .p (homeDie (e.index * 0x200000)), decayFrom := time, askers := [], closing := none, recalled := [], waiting := [], covered := [] }

/-- The state with a region's entry replaced. -/
def State.putRegion (s : State) (e : Region) : State :=
  { s with regions := e :: s.regions.filter fun x => x.index != e.index }

/-- A die holds a valid lease. -/
def Region.leased (e : Region) (time die : Nat) : Bool :=
  match e.state with
  | .r ls => ls.any fun l => l.1 == die && decide (time < l.2)
  | .p _ => false
  | .f _ _ => false

/-- Dies that may hold a copy of a sector in F. -/
def Region.holders (e : Region) (sector : Nat) : List Nat :=
  match e.state with
  | .f base hs => (hs.lookup sector).getD base
  | .p o => [o]
  | .r ls => ls.map (·.1)

/-- Some sector of the region is dirty in a vault. -/
def State.regionDirty (s : State) (r : Nat) : Bool :=
  s.lines.any fun l => regionOf l.tag == r && l.sectors.any Sector.isDirty

/-- Vault copies of a sector on the dies other than those listed become invalid. -/
def State.invalidateElsewhere (s : State) (pa : Nat) (dies : List Nat) : State :=
  s.modSector pa (fun l => !dies.contains (dieOfSlice l.slice)) fun _ => .invalid

/-- The die holds a copy of the sector, in a vault line, in an L1D or in an L1I. -/
def State.dieHolds (s : State) (die pa : Nat) : Bool :=
  (s.lines.any fun l => dieOfSlice l.slice == die && l.holds pa && (l.sector pa).isValid) ||
  (s.l1d.any fun e => e.2 == sectorOf pa && dieOf e.1 == die) ||
  s.l1i.any fun e => e.pa == sectorOf pa && dieOf e.core == die

/-- The die holds the sector dirty. -/
def State.dieDirty (s : State) (die pa : Nat) : Bool :=
  s.lines.any fun l => dieOfSlice l.slice == die && l.holds pa && (l.sector pa).isDirty

/-- The decay clock after a request of a die: it restarts when the die differs from the one that asked so far. -/
def Region.ask (e : Region) (time die : Nat) : Region :=
  if e.askers == [die] then e else { e with askers := [die], decayFrom := time }

/-- The entry with a die added to the holders of a sector in F. -/
def Region.addHolder (e : Region) (sec die : Nat) : Region :=
  match e.state with
  | .f base hs => { e with state := .f base ((sec, dedup (die :: e.holders sec)) :: hs.filter fun x => x.1 != sec) }
  | .p _ => e
  | .r _ => e

/-- A read request of a die at the entry (Table 15.3); while the region closes it waits, and is served in F (R374, R376). A region in F has no owner: for its way to R "a die other than the owner" is read as a die other
than the home (log 96). -/
def State.regionRead (s : State) (pa die : Nat) : State :=
  match placeOf pa with
  | .hbm home =>
    let e := (s.region (regionOf pa)).ask s.time die
    let sec := sectorOf pa
    match e.state with
    | .p o => if o = die then s else s.putRegion { e with state := .f [o] [(sec, dedup [die, o])] }
    | .f base hs =>
      if die ≠ home && !s.regionDirty (regionOf pa) && decide (200000 ≤ s.time - e.lastWrite) then
        let dies := dedup (die :: base ++ (hs.map (·.2)).flatten)
        s.putRegion { e with state := .r ((dies.filter (· != home)).map fun d => (d, s.time + 2000)) }
      else s.putRegion (e.addHolder sec die)
    | .r ls =>
      if die = home || e.leased s.time die then s
      else if e.closing.isSome then s.putRegion { e with waiting := e.waiting.filter (· != (sec, die)) ++ [(sec, die)] }
      else s.putRegion { e with state := .r ((die, s.time + 2000) :: ls.filter fun l => l.1 != die) }
  | .host _ => s.putRegion ((s.region (regionOf pa)).addHolder (sectorOf pa) die)
  | .store _ _ => s
  | .homeStore _ => s
  | .homeWindow _ => s
  | .hole => s

/-- The die has written the sector while its region is closing: it goes on with its own copy (R376). -/
def Region.wrote (e : Region) (sec die : Nat) : Bool :=
  match e.closing with
  | some l => l.any fun x => x.1 == sec && x.2.contains die
  | none => false

/-- A die of a region in R has no lease to hit a sector under, and is neither its home nor its writer (Table 15.2, R375, R376). -/
def State.lapsed (s : State) (die pa : Nat) : Bool :=
  match placeOf pa with
  | .hbm home =>
    let e := s.region (regionOf pa)
    (match e.state with
     | .r _ => die != home && !e.leased s.time die && !e.wrote (sectorOf pa) die
     | .p _ => false
     | .f _ _ => false)
  | .store _ _ => false
  | .homeStore _ => false
  | .homeWindow _ => false
  | .host _ => false
  | .hole => false

/-- The clean copies of a sector that a die holds after the end of its lease, and that of a core, go at their next lookup (R375). -/
def State.dropLapsed (s : State) (die core pa : Nat) : State :=
  if s.lapsed die pa then
    (s.modSector pa (fun l => dieOfSlice l.slice == die) fun x => if x.isDirty then x else .invalid).dropL1 fun c sec =>
      sec == sectorOf pa && (dieOf c == die || c == core)
  else s

/-- The agent of an address has fallen silent, and is not declared dead yet: requests wait (R382). -/
def State.silentAt (s : State) (pa : Nat) : Bool :=
  match agentOf pa with
  | some a => (match s.agents.lookup a with | some st => st.alive && st.mute | none => false)
  | none => false

/-- A read would wait: for the agent of its address (R382), or for a lease while the region is closing (R376). -/
def State.readWaits (s : State) (pa die : Nat) : Bool := s.silentAt pa || ((s.region (regionOf pa)).closing.isSome && s.lapsed die pa)

/-- Adds an outward message about the sectors that a host holds: BISnpInv for one that a write reaches (R380). -/
def State.backInvalidate (s : State) (sec : Nat) : State :=
  if s.hostHeld.any fun h => h.sector == sec && !h.invalidating then
    { s.emit (.backInvalidate sec) with hostHeld := s.hostHeld.map fun h => if h.sector == sec then { h with invalidating := true } else h }
  else s

/-- Hardware's own write of bytes (records, images, context areas): it is performed at package scope, so that no cache, no lease and no
host holds the old bytes any more (R445, R448, R473). -/
def State.writeOwn (s : State) (pa : Nat) (bs : List Byte) : State :=
  let hit := fun sec : Nat => decide (pa < sec + 64) && decide (sec < pa + bs.length)
  let s := s.setLines (s.lines.map fun (l : Line) =>
    { l with sectors := l.sectors.zipIdx.map fun x => if hit (l.tag + 64 * x.2) then .invalid else x.1 })
  let s := { s.dropL1 fun _ sec => hit sec with stale := s.stale.filter fun x => !hit x.sector }
  let s := (s.writeBytes pa bs).endReservations pa bs.length
  (s.hostHeld.filter fun h => hit h.sector).foldl (fun s h => s.backInvalidate h.sector) s

/-- A host write of a sector over CXL.mem is performed (R380): every device copy goes, and memory takes the data. -/
def State.hostWrite (s : State) (w : HostWrite) : State :=
  let s := (((s.dropSector w.sector).writeBytes w.sector w.bytes).endReservations w.sector 64).emit
    (.hostWritten w.sector)
  let e := s.region (regionOf w.sector)
  match e.state with
  | .f base hs => s.putRegion { e with state := .f base ((w.sector, []) :: hs.filter fun x => x.1 != w.sector), lastWrite := s.time }
  | .p _ => s
  | .r _ => s

/-- Reads that waited for F are served in it, in their order (R374, R376). -/
def Region.serve (e : Region) (time : Nat) : Region :=
  e.waiting.foldl (fun (e : Region) x => (e.ask time x.2).addHolder x.1 x.2) { e with waiting := [] }

/-- A closing region is in F (R374, R376): no die has old bytes of it any more, and what waited for it is performed. -/
def State.formF (s : State) (r : Nat) (hs : List (Nat × List Nat)) : State :=
  let e := s.region r
  let s := s.putRegion
    (Region.serve { e with state := .f [homeDie (r * 0x200000)] hs, closing := none, recalled := [], covered := [], decayFrom := s.time, askers := [] } s.time)
  let s :=
    { s with
      stale := s.stale.filter fun x => regionOf x.sector != r
      harts := s.harts.map fun (h : Hart) => { h with outst := h.outst.map fun (o : Outstanding) => if o.region == some r then { o with region := none } else o } }
  let mine := fun w : HostWrite => regionOf w.sector == r
  (s.hostWrites.filter mine).foldl State.hostWrite { s with hostWrites := s.hostWrites.filter fun w => !mine w }

/-- What a die gives up at the end of its lease on a region (R375): its clean copies and its old bytes. -/
def State.dropLeased (s : State) (r die : Nat) : State :=
  let s :=
    { s.setLines (s.lines.map fun l =>
        if dieOfSlice l.slice == die && regionOf l.tag == r then { l with sectors := l.sectors.map fun x => if x.isDirty then x else .invalid } else l) with
      stale := s.stale.filter fun x => !(x.die == die && regionOf x.sector == r) }
  s.dropL1 fun c sec => dieOf c == die && regionOf sec == r

/-- A region starts closing, or goes on with it (R376): leases with more than 1 µs left are recalled, every lease for a host write,
and F is formed once none is left. `hs` names the sector that is written, with the die that then holds it. -/
def State.close (s : State) (r : Nat) (hs : List (Nat × List Nat)) (all : Bool) : State :=
  let e := if hs.isEmpty && !all then s.region r else { s.region r with lastWrite := s.time }
  let s := s.putRegion e
  match e.state with
  | .r ls =>
    let live := ls.filter fun l => decide (s.time < l.2)
    let written := (hs ++ e.closing.getD []).foldr (fun x l => if l.any fun y => y.1 == x.1 then l.map (fun y => if y.1 == x.1 then x else y) else x :: l) []
    if live.isEmpty then (ls.foldl (fun s l => s.dropLeased r l.1) s).formF r written
    else
      let call := if all then live else if e.closing.isSome then [] else live.filter fun l => decide (1000 < l.2 - s.time)
      s.putRegion { e with state := .r ls, closing := some written, recalled := dedup (e.recalled ++ call.map (·.1)) }
  | .p _ => s
  | .f _ _ => s

/-- A write request at the entry, before memory takes the bytes: `die` caches the sector, `see` lists the dies that see the write at
once. In R each other leased die that holds a copy keeps its old bytes until its lease ends, while the region closes (R376).
In F a die that holds the sector dirty alone asks nothing. -/
def State.regionWrite (s : State) (pa die : Nat) (see : List Nat) : State :=
  let sec := sectorOf pa
  let r := regionOf pa
  match placeOf pa with
  | .hbm _ =>
    let e := { (s.region r).ask s.time die with lastWrite := s.time }
    match e.state with
    | .p o => if o = die then s.putRegion { s.region r with lastWrite := s.time } else (s.invalidateElsewhere pa [die]).putRegion { e with state := .f [o] [(sec, [die])] }
    | .f base hs =>
      if e.holders sec == [die] && s.dieDirty die pa then s.putRegion { s.region r with lastWrite := s.time }
      else (s.invalidateElsewhere pa [die]).putRegion { e with state := .f base ((sec, [die]) :: hs.filter fun x => x.1 != sec) }
    | .r ls =>
      let keep := ls.filter fun l => decide (s.time < l.2) && !(die :: see).contains l.1 && s.dieHolds l.1 pa
      let old := keep.map fun l => ({ die := l.1, sector := sec, bytes := Mem.bytes s.mem sec 64 } : Stale)
      let stale := s.stale.filter fun x => !(x.sector == sec && (die :: see).contains x.die)
      let stale := stale ++ old.filter fun x => !stale.any fun y => y.die == x.die && y.sector == sec
      ({ s.invalidateElsewhere pa [die] with stale := stale }).close r [(sec, [die])] false
  | .host _ =>
    let e := s.region r
    match e.state with
    | .f base hs => (s.invalidateElsewhere pa [die]).putRegion { e with state := .f base ((sec, [die]) :: hs.filter fun x => x.1 != sec) }
    | .p _ => s
    | .r _ => s
  | .store _ _ => s
  | .homeStore _ => s
  | .homeWindow _ => s
  | .hole => s

/-- A lease of a die ends (R375, R376): its copies of the region and its old bytes go, and a closing region forms F once no lease is left. -/
def State.endLease (s : State) (r die : Nat) : State :=
  let s := s.dropLeased r die
  let e := s.region r
  match e.state with
  | .r ls =>
    let ls := ls.filter fun l => l.1 != die
    let s := s.putRegion { e with state := .r ls, recalled := e.recalled.filter (· != die) }
    match e.closing with
    | some hs => if ls.isEmpty then s.formF r hs else s
    | none => s
  | .p _ => s
  | .f _ _ => s

/-! ### What a read and a write do to the caches -/

/-- Where an access comes from: the core it runs on, the home core of the hart in whose name it is made (R280), the partition whose
vaults it uses, and the page's vault index. -/
structure Via where
  core : Nat
  home : Nat
  part : Fin 17
  vault : BitVec 8
deriving DecidableEq, Repr

/-- The vault of an access, if its page names one. -/
def State.vaultOf (s : State) (v : Via) : Option Vault := if v.vault = 255 then none else (s.part v.part).vault? v.vault


/-- The vault keeps lines for the address: HBM, and host memory in CXL mode (R153). -/
def State.cached (s : State) (pa : Nat) : Bool :=
  match placeOf pa with
  | .hbm _ => true
  | .host n => s.ports[n].cxl
  | .store _ _ => false
  | .homeStore _ => false
  | .homeWindow _ => false
  | .hole => false

/-- The caching die of an access (R349): that of the slice where its vault places the line, where that die lives, else the die of its core. -/
def State.cacheDie (s : State) (v : Via) (pa : Nat) : Nat :=
  match s.vaultOf v with
  | some vt => if s.sliceAlive vt pa then vt.dieFor pa else dieOf v.core
  | none => dieOf v.core

/-- The die whose leased copies an access may hit (R294): that of its core, where it is the caching die and the home die of the hart
too. Any other access reads current bytes, and its hart's home die gives up its own copy, so that no agent of a scope sees
less than another of it has seen (R280, R283; log 4). -/
def State.seeDie (s : State) (v : Via) (pa : Nat) : Option Nat :=
  if dieOf v.core = dieOf v.home && s.cacheDie v pa == dieOf v.core then some (dieOf v.core) else none

/-- A die has no old bytes of a sector any more. -/
def State.dropStale (s : State) (die pa : Nat) : State :=
  { s with stale := s.stale.filter fun x => !(x.die == die && x.sector == sectorOf pa) }

/-- An access that reads the newest bytes of a sector (an atomic, ldres, stcond): the dies of its hart have no old ones any more. -/
def State.renew (s : State) (v : Via) (pa : Nat) : State := (s.dropStale (dieOf v.core) pa).dropStale (dieOf v.home) pa

/-- The partition whose state an address of shadow storage holds: it lies in Keystone's range, at a place that the spec does not give (Table 14.8). -/
def State.shadowAt (s : State) (pa : Nat) : Option (Fin 17) :=
  if 0x4000000000 ≤ pa then none
  else
    match Config.shadowSlot pa with
    | some (die, n) => (((s.shadow.filter fun x => x.die == die).map (·.part)).eraseDups)[n]?
    | none => none

/-- The byte belongs to a sealed partition: its HBM ranges, with the context areas in them, the local stores of its cores, and its shadow
storage (R506). -/
def State.sealedAt (s : State) (pa : Nat) : Bool :=
  (List.finRange 17).any fun n =>
    let p := s.part n
    p.desc.sealed && p.state != .absent &&
    ((p.desc.ranges.any fun r => decide (r.1 ≤ pa) && decide (pa < r.1 + r.2)) ||
     (match placeOf pa with
      | .store c _ => p.ctl.clusters.getLsbD (clusterOf c)
      | .hbm _ => false
      | .homeStore _ => false
      | .homeWindow _ => false
      | .host _ => false
      | .hole => s.shadowAt pa == some n))

/-- The limit unit denies device firmware the byte, as a partition's number says who asks (R506, log 5). -/
def State.denied (s : State) (p : Fin 17) (pa : Nat) : Bool := p == 16 && s.sealedAt pa

/-- A denied access is counted (Table 22.4). -/
def State.violation (s : State) : State := { s with limit := { s.limit with violations := s.limit.violations + 1 } }

/-- A hit in the L1D of the core (R369): nothing else is asked. -/
def State.l1Hit (s : State) (v : Via) (pa : Nat) (l1 : Bool) : Bool := l1 && s.l1d.contains (v.core, sectorOf pa)

/-- A read passes the caches: `alloc` is none where the vault takes no line, else the priority of the fill (Tables 6.1,
8.7, 14.3); `l1` where the scalar cache of the core takes a copy; `again` goes on with the line of the access before. The request of a die that
holds a copy in F, or under a lease that runs, goes no further than that copy (Table 15.2, R375). What the read itself takes of a host's sector is
kept here, also where no cache takes it. -/
def State.readKeep (s : State) (v : Via) (pa : Nat) (alloc : Option Bool) (l1 again : Bool) : State :=
  let s := if s.denied v.part pa then s.violation else s
  if s.cached pa then
    let s := if (s.seeDie v pa).isNone then s.dropStale (dieOf v.home) pa else s
    let die := s.cacheDie v pa
    let s := s.dropLapsed die v.core pa
    if s.l1Hit v pa l1 then s
    else
      let s := if s.dieHolds die pa then s else s.regionRead pa die
      let s := match s.vaultOf v with | some vt => s.lookup v.part vt pa alloc again false | none => s
      if l1 && v.vault != 255 then s.addL1d v.core pa else s
  else s

/-- A read, after which a host's sector that no cache has taken is given back. -/
def State.readLine (s : State) (v : Via) (pa : Nat) (alloc : Option Bool) (l1 again : Bool) : State :=
  if s.cached pa && !s.l1Hit v pa l1 then (s.readKeep v pa alloc l1 again).hostEvict pa else s.readKeep v pa alloc l1 again

/-- A read that goes on with no line of an access before. -/
def State.readTouch (s : State) (v : Via) (pa : Nat) (alloc : Option Bool) (l1 : Bool) : State := s.readLine v pa alloc l1 false

/-- A scalar read allocates in its vault, but for a streaming vault (Table 6.1). -/
def State.scalarAlloc (s : State) (v : Via) : Option Bool :=
  match s.vaultOf v with
  | some vt => if vt.write = 2 then none else some true
  | none => none

/-- An atomic or a stcond takes a line of a write-back vault alone (Table 6.1). -/
def State.atomicAlloc (s : State) (v : Via) : Option Bool :=
  match s.vaultOf v with
  | some vt => if vt.write = 0 then some true else none
  | none => none

/-- Copies of a host sector in other vaults go before a write; a dirty one is written back to the host first (R350). -/
def State.settleOthers (s : State) (v : Via) (pa : Nat) : State :=
  let other := fun l : Line => !l.ofVault v.part v.vault
  let dirty := s.lines.any fun l => l.holds pa && other l && (l.sector pa).isDirty
  let s := s.modSector pa other fun _ => .invalid
  match placeOf pa with
  | .host n => if dirty && s.ports[n].cxl && (s.cxlState pa == .m || s.cxlState pa == .o) then (s.emit (.hostRequest (sectorOf pa) dirtyEvict)).setCxl pa .i else s
  | .hbm _ => s
  | .store _ _ => s
  | .homeStore _ => s
  | .homeWindow _ => s
  | .hole => s

/-- A write passes the caches, before memory takes its bytes (R350, R370, R473): every L1I line and every other L1D copy goes, every other vault's
copy goes, and a write-back line becomes dirty and keeps what memory held. `alloc` is none where the write takes no line (hint code
2, R83), else the priority of its fill; `again` goes on with the line of the write before. -/
def State.writeTouch (s : State) (v : Via) (pa : Nat) (alloc : Option Bool) (scalar again : Bool) : State :=
  let s := { s with l1i := s.l1i.filter fun e => e.pa != sectorOf pa }
  if s.cached pa then
    let s := s.settleOthers v pa
    let die := s.cacheDie v pa
    let s := s.regionWrite pa die [dieOf v.core, dieOf v.home]
    let s := s.dropL1d pa (if scalar then some v.core else none)
    match s.vaultOf v with
    | some vt =>
      let s := s.lookup v.part vt pa (if vt.write = 0 then alloc else none) again true
      if vt.write = 0 then
        let old := Mem.bytes s.mem (sectorOf pa) 64
        s.modSector pa (fun l => l.ofVault v.part v.vault && (l.sector pa).isValid) fun x => if x.isDirty then x else .dirty old
      else s
    | none => s
  else s

/-- A write of bytes within one sector: caches, memory, reservations, and the sector of a host that holds it (R380). -/
def State.storeSector (s : State) (v : Via) (pa : Nat) (bs : List Byte) (alloc : Option Bool) (scalar again : Bool) : State :=
  (((s.writeTouch v pa alloc scalar again).writeBytes pa bs).endReservations pa bs.length).backInvalidate (sectorOf pa)

/-- A write that no vault and no scalar cache serves: a local store, or host memory in PCIe mode (R153). The L1I lines of its sector go (R473). -/
def State.storePlain (s : State) (pa : Nat) (bs : List Byte) : State :=
  ({ s with l1i := s.l1i.filter fun e => e.pa != sectorOf pa }.writeBytes pa bs).endReservations pa bs.length

/-- What a lost-write record names of a store to an address: the base of its region and the vault, or the base of the local store and 0xFF (R385). -/
def lostPlace (pa : Nat) (vault : BitVec 8) : Nat × Nat :=
  match placeOf pa with
  | .store c _ => (0x100000000000 + c * 0x80000, 0xFF)
  | .hbm _ => (regionOf pa * 0x200000, vault.toNat)
  | .homeStore _ => (regionOf pa * 0x200000, vault.toNat)
  | .homeWindow _ => (regionOf pa * 0x200000, vault.toNat)
  | .host _ => (regionOf pa * 0x200000, vault.toNat)
  | .hole => (regionOf pa * 0x200000, vault.toNat)

/-- Whether a write keeps its line dirty: a write-back vault that holds a line for it, or takes one. -/
def State.keepsDirty (s : State) (v : Via) (pa : Nat) (alloc : Option Bool) : Bool :=
  match s.vaultOf v with
  | some vt => vt.write == 0 && s.sliceAlive vt pa && (((s.fillAlloc v.part vt pa alloc).isSome && !s.walked vt pa) || s.lines.any fun l => l.ofVault v.part v.vault && l.holds pa && (l.sector pa).isValid)
  | none => false

/-- What a die reads at an address: the old bytes of a lease that still runs (R294), else memory. -/
def State.viewByte (s : State) (die : Option Nat) (pa : Nat) : Byte :=
  match die with
  | none => Mem.get s.mem pa
  | some d =>
    match s.stale.find? fun x => x.die == d && x.sector == sectorOf pa with
    | some x => if (s.region (regionOf pa)).leased s.time d then x.bytes.getD (pa - sectorOf pa) 0 else Mem.get s.mem pa
    | none => Mem.get s.mem pa

/-- `n` bytes as an access reads them; denied bytes read zero. -/
def State.view (s : State) (v : Via) (pa n : Nat) : List Byte :=
  (addrRange pa n).map fun a => if s.denied v.part a then 0 else s.viewByte (s.seeDie v pa) a

/-- A store that its hart leaves in its path when its partition ends is performed (log 20): through the caches, and to host memory with WrCur. -/
def State.lastStore (s : State) (p : Fin 17) (x : PathStore) : State :=
  let v : Via := { core := x.core, home := x.home, part := p, vault := 255 }
  match placeOf x.pa with
  | .hbm _ => s.storeSector v x.pa x.bytes none true false
  | .store _ _ => s.storePlain x.pa x.bytes
  | .host n =>
    if s.ports[n].cxl then (s.storeSector v x.pa x.bytes none true false).sendWrCur x.pa else s.storePlain x.pa x.bytes
  | .homeStore _ => s
  | .homeWindow _ => s
  | .hole => s

/-- Every line of a vault is written back and dropped. -/
def State.dropVault (s : State) (p : Fin 17) (i : BitVec 8) : State := s.dropLines fun l => l.ofVault p i

/-! ### Errors of memory (R500) -/

/-- A single-bit error under an access is corrected and counted in mecc of its die (R500). -/
def State.correct (s : State) (pa : Nat) : State :=
  if s.flipped.contains (sectorOf pa) then
    { s with
      flipped := s.flipped.filter (· != sectorOf pa)
      mecc := if h : homeDie pa < 6 then s.mecc.set (homeDie pa) (s.mecc[homeDie pa] + 1) else s.mecc }
  else s

/-- The sector holds an uncorrectable error. -/
def State.corrupted (s : State) (pa : Nat) : Bool := s.corrupt.contains (sectorOf pa)

/-- An access has found an uncorrectable error at an address: where that lies in a local store, its bank has given one more, and those of the
bank that are more than 1 s old count no longer (R362, R501). -/
def State.bankError (s : State) (pa : Nat) : State :=
  match placeOf pa with
  | .store core off =>
    if s.corrupted pa then
      { s with bankErrors :=
          (s.bankErrors.filter fun x => !(x.1 == core && x.2.1 == off / 4 % 96) || decide (s.time ≤ x.2.2 + 1000000000)) ++ [(core, off / 4 % 96, s.time)] }
    else s
  | .hbm _ => s
  | .homeStore _ => s
  | .homeWindow _ => s
  | .host _ => s
  | .hole => s

end Sys2Proof.Machine
end

