-- ==== Sys2Proof/Machine/Slots.lean ====
section
/-! DEFINITION. The vector registers of a slot, the vector home, and the lane and matrix grants of a core. -/

namespace Sys2Proof.Machine

/-! ### Vector home (R427, Table 18.5) -/

/-- First byte of the vector home of a context area. -/
def homeBase (area : Nat) : Nat := area + 0x16000
/-- Home of v[n]. -/
def homeV (area n : Nat) : Nat := homeBase area + 0x800 * n
/-- Home of k[n]. -/
def homeK (area n : Nat) : Nat := homeBase area + 0x10000 + 0x40 * n
/-- Home of a tile. -/
def homeM (area n : Nat) : Nat := homeBase area + 0x10200 + 0x10000 * n

/-- Bytes of a row of 32-bit containers. -/
def containerBytes (l : List Half) : List Byte := (l.map fun c => leBytes 4 c.toNat).flatten

/-- Bytes of a mask, bit 0 first. -/
def maskBytes (k : Vector Bool 512) : List Byte :=
  (List.range 64).map fun b => BitVec.ofNat 8 ((List.range 8).foldl (fun n i => n + (if k.toList.getD (8 * b + i) false then 2 ^ i else 0)) 0)

/-- Containers read from memory. -/
def State.readContainers (s : State) (pa : Nat) (n : Nat) : Vector Half n := Vector.ofFn fun c => BitVec.ofNat 32 (s.readNat (pa + 4 * c.val) 4)

/-- A mask read from memory. -/
def State.readMask (s : State) (pa : Nat) : Vector Bool 512 :=
  Vector.ofFn fun e => (Mem.get s.mem (pa + e.val / 8)).getLsbD (e.val % 8)

/-- A range of a vector home cannot be accessed: an uncorrectable error, or a dead agent. -/
def State.homeBroken (s : State) (pa n : Nat) : Bool := (List.range (n / 64)).any fun b => s.corrupted (pa + 64 * b) || (s.deadAt (pa + 64 * b)).isSome

/-- An error in a vector home of the hart has been found: its partition ends at the end of the step (R428). -/
def State.loseHome (s : State) (h : Hart) : State := { s with homeLost := s.homeLost ++ [(h.key.part, h.pc)] }

/-- The state, with an error noted where a range of a hart's home cannot be accessed. -/
def State.homeAccess (s : State) (h : Hart) (pa n : Nat) : State := if s.homeBroken pa n then s.loseHome h else s

/-- Writes a context's dirty registers to its home and clears the dirty bits. Tiles go only while the owner's matrix
mode is on (R240, R425). An error in the home ends the partition (R428). -/
def State.writeBack (s : State) (i : SlotId) : State :=
  let x := s.slot i
  let clean := { x with vDirty := 0, kDirty := 0, mDirty := 0 }
  match s.ownerOf x with
  | none => s.putSlot clean
  | some h =>
    match h.area with
    | none => s.putSlot clean
    | some a =>
      let s := (List.finRange 32).foldl (fun s n => if x.vDirty.getLsbD n.val then (s.homeAccess h (homeV a n.val) 2048).writeOwn (homeV a n.val) (containerBytes x.v[n].toList) else s) s
      let s := (List.finRange 8).foldl (fun s n => if x.kDirty.getLsbD n.val && n.val != 0 then (s.homeAccess h (homeK a n.val) 64).writeOwn (homeK a n.val) (maskBytes x.k[n]) else s) s
      let s := (List.finRange 2).foldl (fun s n =>
        if x.mDirty.getLsbD n.val && h.csr.mm then (s.homeAccess h (homeM a n.val) 65536).writeOwn (homeM a n.val) ((x.m[n].toList.map fun r => containerBytes r.toList).flatten) else s) s
      (s.modHart h.key fun g => { g with tilesAway := if g.csr.mm then g.tilesAway ||| x.mDirty else g.tilesAway }).putSlot clean

/-- Pulls v[n] of a slot from the home of the hart, unless its valid bit is set (R427); an error there ends the partition (R428). -/
def State.pullV (s : State) (i : SlotId) (h : Hart) (n : Reg) : State :=
  let x := s.slot i
  if x.vValid.getLsbD n.val then s
  else
    match h.area with
    | none => s
    | some a =>
      (s.homeAccess h (homeV a n.val) 2048).putSlot { x with v := x.v.set n (s.readContainers (homeV a n.val) 512), vValid := x.vValid ||| BitVec.twoPow 32 n.val }

/-- Pulls k[n]. -/
def State.pullK (s : State) (i : SlotId) (h : Hart) (n : KReg) : State :=
  let x := s.slot i
  if x.kValid.getLsbD n.val || n = 0 then s
  else
    match h.area with
    | none => s
    | some a =>
      (s.homeAccess h (homeK a n.val) 64).putSlot { x with k := x.k.set n (s.readMask (homeK a n.val)), kValid := x.kValid ||| BitVec.twoPow 8 n.val }

/-- Pulls a tile: in matrix mode from the home where it has been written there, else zero (R240). -/
def State.pullM (s : State) (i : SlotId) (h : Hart) (n : Tile) : State :=
  let x := s.slot i
  if x.mValid.getLsbD n.val then s
  else
    let (s, t) : State × Vector (Vector Half 128) 128 :=
      match h.area with
      | none => (s, Vector.replicate 128 (Vector.replicate 128 0))
      | some a =>
        if h.csr.mm && h.tilesAway.getLsbD n.val then
          (s.homeAccess h (homeM a n.val) 65536, Vector.ofFn fun r => s.readContainers (homeM a n.val + 512 * r.val) 128)
        else (s, Vector.replicate 128 (Vector.replicate 128 0))
    s.putSlot { x with m := x.m.set n t, mValid := x.mValid ||| BitVec.twoPow 2 n.val }

/-- A slot's vown names no one. -/
def State.disown (s : State) (i : SlotId) : State := s.putSlot { s.slot i with valid := false }

/-- The slot's vector state is claimed for a hart: vown names it, and the registers are those of its home, valid on
first use (R46, R453). -/
def State.claim (s : State) (i : SlotId) (h : Hart) : State :=
  s.putSlot { s.slot i with hart := BitVec.ofNat 32 h.key.id, valid := true, asid := h.csr.asid, owner := h.key.part,
                            vValid := 0, kValid := 0, mValid := 0, vDirty := 0, kDirty := 0, mDirty := 0 }

/-- The slot's vector state is given to a new hart: every register zero and valid (R20), and dirty, because the vector home holds what it held before
(R41). -/
def State.claimFresh (s : State) (i : SlotId) (h : Hart) : State :=
  let z := Slot.empty i
  s.putSlot { s.slot i with hart := BitVec.ofNat 32 h.key.id, valid := true, asid := h.csr.asid, owner := h.key.part,
                            v := z.v, k := z.k, m := z.m, vValid := BitVec.allOnes 32, kValid := BitVec.allOnes 8,
                            mValid := 3, vDirty := BitVec.allOnes 32, kDirty := BitVec.allOnes 8, mDirty := 0 }

/-- The state of every slot but `i` whose vown names the hart goes to its home, and the slot names no one (R452). -/
def State.recallState (s : State) (h : Hart) (i : SlotId) : State :=
  s.slots.foldl (fun s x => if x.id != i && x.valid && x.owner == h.key.part && x.hart.toNat == h.key.id then (s.writeBack x.id).disown x.id else s) s

/-! ### Ranks (R415) -/

/-- The task of a hart. -/
def State.taskOf (s : State) (h : Hart) : Option Task := (s.part h.key.part).task? h.task

/-- Effective priority. -/
def State.effPrio (s : State) (h : Hart) : Nat := min 7 ((match s.taskOf h with | some t => t.prio | none => 0) + h.sched.aged)

/-- The first hart ranks before the second. -/
def State.before (s : State) (a b : Hart) : Bool :=
  if a.rtc != b.rtc then a.rtc
  else if s.effPrio a ≠ s.effPrio b then decide (s.effPrio b < s.effPrio a)
  else if a.sched.readySince ≠ b.sched.readySince then decide (a.sched.readySince < b.sched.readySince)
  else decide (a.key.id < b.key.id)

/-- The least element under a test for "comes before". -/
def firstBy {α : Type} (lt : α → α → Bool) : List α → Option α
  | [] => none
  | a :: l =>
    match firstBy lt l with
    | none => some a
    | some b => if lt b a then some b else some a

/-- Insertion sort under a test for "comes before". -/
def sortBy {α : Type} (lt : α → α → Bool) : List α → List α
  | [] => []
  | a :: l =>
    let rec ins : List α → List α
      | [] => [a]
      | b :: m => if lt b a then b :: ins m else a :: b :: m
    ins (sortBy lt l)

/-! ### Grants (R421, R422) -/

/-- The slots of a core. -/
def slotIds (core : Nat) : List SlotId := (List.range (slotsOf core)).map fun n => { core := core, slot := n }

/-- Occupied slots of a core with their harts. -/
def State.occupants (s : State) (core : Nat) : List (SlotId × Hart) :=
  (slotIds core).filterMap fun i => ((s.slot i).occupant.bind s.hart?).map fun h => (i, h)

/-- Shares a budget among ranked slots: the remainder, and the grant of each slot in turn. -/
def divide (u top : Nat) : Nat → List SlotId → List (SlotId × Nat)
  | _, [] => []
  | rem, i :: l =>
    let extra := min (top - u) (rem - rem % u)
    (i, u + extra) :: divide u top (rem - extra) l

/-- Divides the budgets of a core among its occupied slots (R422). -/
def State.regrant (s : State) (core : Nat) : State :=
  let occ := sortBy (fun a b => if a.2.rtc != b.2.rtc then a.2.rtc else if s.effPrio a.2 ≠ s.effPrio b.2 then decide (s.effPrio b.2 < s.effPrio a.2)
    else decide (a.1.slot < b.1.slot)) (s.occupants core)
  let ids := occ.map (·.1)
  let u := lcsize (clsOf core)
  let b := s.core core
  let lanes := if u = 0 then [] else divide u 512 (b.lanes - u * ids.length) ids
  let matrix := if clsOf core = .whippet then divide 16 128 (b.matrix - 16 * ids.length) ids else []
  ids.foldl (fun s i => s.putSlot { s.slot i with lanes := (lanes.lookup i).getD 0, matrix := (matrix.lookup i).getD 0 }) s

end Sys2Proof.Machine
end

