-- ==== Sys2Proof/Machine/Image.lean ====
section
/-! DEFINITION. The saved vector-queue image (Tables 1.10 and 1.11) and the scalar context of the context area
(Table 17.7). -/

namespace Sys2Proof.Machine

/-- Entry status codes (Table 1.12). -/
def stWaiting : BitVec 8 := 1
/-- ACTIVE. -/
def stActive : BitVec 8 := 2
/-- FAULTED. -/
def stFaulted : BitVec 8 := 3
/-- MARKER. -/
def stMarker : BitVec 8 := 4

/-- A number laid out below further numbers, each with its width. -/
def packFields : List (Nat × Nat) → Nat
  | [] => 0
  | (w, v) :: l => v % 2 ^ w + 2 ^ w * packFields l

/-- The 48 bytes of an entry (Table 1.11). -/
def Entry.bytes (e : Entry) : List Byte :=
  leBytes 48 (packFields
    [(64, e.insn.toNat), (64, e.opa.toNat), (64, e.opb.toNat), (64, e.opc.toNat), (16, e.vl.toNat), (16, e.vtype.toNat),
     (8, e.mvl.toNat), (16, e.mtype.toNat), (16, e.elem.toNat), (8, e.status.toNat), (5, e.nfault.toNat),
     (1, if e.fovf then 1 else 0), (42, e.rsv.toNat)])

/-- The entry that 48 bytes hold. -/
def Entry.ofNat (n : Nat) : Entry :=
  { insn := BitVec.ofNat 64 n, opa := BitVec.ofNat 64 (n / 2 ^ 64), opb := BitVec.ofNat 64 (n / 2 ^ 128),
    opc := BitVec.ofNat 64 (n / 2 ^ 192), vl := BitVec.ofNat 16 (n / 2 ^ 256), vtype := BitVec.ofNat 16 (n / 2 ^ 272),
    mvl := BitVec.ofNat 8 (n / 2 ^ 288), mtype := BitVec.ofNat 16 (n / 2 ^ 296), elem := BitVec.ofNat 16 (n / 2 ^ 312),
    status := BitVec.ofNat 8 (n / 2 ^ 328), nfault := BitVec.ofNat 5 (n / 2 ^ 336), fovf := n.testBit 341,
    rsv := BitVec.ofNat 42 (n / 2 ^ 342), issued := false, paddrs := [], pos := none, since := 0, limit := 0, restored := true, place := 0 }

/-- First byte of the image of a context area. -/
def imageBase (area : Nat) : Nat := area + 0x800

/-- The 64-byte header (Table 1.10). -/
def imageHeader (count cls : Nat) (xpend fpend : Half) : List Byte :=
  leBytes 64 (packFields [(8, count), (56, cls), (32, (xpend &&& ~~~ (1 : Half)).toNat), (32, 0), (32, fpend.toNat)])

/-- The major of the word that an entry holds (R47). -/
def Entry.major (e : Entry) : Nat := bitsOf e.insn.toNat 31 26

/-- The largest ELEM of an entry: its VL, or its MVL for a tensor entry (Table 1.11). -/
def Entry.bound (e : Entry) : Nat := if e.major = 0x3C then e.mvl.toNat else e.vl.toNat

/-- An entry as it is saved: a partly done entry keeps its element, and nothing of an access in progress stays. ELEM is within its bound (Table
1.11): an entry whose start lies beyond it has no element to do (R179). One restored from an image stays as software may have altered it, for
R37 to judge. -/
def Entry.saved (e : Entry) : Entry :=
  { e with
    elem := if e.restored then e.elem else BitVec.ofNat 16 (min e.elem.toNat e.bound)
    issued := false, paddrs := [], since := 0, limit := 0, restored := true }

/-- Writes the image of entries to a context area. -/
def State.putImage (s : State) (area : Nat) (cls : Cls) (es : List Entry) (xpend fpend : Half) : State :=
  s.writeOwn (imageBase area) (imageHeader es.length cls.code xpend fpend ++ (es.map Entry.bytes).flatten)

/-- COUNT of a saved image, as its header's bits 5:0 read. -/
def State.imageCount (s : State) (area : Nat) : Nat := s.readNat (imageBase area) 1 % 64

/-- CLS of a saved image. -/
def State.imageCls (s : State) (area : Nat) : Nat := s.readNat (imageBase area + 1) 1 % 4

/-- XPEND of a saved image; its bit 0 is 0. -/
def State.imageXpend (s : State) (area : Nat) : Half := BitVec.ofNat 32 (s.readNat (imageBase area + 8) 4) &&& ~~~ (1 : Half)

/-- FPEND of a saved image. -/
def State.imageFpend (s : State) (area : Nat) : Half := BitVec.ofNat 32 (s.readNat (imageBase area + 16) 4)

/-- The entries of a saved image, each at its position in it. -/
def State.imageEntries (s : State) (area : Nat) : List Entry :=
  (List.range (s.imageCount area)).map fun i => { Entry.ofNat (s.readNat (imageBase area + 64 + 48 * i) 48) with place := i }

/-- COUNT reads 0 from here on (R449). -/
def State.clearImage (s : State) (area : Nat) : State := s.writeOwn (imageBase area) [Mem.get s.mem (imageBase area) &&& 0xC0]

/-- What a delegated trap holds, wherever it lies, as saved entries. -/
def State.heldEntries (s : State) (h : Hart) : List Entry :=
  match h.held, h.area with
  | .none, _ => []
  | .queue es, _ => es.map Entry.saved
  | .area, some a => (s.imageEntries a).take h.imgHeld
  | .area, none => []

/-- The hart's queue goes to its image area, what a delegated trap holds before the hart's own entries (R448, R450); its
registers are no longer pending. `imgHeld` remembers how many entries were held. -/
def State.saveImage (s : State) (k : HartKey) : State :=
  match s.hart? k with
  | none => s
  | some h =>
    match h.area with
    | none => s
    | some a =>
      let held := s.heldEntries h
      let cls := if h.held == .area && h.queue.isEmpty then h.heldCls.toNat else h.cls.code
      let s := s.writeOwn (imageBase a) (imageHeader (held.length + h.queue.length) cls h.xpend h.fpend ++
        ((held ++ h.queue.map Entry.saved).map Entry.bytes).flatten)
      s.modHart k fun h => { h with queue := [], held := .none, imgHeld := held.length, xpend := 0, fpend := 0 }

/-! ### Scalar context (R426, R443) -/

/-- Packed word A of Table 17.7. -/
def Csrs.packA (c : Csrs) : Nat :=
  packFields [(9, c.fcsr.toNat), (9, c.vfcsr.toNat), (10, c.vl.toNat), (4, c.vtype.toNat), (10, c.vstart.toNat), (8, c.mvl.toNat),
    (4, c.tfmt.toNat), (1, if c.mm then 1 else 0), (1, if c.cfien then 1 else 0), (1, bitsOf c.udeleg.toNat 10 10),
    (1, bitsOf c.udeleg.toNat 11 11), (3, bitsOf c.udeleg.toNat 17 15)]

/-- Packed word B. -/
def Hart.packB (h : Hart) : Nat :=
  packFields [(8, h.csr.ucause.toNat), (8, h.csr.ecause.toNat), (8, h.estatus.toNat), (10, h.csr.asid.toNat),
    (1, if h.csr.pin then 1 else 0), (1, if h.csr.fix then 1 else 0), (1, if h.csr.step then 1 else 0)]

/-- The doublewords of a transfer record (Table 17.7). -/
def Hart.record (h : Hart) : List Nat :=
  (h.x.toList.drop 1).map (·.toNat) ++ h.f.toList.map (·.toNat) ++
  [h.pc.toNat, h.csr.tick.toNat, h.csr.migcount.toNat, h.csr.uvec.toNat, h.csr.uepc.toNat, h.csr.uinfo.toNat, h.csr.uaddr.toNat,
   h.csr.stklim.toNat, h.csr.eptlim.toNat, h.csr.evec.toNat, h.csr.epc.toNat, h.csr.einfo.toNat, h.csr.eaddr.toNat,
   h.csr.escratch.toNat, h.csr.root.toNat * 4096, h.csr.packA, h.packB] ++
  (h.slots.toList.map fun r => [r.base.toNat, r.len, match r.handle with | some d => d.toNat + 0x10000 | none => 0]).flatten ++
  ((List.range 8).map fun n =>
    match h.eng.arrivals[n]? with
    | some (a, p) => [a.toNat, p.toNat + 2 ^ 32]
    | none => [0, 0]).flatten ++
  [h.sched.win.count, h.sched.win.v, h.sched.win.m, h.sched.win.missH, h.sched.win.missW, h.sched.win.streak,
   h.sched.hintClass.toNat + (match h.sched.hintPlace with
     | some (d, some c) => 256 * (c + 4 * d + 32)
     | some (d, none) => 256 * (4 * d)
     | none => 0), h.key.id + 2 ^ 32 * h.task.toNat]

/-- The records of copy barriers, streams, receive queues and open strips that a saved hart leaves in its context area, in doublewords: what
the hart alone changes of them, so that they stand as long as it is saved. Their layout is the model's own (log 59). -/
def Engine.record (e : Engine) : List Nat :=
  e.cb.toList.map (·.exp) ++
  (e.streams.toList.flatMap fun t =>
    match t with
    | some u => [1 + 2 * u.fmt.toNat, u.base.toNat, u.length, u.s0.toNat, u.s1.toNat, u.s2.toNat, u.c0, u.c1, u.pos]
    | none => List.replicate 9 0) ++
  (e.rx.toList.flatMap fun t =>
    match t with
    | some q => [1 + (if q.notify then 2 else 0) + 4 * q.sizeLog, q.base.toNat, q.head, q.off]
    | none => List.replicate 4 0) ++
  ((List.range 8).flatMap fun n =>
    match e.strips[n]? with
    | some (f, i) => [f.toNat, i + 1]
    | none => [0, 0])

/-- Mailbox entries as the context area holds them, the oldest first (Table 18.5). -/
def mailBytes (l : List Mail) : List Byte := l.flatMap fun m => leBytes 8 m.lo.toNat ++ leBytes 8 m.hi.toNat

/-- A check value over doublewords: it changes with each of them and with their order (log 59). -/
def checkWord (l : List Nat) : Nat := l.foldl (fun c w => (c * 31 + w + 1) % 2 ^ 64) 0

/-- The regions of a context area that software must not change while the hart is saved, and that are checked (Table 18.5): their offsets, the
doublewords that hardware writes there, and the offset of the check value, which is the last doubleword of the region. -/
def Hart.checkedParts (h : Hart) : List (Nat × List Nat × Nat) := [(0, h.record, 0x7F8), (0x1600, h.eng.record, 0x1FF8)]

/-- The writes that save a hart's scalar context, records and mailbox: offset in the context area and bytes. -/
def Hart.contextParts (h : Hart) : List (Nat × List Byte) :=
  (0x1200, mailBytes h.eng.mbx) :: h.checkedParts.flatMap fun x =>
    [(x.1, x.2.1.flatMap (leBytes 8)), (x.2.2, leBytes 8 (checkWord (x.2.1.map (· % 2 ^ 64))))]

/-- Writes the scalar context, the records and the mailbox to the context area. -/
def State.saveContext (s : State) (k : HartKey) : State :=
  match s.hart? k with
  | none => s
  | some h =>
    match h.area with
    | none => s
    | some a => h.contextParts.foldl (fun (s : State) x => s.writeOwn (a + x.1) x.2) s

/-- Both checked regions of the hart's context area pass their check, and can be read (R443, R500). -/
def State.contextGood (s : State) (h : Hart) : Bool :=
  match h.area with
  | none => true
  | some a => h.checkedParts.all fun x =>
      (List.range (x.2.1.length / 8 + 1)).all (fun i => !s.corrupted (a + x.1 + 64 * i)) && s.readNat (a + x.2.2) 8 == checkWord ((List.range x.2.1.length).map fun n => s.readNat (a + x.1 + 8 * n) 8)

end Sys2Proof.Machine
end

