-- ==== Sys2Proof/Machine/Collie.lean ====
section
/-! DEFINITION. Collie and the Retriever: which hart holds which slot, and how a hart moves (R409 to R433, R451). -/

namespace Sys2Proof.Machine

/-! ### Slots for harts -/

/-- The cluster of a core lies in a partition's allowed set (R410). -/
def State.allowed (s : State) (p : Fin 17) (core : Nat) : Bool := (s.part p).ctl.clusters.getLsbD (clusterOf core)

/-- A core belongs to a live die and is not fenced (R501, R384). -/
def State.usable (s : State) (core : Nat) : Bool :=
  !s.fenced core && (if h : dieOf core < 6 then s.alive (.die ⟨dieOf core, h⟩) else false)

/-- The hart is eligible for a slot on a core (R414). -/
def State.eligible (s : State) (h : Hart) (core : Nat) : Bool :=
  s.allowed h.key.part core && s.usable core && h.area.isSome && (s.part h.key.part).state == .running &&
  (if h.sched.status == .readyForClass then
     (match h.sched.missed with
      | some i => implements (clsOf core) i
      | none => (clsOf core).code == h.heldCls.toNat)
   else if h.sched.newHart then
     (match s.taskOf h with
      | some t => t.cls == 3 || (clsOf core).code == t.cls
      | none => false)
   else clsOf core == clsOf h.sched.lastCore)

/-- A slot is free (R424). -/
def State.slotFree (s : State) (i : SlotId) : Bool := (s.slot i).occupant.isNone && (s.slot i).reserved.isNone

/-- Free slots on the cores that a test selects. -/
def State.freeSlots (s : State) (sel : Nat → Bool) : List SlotId :=
  ((List.range 848).filter sel).flatMap fun c => (slotIds c).filter s.slotFree

/-- The nearest slot to a core: ties go to the lowest core, then to the lowest slot (R424). -/
def State.nearest (s : State) (core : Nat) (l : List SlotId) : Option SlotId :=
  firstBy (fun a b =>
    if s.distance core a.core ≠ s.distance core b.core then decide (s.distance core a.core < s.distance core b.core)
    else if a.core ≠ b.core then decide (a.core < b.core)
    else decide (a.slot < b.slot)) l

/-- The hart is in one of the states that wait for a slot. -/
def Hart.wantsSlot (h : Hart) : Bool := h.sched.status == .ready || h.sched.status == .readyForClass || h.sched.status == .created

/-- Registers that the last hint.live marked live are pulled at an arrival (R335, R427). -/
def State.pullLive (s : State) (k : HartKey) (i : SlotId) : State :=
  match s.hart? k with
  | none => s
  | some h => (List.finRange 32).foldl (fun s n => if h.sched.hintLive.getLsbD n.val then s.pullV i h n else s) s

/-- Vector state at a slot that a hart takes: a new hart and a moving hart get it as the Retriever gives it (R20, R46); a
resumed one keeps what vown says, but a slot of another partition is written back and freed (R452). -/
def State.vectorArrival (s : State) (h : Hart) (i : SlotId) (moving : Bool) : State :=
  let s := s.recallState h i
  let x := s.slot i
  if h.sched.newHart then ((s.writeBack i).disown i).claimFresh i h
  else if moving then
    if x.names h then s else if (clsOf i.core) = .mastiff then ((s.writeBack i).disown i).claim i h
    else (((s.writeBack i).disown i).claim i h).pullLive h.key i
  else if x.valid && x.owner != h.key.part then (s.writeBack i).disown i
  else s

/-- A hart takes a slot and runs (R413, R414). A resumed hart restores its saved image at its next turn. -/
def State.takeSlot (s : State) (k : HartKey) (i : SlotId) : State :=
  match s.hart? k with
  | none => s
  | some h =>
    let moving := h.sched.status == .readyForClass || h.sched.status == .moving
    let s := s.vectorArrival h i moving
    let s := s.putSlot { s.slot i with occupant := some k, reserved := none, since := s.time, quantum := s.time }
    let s := s.modHart k fun h =>
      { h with
        sched := { h.sched with
          status := .running, slot := some i, home := (if h.sched.newHart then i.core else h.sched.home), lastCore := i.core,
          aged := 0, target := none, newHart := false, preempting := false,
          hintLive := (if moving then 0 else h.sched.hintLive),
          stepMove := h.sched.stepMove || (moving && h.sched.cause != .hint && h.sched.cause != .mix) }
        stall := false }
    s.regrant i.core

/-! ### Freeing a slot (R416, R417) -/

/-- Partitions, by number, in the order of grant(c): ascending after the pointer, wrapping. -/
def afterPtr (ptr : Nat) : List (Fin 16) :=
  ((List.finRange 16).filter fun p => ptr < p.val) ++ ((List.finRange 16).filter fun p => p.val ≤ ptr)

/-- Harts of a partition that are eligible for a core, first-ranked first. -/
def State.candidates (s : State) (p : Fin 17) (core : Nat) : List Hart :=
  s.harts.filter fun h => h.key.part == p && h.wantsSlot && s.eligible h core

/-- Deficits at zero for partitions without a ready hart (R416). -/
def State.resetDeficits (s : State) : State :=
  (List.finRange 16).foldl (fun s p =>
    if s.harts.any fun h => h.key.part == partNo p && h.wantsSlot then s else s.modPart (partNo p) fun q => { q with deficit := 0 }) s

/-- The partition that grant(c) chooses, and the deficits and the pointer it leaves. `fuel` bounds the rounds of
additions: 256 of them suffice, since every weight is at least 1. -/
def chooseTurn (weight : Fin 16 → Nat) (e : List (Fin 16)) : Nat → List (Fin 16 × Nat) → Option (Fin 16 × List (Fin 16 × Nat))
  | 0, _ => none
  | n + 1, d =>
    match e.find? fun p => decide (256 ≤ (d.lookup p).getD 0) with
    | some p => some (p, d.map fun x => if x.1 == p then (x.1, x.2 - 256) else x)
    | none => chooseTurn weight e n (d.map fun x => if e.contains x.1 then (x.1, x.2 + weight x.1) else x)

/-- grant(c) for a free slot (R416): the hart that takes it, and the state with the deficits and the pointer moved on. The
occupant of the slot may compete as a ready hart (R417); `sel` restricts the partitions that compete. -/
def State.grantChoice (s : State) (core : Nat) (extra : Option Hart) (sel : Fin 16 → Bool) : State × Option HartKey :=
  let cand := fun p : Fin 16 =>
    s.candidates (partNo p) core ++ (match extra with | some h => if h.key.part == partNo p then [h] else [] | none => [])
  let e := (afterPtr s.ptr).filter fun p => sel p && !(cand p).isEmpty
  if e.isEmpty then (s.resetDeficits, none)
  else
    let d := (List.finRange 16).map fun p => (p, (s.part (partNo p)).deficit)
    match chooseTurn (fun p => (s.part (partNo p)).ctl.weight.toNat) e 300 d with
    | none => (s, none)
    | some (p, d) =>
      let s := { s with ptr := p.val, parts := Vector.ofFn fun q : Fin 17 =>
        { s.parts[q] with deficit := if h : q.val < 16 then (d.lookup ⟨q.val, h⟩).getD 0 else 0 } }
      (s, (firstBy s.before (cand p)).map (·.key))

/-- Runs grant(c) for a slot that is free. -/
def State.grant (s : State) (i : SlotId) : State :=
  if s.slotFree i then
    match s.grantChoice i.core none fun _ => true with
    | (s, some k) => (s.takeSlot k i).resetDeficits
    | (s, none) => s
  else s

/-- The occupant leaves its slot; its vector state stays there under vown. -/
def State.leaveSlot (s : State) (k : HartKey) : State :=
  match (s.hart? k).bind fun h => h.sched.slot with
  | none => s
  | some i =>
    let s := s.putSlot { s.slot i with occupant := none }
    let s := s.modHart k fun h => { h with sched := { h.sched with slot := none, lastCore := i.core, swapSlot := some i } }
    s.regrant i.core

/-- The occupant leaves its slot and grant(c) runs for it (R417). -/
def State.releaseSlot (s : State) (k : HartKey) : State :=
  match (s.hart? k).bind fun h => h.sched.slot with
  | none => s
  | some i => (s.leaveSlot k).grant i

/-- The strip buffers of a hart are dropped, as at every save and move (R264). -/
def Hart.dropStrips (h : Hart) : Hart :=
  { h with eng := { h.eng with streams := h.eng.streams.map fun t => t.map fun u => { u with buf := [] } } }

/-- The queue of a hart that is stopped at S goes to its image area (R35, R451), behind the entries of the trap that it handles, which stay there;
where the 32 places do not hold both, it stays with the hart (log 10). -/
def State.saveOwnImage (s : State) (h : Hart) : State :=
  let kept := s.modHart h.key fun g => { g with queue := g.queue.map Entry.saved }
  match h.area, h.imgOuter with
  | some a, none =>
    let n := s.imageCount a
    if h.queue.isEmpty || decide (32 < n + h.queue.length) then kept
    else
      let s := s.writeOwn (imageBase a + 64 + 48 * n) ((h.queue.map Entry.saved).map Entry.bytes).flatten
      let s' := s.writeOwn (imageBase a) (imageHeader (n + h.queue.length) h.cls.code (s.imageXpend a ||| h.xpend) (s.imageFpend a ||| h.fpend))
      s'.modHart h.key fun g => { g with queue := [], imgOuter := some (n, Mem.bytes s.mem (imageBase a) 64) }
  | some _, some _ => kept
  | none, _ => kept

/-- The hart is stopped and saved (R451). It ends its reservation (R161). Of one that has not restored its image yet, the image stays as it is. -/
def State.stopHart (s : State) (k : HartKey) : State :=
  match s.hart? k with
  | none => s
  | some h =>
    let s := if h.sched.resume then s else if h.level == .t then s.saveImage k else s.saveOwnImage h
    let s := s.modHart k fun h =>
      { h.dropStrips with
        resv := none
        checked := []
        req := if h.sent then h.req else .none
        fwcall := none
        stall := false
        sched := { h.sched with resume := true } }
    let s := { s with tlbinvs := s.tlbinvs.filter fun t => t.hart != k }
    s.saveContext k

/-- The hart's place in Collie's ready list; one that is there already keeps it (R415). -/
def State.setReady (s : State) (k : HartKey) : State :=
  s.modHart k fun h =>
    { h with
      sched := if h.wantsSlot then { h.sched with status := if h.sched.status == .created then .ready else h.sched.status }
               else { h.sched with status := .ready, readySince := s.time, aged := 0 }
      waitFor := none }

/-- The free slot that a ready hart takes at once (R414, R417). -/
def State.freeFor (s : State) (h : Hart) : Option SlotId := s.nearest h.sched.lastCore (s.freeSlots (s.eligible h))

/-- A class miss of the hart is waiting for its drain or for a slot, so that what would stop the hart is held (R45). -/
def Hart.missing (h : Hart) : Bool := h.sched.missed.isSome && !h.sched.stepMove

/-- The occupant that R418 pre-empts for a hart: every eligible slot is held by a lower-ranked running hart of its partition,
and no run-to-completion hart is taken; for a run-to-completion hart, the lowest-ranked ordinary occupant, running or waiting (R433). -/
def State.preemptee (s : State) (h : Hart) : Option Hart :=
  let slots := ((List.range 848).filter (s.eligible h)).flatMap slotIds
  let occ := slots.map fun i => (s.slot i).occupant.bind s.hart?
  let lower := occ.filterMap fun o => o.bind fun g =>
    if g.key.part == h.key.part && (g.sched.status == .running || (h.rtc && g.sched.status == .waiting)) && s.before h g && !g.rtc then some g else none
  if h.rtc || (lower.length == slots.length) then firstBy (fun a b => s.before b a) lower else none

/-- A ready hart takes a free slot, or pre-empts (R417, R418). A pre-emption of a hart that drains for a class miss (R45), or whose AtomicOp is out
(R164), is held, and made when that is over. -/
def State.placeReady (s : State) (k : HartKey) : State :=
  match s.hart? k with
  | none => s
  | some h =>
    if !h.wantsSlot || (s.part k.part).state != .running then s
    else
      match s.freeFor h with
      | some i => s.takeSlot k i
      | none =>
        match s.preemptee h with
        | none => s
        | some g =>
          match g.sched.slot with
          | none => s
          | some i =>
            if g.sent || g.missing then s.modHart k fun h => { h with sched := { h.sched with preempting := true } }
            else (((s.stopHart g.key).leaveSlot g.key).setReady g.key).takeSlot k i

/-- Pre-emptions that have been held are made where they can be, and lapse where nothing is left to pre-empt (R45). -/
def State.retryPreempts (s : State) : State :=
  ((s.harts.filter fun (h : Hart) => h.sched.preempting).map fun (h : Hart) => h.key).foldl
    (fun s k => (s.modHart k fun h => { h with sched := { h.sched with preempting := false } }).placeReady k) s

/-- A hart becomes ready (R413). -/
def State.makeReady (s : State) (k : HartKey) : State := (s.setReady k).placeReady k

/-- An event for a hart that is parked makes it ready (R419); a hint.pause ends. -/
def State.wake (s : State) (k : HartKey) : State :=
  match s.hart? k with
  | none => s
  | some h => if h.sched.status == .parked then s.makeReady k else s

/-- The end of a quantum (R417): where an eligible ready hart exists, grant(c) runs for the slot with the occupant counted as ready
since it took the slot; an occupant that is not chosen is stopped and saved and becomes ready. A run-to-completion hart keeps its slot
(R318, R433; log 54). An occupant that is chosen begins a new quantum, and its ready time stays that at which it took the slot. -/
def State.endQuantum (s : State) (k : HartKey) (sel : Fin 16 → Bool) : State :=
  match s.hart? k with
  | none => s
  | some h =>
    match h.sched.slot with
    | none => s
    | some i =>
      if h.rtc || !(List.finRange 16).any fun p => sel p && !(s.candidates (partNo p) i.core).isEmpty then s
      else
        match s.grantChoice i.core (some { h with sched := { h.sched with readySince := (s.slot i).since, aged := 0 } }) sel with
        | (s, none) => s
        | (s, some c) =>
          if c == k then s.putSlot { s.slot i with quantum := s.time }
          else ((((s.stopHart k).leaveSlot k).setReady k).takeSlot c i).resetDeficits.placeReady k

/-- Context areas that are free go to the harts of the partition that wait for one, in the order of creation (R443). -/
def State.assignAreas (s : State) (p : Fin 17) : State :=
  let ks := (s.harts.filter fun h => h.key.part == p && h.area.isNone).map (·.key)
  ks.foldl (fun s k =>
    match (s.part p).areas with
    | [] => s
    | a :: l => ((s.modPart p fun q => { q with areas := l }).modHart k fun h => { h with area := some a }).makeReady k) s

/-! ### Moves (R424, R425) -/

/-- The candidate slots of a move from the hart's core. -/
def State.moveTarget (s : State) (h : Hart) (sel : Nat → Bool) : Option SlotId :=
  s.nearest h.core (s.freeSlots fun c => s.allowed h.key.part c && s.usable c && sel c)

/-- Entries that a delegated trap holds go to the image area, where they stay held (R513). At S that area may hold the image of the trap, and
entries kept back there stay with the hart (log 10). -/
def State.parkHeld (s : State) (h : Hart) : State :=
  match h.held, h.area with
  | .queue es, some a =>
    if h.level != .t then s
    else (s.putImage a h.cls (es.map Entry.saved) h.xpend h.fpend).modHart h.key fun g =>
      { g with held := .area, heldCls := BitVec.ofNat 2 h.cls.code, imgHeld := es.length }
  | .queue _, none => s
  | .none, _ => s
  | .area, _ => s

/-- The image of a hart at T that has drained and holds nothing: COUNT 0 (R35, R451). At S the area may hold the image of the trap. -/
def State.emptyImage (s : State) (k : HartKey) : State :=
  match s.hart? k with
  | none => s
  | some h =>
    match h.held, h.area with
    | .none, some a => if h.level == .t then s.putImage a h.cls [] h.xpend h.fpend else s
    | .none, none => s
    | .queue _, _ => s
    | .area, _ => s

/-- A hart whose queues have drained leaves for a reserved slot (Table 17.6, steps 3 to 5). Held entries go to the image area
and stay held (R513); its reservation ends (R161). A word that the landing check has read is dropped whatever the cause of the move, so that the
target core fetches it again (log 91). -/
def State.depart (s : State) (k : HartKey) (target : SlotId) (cause : MoveCause) : State :=
  match s.hart? k with
  | none => s
  | some h =>
    let s := s.putSlot { s.slot target with reserved := some k }
    let s := s.parkHeld h
    let s := match h.sched.slot with
      | some i => if (s.slot i).names h then (s.writeBack i).disown i else s
      | none => s
    let s := s.releaseSlot k
    s.modHart k fun h =>
      { h.dropStrips with
        resv := none
        checked := []
        stall := false
        sched := { h.sched with status := .moving, target := some target, cause := cause, slot := none, goClass := none, goPlace := false } }

/-- The transfer ends: the hart occupies its target (R46, R425). A hint or a window end counts the migration here; a class miss
counts it when its instruction executes (R40). While its partition is swapped out, a hart that does not run to completion stays in transit (R455). -/
def State.arrive (s : State) (k : HartKey) : State :=
  match s.hart? k with
  | none => s
  | some h =>
    match h.sched.status == .moving && ((s.part k.part).state == .running || h.rtc), h.sched.target with
    | true, some i =>
      let s := s.takeSlot k i
      if h.sched.cause = .hint || h.sched.cause = .mix then
        s.modHart k fun h => { h with csr := { h.csr with migcount := h.csr.migcount + 1 } }
      else s
    | true, none => s
    | false, _ => s

/-- The quantum of a running hart is over (R417). -/
def State.quantumOver (s : State) (h : Hart) : Bool :=
  match h.sched.slot with
  | none => false
  | some i =>
    h.sched.status == .running && !h.rtc && h.key.part != 16 &&
    decide ((s.slot i).quantum + (s.part h.key.part).ctl.quantum.toNat * 1000 ≤ s.time)

/-- A class miss with its queues drained: the nearest free slot of a core that serves, or ready-for-class (R40, R424). A quantum that has ended
during the drain is remembered (R45). An image that the hart is to re-issue elsewhere stays as it is (R37). -/
def State.missMove (s : State) (k : HartKey) (sel : Nat → Bool) (missed : Option Instr) (cause : MoveCause) : State :=
  match s.hart? k with
  | none => s
  | some h =>
    let s := s.modHart k fun h => { h with sched := { h.sched with missed := missed, cause := cause, rotate := cause == .classMiss && s.quantumOver h } }
    match s.moveTarget h sel with
    | some i => s.depart k i cause
    | none =>
      let s := s.modHart k fun h => { h.dropStrips with resv := none, checked := [] }
      let s := if cause = .image then s.parkHeld h else (s.parkHeld h).emptyImage k
      let s := s.saveContext k
      let s := s.modHart k fun h => { h with sched := { h.sched with status := .readyForClass, readySince := s.time, aged := 0, resume := true }, stall := false }
      s.releaseSlot k

/-! ### Swap-out (R455) -/

/-- Slots reserved for a hart fall free, and grant(c) runs for them (R417). -/
def State.unreserve (s : State) (k : HartKey) : State :=
  let mine := (s.slots.filter fun x => x.reserved == some k).map (·.id)
  let s := { s with slots := s.slots.map fun (x : Slot) => if x.reserved == some k then { x with reserved := none } else x }
  mine.foldl State.grant s

/-- The bytes of shadow storage that concern a partition on a die reach their context areas (R455). Where the die's shadow storage holds an
uncorrectable error, they come with it, so that the restore finds it (R443, R500). -/
def State.unshadow (s : State) (sel : Shadow → Bool) : State :=
  let spoilt := (s.shadow.filter sel).filter fun x => s.broken.contains (.shadow x.die)
  let s' := { s with
    shadow := s.shadow.filter fun x => !sel x
    corrupt := spoilt.flatMap (fun x => x.areas.map fun a => sectorOf a.1) ++ s.corrupt
    broken := s.broken.filter fun b => !spoilt.any fun x => b == .shadow x.die }
  ((s.shadow.filter sel).flatMap (·.areas)).foldl (fun (s : State) x => s.writeOwn x.1 x.2) s'

/-- What a swap-out has saved of a hart stands in the shadow storage of its die instead of its context area, whose bytes are again those of the
state before (R455). Each die holds two partitions: a third one first sends the oldest to its context areas. -/
def State.toShadow (s before : State) (h : Hart) : State :=
  match (s.hart? h.key).bind (·.area) with
  | none => s
  | some a =>
    let d := dieOf h.core
    let parts := (imageBase a, 64 + 48 * s.imageCount a) :: ((h.contextParts.drop 1).map fun x => (a + x.1, x.2.length))
    let held := parts.map fun x => (x.1, Mem.bytes s.mem x.1 x.2)
    let others := ((s.shadow.filter fun x => x.die = d && x.part != h.key.part).map (·.part)).eraseDups
    let s := match others with
      | p :: _ :: _ => s.unshadow fun x => decide (x.die = d) && x.part == p
      | _ => s
    let s := parts.foldl (fun (s : State) x => s.writeOwn x.1 (Mem.bytes before.mem x.1 x.2)) s
    { s with shadow := s.shadow ++ [{ die := d, part := h.key.part, areas := held }] }

/-- A hart in transit stops before its transfer ends: it is saved, one that a miss or an image carries stays bound to its class, and its
slot falls free. -/
def State.haltTransit (s : State) (h : Hart) : State :=
  let t := ((if h.sched.cause = .image then s else s.emptyImage h.key).saveContext h.key).modHart h.key fun g =>
    { g with sched := { g.sched with
        status := if g.sched.cause == MoveCause.classMiss || g.sched.cause == MoveCause.image then .readyForClass else .ready
        target := none, readySince := s.time, aged := 0, resume := true } }
  t.unreserve h.key

/-- A hart of a partition that is swapped out stops where it is (R451; Table 18.9, step 2): a waiting instruction has no effect, and the hart keeps its
slot until the slots are freed. A run-to-completion hart goes on. -/
def State.haltHart (s : State) (k : HartKey) : State :=
  s.modHart k fun h =>
    if h.rtc || h.sched.slot.isNone then h
    else { h with waitFor := none, stall := false, sched := { h.sched with status := .ready, readySince := s.time, aged := 0 } }

/-- A hart's state goes to shadow storage (Table 18.9, step 3); one in transit stops before its transfer ends, and one that a miss or an image carries
stays bound to its class. -/
def State.shadowHart (s : State) (k : HartKey) : State :=
  match s.hart? k with
  | none => s
  | some h =>
    if h.sched.slot.isSome then (s.stopHart k).toShadow s h
    else if h.sched.status == .moving then (s.haltTransit h).toShadow s h
    else s

/-- Every core that ran a hart of the partition is halted (Table 18.9, step 3). -/
def State.halted (s : State) (p : Fin 17) : Bool :=
  !s.harts.any fun (h : Hart) => h.key.part == p &&
    (h.sched.status == .running || h.sched.status == .waiting || (h.sched.status == .moving && h.rtc))

end Sys2Proof.Machine
end

