-- ==== Sys2Proof/Machine/Notify.lean ====
section
/-! DEFINITION. Interrupts, the partition fault queue, mailboxes, the end of a hart and of a partition. -/

namespace Sys2Proof.Machine

/-! ### Interrupts (R447) -/

/-- The list with a source added, lowest first, each once: one that is raised again before it is taken gives one trap (DESIGN CHOICE, log 107). -/
def addSource (n : Nat) : List Nat → List Nat
  | [] => [n]
  | a :: l => if n < a then n :: a :: l else if n = a then a :: l else a :: addSource n l

/-- Raises an interrupt on a live hart: it is held with the hart, ends a hint.pause, and makes a parked hart ready. -/
def State.raise (s : State) (k : HartKey) (src : Nat) : State :=
  match s.hart? k with
  | none => s
  | some _ =>
    (s.modHart k fun h => { h with irqs := addSource src h.irqs, stall := false, sched := { h.sched with pauseUntil := none } }).wake k

/-! ### Fault queue (R444 to R446) -/

/-- Fields of a fault-queue record that a kind uses (Table 18.7); the others are 0. -/
structure FaultRecord where
  kind : Nat
  reason : Nat
  side : Nat := 0
  vault : Nat := 0
  inc : Nat := 0
  agent : Nat := 0
  aux : Nat := 0
  hart : Nat := 0
  id : Nat := 0
  addr : Nat := 0
  bitmap : Nat := 0
deriving DecidableEq, Repr

/-- The 64 bytes of a record. -/
def FaultRecord.bytes (r : FaultRecord) : List Byte :=
  leBytes 64 (packFields [(8, r.kind), (8, r.reason), (1, r.side), (7, 0), (8, r.vault), (16, r.inc), (8, r.agent), (200, 0),
    (64, r.aux), (32, r.hart), (32, r.id), (64, r.addr), (64, r.bitmap)])

/-- Physical base of a partition's queue. -/
def FaultQueue.addr (q : FaultQueue) : Nat := q.base.toNat * 4096

/-- Writes a record (R445): dropped with OVF when the queue is off or full; into an empty queue with IRQ set it raises
FAULT_QUEUE on hart NOTIFY. The count of the record in the queue is the value of TAIL it was given. -/
def State.faultRecord (s : State) (p : Fin 17) (r : FaultRecord) : State :=
  let q := (s.part p).fq
  let tail := s.readNat q.addr 4
  let head := s.readNat (q.addr + 8) 4
  let used := (tail + 2 ^ 32 - head) % 2 ^ 32
  if !q.en || used = 2 ^ q.sizeLog.toNat then s.modPart p fun x => { x with fq := { x.fq with ovf := true } }
  else
    let s := (s.writeOwn (q.addr + 64 + 64 * (tail % 2 ^ q.sizeLog.toNat)) r.bytes).writeOwn q.addr (leBytes 4 ((tail + 1) % 2 ^ 32))
    if q.irq && used = 0 then s.raise { part := p, id := s.readNat (q.addr + 16) 4 } 1 else s

/-- A lost-write record (R385). -/
def lostWriteRecord (addr sectors vault agent inc : Nat) : FaultRecord :=
  { kind := 5, reason := 7, vault := vault, inc := inc, agent := agent, aux := sectors, addr := addr }

/-- TAIL of a partition's fault queue. -/
def State.faultTail (s : State) (p : Fin 17) : Nat := s.readNat (s.part p).fq.addr 4

/-! ### End of a hart and of a partition -/

/-- A hart leaves the machine with everything it owned but its copies (R317); its context area is free again. -/
def State.removeHart (s : State) (k : HartKey) : State :=
  match s.hart? k with
  | none => s
  | some h =>
    let s := s.modPart k.part fun p =>
      { p with
        areas := (match h.area with | some a => p.areas ++ [a] | none => p.areas)
        vaults := p.vaults.map fun v => if v.issuer == some k then { v with issuer := none } else v }
    let s := { s with slots := s.slots.map fun (x : Slot) => { x with valid := x.valid && !(x.owner == k.part && x.hart.toNat == k.id) } }
    let slot := h.sched.slot
    let s := match slot with
      | some i => s.putSlot { s.slot i with occupant := none }
      | none => s
    let s :=
      { s with
        harts := s.harts.filter fun g => g.key != k
        cur := if s.cur == some k then none else s.cur }
    let s := match slot with
      | some i => (s.regrant i.core).grant i
      | none => s
    (s.unreserve k).assignAreas k.part

/-- The partition ends (R510, TERMINATE): what has retired is performed, every hart ends, every walk finishes and every vault is dropped with write-back
and no message (R359), and its host queues stop. -/
def State.endPart (s : State) (p : Fin 17) : State :=
  let mine := s.harts.filter fun h => h.key.part == p
  let keys := mine.map (·.key)
  let s := (mine.flatMap (·.path)).foldl (fun s x =>
    match s.deadAt x.pa with
    | some (a, inc) => s.faultRecord p (lostWriteRecord (lostPlace x.pa x.vault).1 1 (lostPlace x.pa x.vault).2 (agentCode a) inc.toNat)
    | none => s.lastStore p x) s
  let s := s.modPart p fun q =>
    { q with
      state := .terminated
      tasks := []
      farms := []
      queues := q.queues.map fun h => { h with en := false, frozen := none }
      vaults := []
      swapping := false }
  let s := s.dropLines fun l => l.part == p
  let s :=
    { s with
      copies := s.copies.filter fun c => c.hart.part != p
      colls := s.colls.filter fun c => c.part != p
      collsOver := s.collsOver.filter fun c => c.1 != p
      tlb := s.tlb.filter fun e => e.part != p
      tlbinvs := s.tlbinvs.filter fun t => t.part != p }
  (keys.foldl State.removeHart s).giveUpZ

/-- Firmware terminates a partition and reports the cause and the pc (R325, R386, R428, R443). -/
def State.terminatePart (s : State) (p : Fin 17) (cause : BitVec 8) (epc : Word) : State :=
  ({ s.endPart p with pterm := s.pterm ||| BitVec.twoPow 16 p.val }).emit (.terminated p.val cause epc)

/-- Partitions in whose vector homes an uncorrectable error has been found end (R428). -/
def State.endLost (s : State) : State :=
  s.homeLost.foldl (fun s x => if (s.part x.1).state == .running || (s.part x.1).state == .swapped then s.terminatePart x.1 0x13 x.2 else s)
    { s with homeLost := [] }

/-! ### Lost writes (R385) -/

/-- A lost-write record, after which firmware terminates the partition (R385, R386). -/
def State.lostWrite (s : State) (p : Fin 17) (addr sectors vault agent inc : Nat) : State :=
  (s.faultRecord p (lostWriteRecord addr sectors vault agent inc)).terminatePart p 0 0

/-! ### Mailboxes (R265) -/

/-- An entry finds the mailbox and its spill area full. -/
def Hart.mailFull (h : Hart) : Bool := decide (64 ≤ h.eng.mbx.length) && decide (1024 ≤ h.eng.spill.length)

/-- An entry that spills is written to the spill area (Table 18.5). -/
def State.writeSpill (s : State) (h : Hart) (m : Mail) : State :=
  match h.area with
  | none => s
  | some a => s.writeOwn (a + 0x2000 + 16 * ((h.eng.spillAt + h.eng.spill.length) % 1024)) (mailBytes [m])

/-- The bytes that an entry leaves in the context area: in the spill area, or with the mailbox of a hart that holds no slot (R456). -/
def State.mirrorMail (s : State) (h : Hart) (m : Mail) : State :=
  if 64 ≤ h.eng.mbx.length || !h.eng.spill.isEmpty then s.writeSpill h m
  else
    match h.sched.slot, h.area with
    | none, some a => s.writeOwn (a + 0x1200 + 16 * h.eng.mbx.length) (mailBytes [m])
    | none, none => s
    | some _, _ => s

/-- An entry reaches a hart's mailbox or its spill area; it ends a hint.pause. A hart that is parked in waitmsg becomes ready by HART_WAKE: an
entry ends no other wait (R419). -/
def State.deliver (s : State) (k : HartKey) (m : Mail) : State :=
  let s := match s.hart? k with | some h => s.mirrorMail h m | none => s
  s.modHart k fun h =>
    { h with
      eng := if h.eng.mbx.length < 64 && h.eng.spill.isEmpty then { h.eng with mbx := h.eng.mbx ++ [m] }
             else { h.eng with spill := h.eng.spill ++ [m], ovf := true }
      stall := false
      sched := { h.sched with pauseUntil := none } }

/-- An entry whose sender holds it until there is room (R265). -/
def State.post (s : State) (k : HartKey) (m : Mail) : State := { s with posts := s.posts ++ [(k, m)] }

/-- Held entries reach their mailboxes, those for one hart in their order; an entry for a hart that is gone is dropped. -/
def State.deliverPosts (s : State) : State :=
  s.posts.foldl (fun s x =>
    match s.hart? x.1 with
    | none => s
    | some h => if h.mailFull || s.posts.any (fun y => y.1 == x.1) then s.post x.1 x.2 else s.deliver x.1 x.2) { s with posts := [] }

/-- Every stall is looked at again; each instruction that still waits stalls again without effect. -/
def State.unstall (s : State) : State := { s with harts := s.harts.map fun h => { h with stall := false } }

end Sys2Proof.Machine
end

