-- ==== Sys2Proof/Machine/Translate.lean ====
section
/-! DEFINITION. Translation, permissions and the vault check of an access (R434 to R442, R147, R152, R213). -/

namespace Sys2Proof.Machine

/-- In whose name an access is made: partition, address space, level, the core whose TLB serves it, and the home core. -/
structure Ctx where
  part : Fin 17
  asid : BitVec 10
  root : BitVec 44
  level : Level
  core : Nat
  home : Nat
deriving DecidableEq, Repr

/-- The context of a hart's own accesses. -/
def Hart.ctx (h : Hart) : Ctx :=
  { part := h.key.part, asid := h.csr.asid, root := h.csr.root, level := h.level, core := h.core, home := h.sched.home }

/-- What an access needs of its page (Table 18.2). -/
inductive Need where
  | load | store | atomic | fetch
deriving DecidableEq, Repr

/-- Bits 63:56 of the address are all equal (R147). -/
def canonical (va : Word) : Bool := va.toNat / 2 ^ 56 == 0 || va.toNat / 2 ^ 56 == 255

/-- Bytes of a leaf's page (R434). -/
def leafBytes (lv : Nat) (c64 : Bool) : Nat := if lv = 0 && c64 then 0x10000 else 4096 * 512 ^ lv

/-- Every byte of a page can be reached: HBM within the partition's ranges, bytes that exist in local stores, or host
memory (R436, R367, R511). -/
def State.pageReachable (s : State) (c : Ctx) (pa size : Nat) : Bool :=
  match placeOf pa with
  | .hbm _ =>
    let step := min size 0x200000
    (List.range (size / step)).all fun i =>
      (match placeOf (pa + i * step) with
       | .hbm _ => true | .store _ _ => false | .homeStore _ => false | .homeWindow _ => false | .host _ => false | .hole => false) &&
      (s.part c.part).desc.ranges.any fun r => decide (r.1 ≤ pa + i * step) && decide (pa + i * step + step ≤ r.1 + r.2)
  | .host _ => true
  | .hole => false
  | .store _ _ => decide (size ≤ 0x200000) && (List.range (size / 4096)).all fun i => (s.resolve c.home (pa + 4096 * i)).isSome
  | .homeStore _ => decide (size ≤ 0x200000) && (List.range (size / 4096)).all fun i => (s.resolve c.home (pa + 4096 * i)).isSome
  | .homeWindow _ => decide (size ≤ 0x200000) && (List.range (size / 4096)).all fun i => (s.resolve c.home (pa + 4096 * i)).isSome

/-- PPN of an entry. -/
def ptePpn (pte : Nat) : Nat := bitsOf pte 55 12

/-- The entry is malformed at a level (R436), but for the reach of its page. -/
def pteBad (pte lv : Nat) : Bool :=
  !pte.testBit 0 || bitsOf pte 11 9 != 0 || pte.testBit 6 ||
  (if pte.testBit 1 then
     decide (2 < lv) || (pte.testBit 8 && lv != 0) || (!pte.testBit 8 && ptePpn pte * 4096 % leafBytes lv false != 0)
   else lv == 0 || bitsOf pte 8 2 != 0 || bitsOf pte 63 56 != 0)

/-- The sixteen entries of a 64 KiB group agree (R436). -/
def State.groupGood (s : State) (table idx : Nat) : Bool :=
  let base := idx / 16 * 16
  let e := fun i => s.readNat (table + 8 * (base + i)) 8
  (List.range 16).all fun i =>
    (e i).testBit 8 && bitsOf (e i) 15 12 == i && (e i) - 4096 * bitsOf (e i) 15 12 == (e 0) - 4096 * bitsOf (e 0) 15 12

/-- The walk from a table at a level down (R434): a leaf's translation, or the level at which it fails. -/
def State.walk (s : State) (c : Ctx) (va : Nat) : Nat → Nat → Except Nat TlbEntry
  | n, t =>
    let t := (s.resolve c.home t).getD t
    let idx := va / 2 ^ (12 + 9 * n) % 512
    let pte := s.readNat (t + 8 * idx) 8
    if pteBad pte n then .error n
    else if pte.testBit 1 then
      let size := leafBytes n (pte.testBit 8)
      let base := ptePpn pte * 4096 / size * size
      if pte.testBit 8 && !s.groupGood t idx then .error n
      else if s.pageReachable c base size then
        .ok { core := c.core, part := c.part, asid := c.asid, global := pte.testBit 7, vpage := va / size * size, ppage := base,
              size := size, perm := BitVec.ofNat 8 pte, vault := BitVec.ofNat 8 (pte / 2 ^ 56) }
      else .error n
    else
      match n with
      | 0 => .error 0
      | m + 1 => if s.pageReachable c (ptePpn pte * 4096) 4096 then s.walk c va m (ptePpn pte * 4096) else .error (m + 1)

/-- A TLB entry of the core that serves the address (R439). -/
def State.tlbHit (s : State) (c : Ctx) (va : Nat) : Option TlbEntry :=
  s.tlb.find? fun e => e.core == c.core && e.part == c.part && (e.global || e.asid == c.asid) && decide (e.vpage ≤ va) && decide (va < e.vpage + e.size)

/-- The page permits the access (Table 18.2). -/
def permits (perm : BitVec 8) (level : Level) (n : Need) : Bool :=
  let rd := perm.getLsbD 2; let w := perm.getLsbD 3; let x := perm.getLsbD 4; let u := perm.getLsbD 5
  match n with
  | .load => rd && (level != .t || u)
  | .store => w && (level != .t || u)
  | .atomic => rd && w && (level != .t || u)
  | .fetch => x && (if level == .t then u else !u)

/-- Why an access is refused: a translation fault with REASON and LEVEL (Table 18.4), or a vault fault with its reason. -/
inductive Deny where
  | page (reason level : Nat)
  | vault (reason : Nat) (index : BitVec 8)
deriving DecidableEq, Repr

/-- A translated access: the physical address, aliases resolved, the page's vault index, and the page for the TLB. -/
structure Xlat where
  pa : Nat
  vault : BitVec 8
  entry : TlbEntry
deriving DecidableEq, Repr

/-- The virtual address of a translated access, from its page. -/
def Xlat.va (x : Xlat) : Word := (BitVec.ofNat 57 (x.entry.vpage + (x.pa - x.entry.ppage))).signExtend 64

/-- Whether the vault of a page takes part in accesses to an address (R153, R213). -/
def State.vaultCounts (s : State) (pa : Nat) : Bool := s.cached pa

/-- The vault check (R152): an undefined index, a vault being dropped, or a write to a read-only one. -/
def State.vaultCheck (s : State) (p : Fin 17) (index : BitVec 8) (pa : Nat) (write : Bool) : Option Deny :=
  if !s.vaultCounts pa || index = 255 then none
  else
    match (s.part p).vault? index with
    | none => some (.vault 0 index)
    | some v =>
      if v.state = .dropping then some (.vault 1 index)
      else if write && v.write = 3 then some (.vault 2 index)
      else none

/-- The level of the leaf that a TLB entry holds (R434). -/
def TlbEntry.level (e : TlbEntry) : Nat := if e.size = 4096 || e.size = 0x10000 then 0 else if e.size = 0x200000 then 1 else 2

/-- Translation without permission: canonical form, the asid's range, then the TLB, then the walk (R147, R438). M-level
firmware uses physical addresses (log 5). -/
def State.translate (s : State) (c : Ctx) (va : Word) : Except Deny Xlat :=
  if !canonical va then .error (.page 2 0xFF)
  else if c.level = .m then
    .ok { pa := va.toNat, vault := 255,
          entry := { core := c.core, part := c.part, asid := c.asid, global := false, vpage := va.toNat / 4096 * 4096,
                     ppage := va.toNat / 4096 * 4096, size := 4096, perm := 0xFF, vault := 255 } }
  else if !(s.part c.part).ownsAsid c.asid then .error (.page 0 0xFF)
  else
    let v := va.toNat % 2 ^ 57
    match (match s.tlbHit c v with | some e => Except.ok e | none => s.walk c v 4 (c.root.toNat * 4096)) with
    | .error lv => .error (.page 0 lv)
    | .ok e =>
      match s.resolve c.home (e.ppage + (v - e.vpage)) with
      | some pa => .ok { pa := pa, vault := e.vault, entry := e }
      | none => .error (.page 0 e.level)

/-- All the checks of an access: R147 steps 3 to 5. -/
def State.access (s : State) (c : Ctx) (va : Word) (n : Need) : Except Deny Xlat :=
  match s.translate c va with
  | .error d => .error d
  | .ok x =>
    if c.level = .m then .ok x
    else if !permits x.entry.perm c.level n then .error (.page 1 x.entry.level)
    else
      match s.vaultCheck c.part x.vault x.pa (n == .store || n == .atomic) with
      | some d => if n = .fetch then .ok x else .error d
      | none => .ok x

/-- A successful walk enters the core's TLB (R439). -/
def State.fillTlb (s : State) (x : Xlat) : State :=
  if s.tlb.contains x.entry then s else { s with tlb := x.entry :: s.tlb }

/-- The way of an access made in a context, through the caches. -/
def Ctx.via (c : Ctx) (vault : BitVec 8) : Via := { core := c.core, home := c.home, part := c.part, vault := vault }

/-- The way of a hart's scalar access through the caches. -/
def Hart.via (h : Hart) (x : Xlat) : Via := h.ctx.via x.vault

end Sys2Proof.Machine
end

