-- ==== Sys2Proof/Machine/Ops.lean ====
section
/-! DEFINITION. What every instruction shares: the checks before it, its end, taking a trap, returning from one, and
entering the vector queue. -/

namespace Sys2Proof.Machine

/-! ### Words of an instruction -/

/-- Length of an instruction in bytes (R47). -/
def instrLen (i : Instr) : Nat := 4 * (encode i).length

/-- Word 0, and word 1 above it for a 64-bit instruction (R50). -/
def instrWords (i : Instr) : Word :=
  match encode i with
  | [w0, w1] => app 32 32 w1 w0
  | [w0] => zext64 w0
  | _ => 0

/-! ### Traps (R325, R448, R137) -/

/-- A trap: its cause, einfo and eaddr, and whether a queued instruction raised it. -/
structure Trap where
  cause : BitVec 8
  info : Word
  addr : Word
  queued : Bool
deriving DecidableEq, Repr

/-- A trap of the scalar stream. -/
def Trap.scalar (cause : BitVec 8) (info addr : Word) : Trap := { cause := cause, info := info, addr := addr, queued := false }

/-- ILLEGAL_INSN for an instruction (R50). -/
def Trap.illegal (i : Instr) : Trap := .scalar 0x01 (instrWords i) 0

/-- einfo of a scalar translation fault (Table 18.4). -/
def pageInfo (reason level : Nat) (write : Bool) : Word := BitVec.ofNat 64 (level + 256 * reason + (if write then 65536 else 0))

/-- The trap that a denied scalar access takes: LOAD_PAGE, STORE_PAGE or FETCH_PAGE, or VAULT_FAULT (R155). -/
def Trap.denied (d : Deny) (n : Need) (va : Word) : Trap :=
  match d with
  | .page reason level =>
    let write := n == .store || n == .atomic
    .scalar (match n with | .fetch => 0x05 | .load => 0x06 | .store => 0x07 | .atomic => 0x07) (pageInfo reason level write) va
  | .vault reason index => .scalar 0x08 (BitVec.ofNat 64 (reason + 256 * index.toNat)) va

/-- The trap is delegated (R136). -/
def Hart.delegates (h : Hart) (cause : BitVec 8) : Bool :=
  h.level == .t && (cause == 0x0A || cause == 0x0B || cause == 0x0F || cause == 0x10 || cause == 0x11) &&
  h.csr.udeleg.getLsbD cause.toNat && h.csr.uvec != 0

/-- A hart that has been waiting or stalled is so no longer. -/
def Sched.awake (c : Sched) : Sched :=
  { c with status := (if c.status == .waiting then .running else c.status), missed := none, pauseUntil := none }

/-- A trap that comes before the instruction whose class miss has moved the hart: that instruction is remembered until it executes (R40). -/
def Hart.recallMove (h : Hart) : Hart :=
  { h with
    sched := { h.sched with
      stepMove := false
      moved := if h.sched.stepMove then (h.level, h.pc) :: h.sched.moved.filter (· != (h.level, h.pc)) else h.sched.moved } }

/-- Entry at S (R28, R325): the CSRs, the level and the pc. Every entry but that of STEP ends the reservation, also one that a stcond raises: R160
says that such a trap leaves it as it was, R161 that a trap entry ends it, and the model follows R161 (log 33). -/
def Hart.enterS (h : Hart) (t : Trap) : Hart :=
  { h with
    pc := h.csr.evec
    level := .s
    csr := { h.csr with
      ecause := t.cause
      epc := h.pc
      einfo := t.info
      eaddr := t.addr
      pp := h.level.code
      pie := h.csr.ie
      ie := false
      qtrap := t.queued }
    resv := if t.cause == 0x0D then h.resv else none
    checked := []
    req := .none
    fwcall := none
    stall := false
    waitFor := none
    sched := h.recallMove.sched.awake }

/-- A tlbinv of the hart that has not retired has had no effect; it starts anew when it executes again. -/
def State.endInvalidations (s : State) (k : HartKey) : State := { s with tlbinvs := s.tlbinvs.filter fun t => t.hart != k }

/-- A trap taken at S (R325, R448): from T the queue is saved as an image first; with evec 0 the partition ends. -/
def State.trapS (s : State) (k : HartKey) (t : Trap) : State :=
  match s.hart? k with
  | none => s
  | some h =>
    if h.csr.evec = 0 then s.terminatePart k.part t.cause h.pc
    else
      let s := if h.level == .t then s.saveImage k else s
      (s.modHart k fun h => h.enterS t).endInvalidations k

/-- The instruction at the pc is one whose class miss has moved the hart (R40). -/
def Hart.hasMoved (h : Hart) : Bool := h.sched.stepMove || h.sched.moved.contains (h.level, h.pc)

/-- What the STEP that follows a delegated trap reports (R458): the pc, bit 0, and bit 1 where the instruction that took the trap has moved the
hart; a queued one has left that with the STEP of its own that was due. -/
def Hart.stepInfo (h : Hart) (t : Trap) : Word :=
  let moved := if t.queued then (match h.sched.stepDue with | some w => w.getLsbD 1 | none => false) else h.hasMoved
  (h.pc &&& ~~~ (3 : Word)) ||| (if moved then 3 else 1)

/-- Entry to a delegated trap (R137, R139): a STEP follows it when single step is on. -/
def Hart.enterU (h : Hart) (t : Trap) : Hart :=
  { h with
    pc := h.csr.uvec
    csr := { h.csr with ucause := t.cause, uepc := h.pc, uinfo := t.info, uaddr := t.addr }
    resv := none
    checked := []
    req := .none
    stall := false
    waitFor := none
    sched := { h.recallMove.sched.awake with stepDue := if h.csr.step then some (h.stepInfo t) else none } }

/-- Takes a scalar trap, delegated or at S. -/
def State.trap (s : State) (k : HartKey) (t : Trap) : State :=
  match s.hart? k with
  | none => s
  | some h => if h.delegates t.cause then s.modHart k fun h => h.enterU t else s.trapS k t

/-- The address of a reported memory error, as the access translates it, counts against its bank (R501). -/
def State.noteBank (s : State) (c : Ctx) (va : Word) : State :=
  match s.access c va .load with
  | .ok x => s.bankError x.pa
  | .error _ => s

/-- A MEMORY_ERROR that is about to be reported. -/
def State.noteError (s : State) (c : Ctx) (cause : BitVec 8) (va : Word) : State := if cause = 0x13 then s.noteBank c va else s

/-! ### The outcome of an instruction -/

/-- What the body of an instruction does: it completes, it jumps, it traps, it waits without effect (`stall` until some event,
`waiting` as a waiting instruction of R413), or the hart is gone from it (it moved or ended). -/
inductive Effect where
  | ok (s : State)
  | jump (s : State) (pc : Word)
  | trap (s : State) (t : Trap)
  | stall (s : State)
  | waiting (s : State)
  | gone (s : State)
deriving Repr

/-- Majors 0x38 to 0x3B, which the mix window counts as V (R429). -/
def countsV (i : Instr) : Bool := featureBit i == 2

/-- Counts of a retirement: the mix window, and the run-to-completion limit (R429, R318). -/
def Hart.counted (h : Hart) (i : Instr) : Hart :=
  { h with
    retired := if h.rtc then h.retired + 1 else h.retired
    sched := { h.sched with win := { h.sched.win with count := h.sched.win.count + 1, v := h.sched.win.v + (if countsV i then 1 else 0) } } }

/-- The instruction has executed on the target of its class miss: the migration is complete (R40). -/
def Hart.migrated (h before : Hart) : Hart :=
  { h with
    csr := { h.csr with migcount := if before.hasMoved then h.csr.migcount + 1 else h.csr.migcount }
    sched := { h.sched with stepMove := false, missed := none, moved := h.sched.moved.filter (· != (before.level, before.pc)) } }

/-- Instructions since an ldres that may stand in a constrained sequence (R162): one more after instruction `i` took the pc from `pc` to `dest`;
none after one that may not stand there, nor after 16. -/
def nextInSequence (i : Instr) (pc dest : Word) : Option Nat → Option Nat
  | none => none
  | some n =>
    let major := bitsOf (instrWords i).toNat 31 26
    match i with
    | .ldres_w _ _ _ _ => some 0
    | .ldres_d _ _ _ _ => some 0
    | .jx _ => none
    | .callx _ _ => none
    | _ => if decide (n < 16) && decide (1 ≤ major) && decide (major ≤ 0x15) && !(decide (0x10 ≤ major) && decide (dest.toNat ≤ pc.toNat)) then some (n + 1) else none

/-- The instruction at `h.pc` completes and the pc moves on (R458): a STEP falls due when it was executed at T with single
step on; `before` is the hart as it was before the instruction. -/
def Hart.retire (h before : Hart) (i : Instr) (pc : Word) : Hart :=
  let due := if before.level != .t then h.sched.stepDue
    else if before.csr.step then some ((before.pc &&& ~~~ (3 : Word)) ||| (if before.hasMoved then 2 else 0)) else none
  let h := (h.counted i).migrated before
  { h with
    pc := pc
    stall := false
    waitFor := none
    resvSeq := nextInSequence i before.pc pc h.resvSeq
    checked := h.checked.filter fun c => c.1 == pc
    sched := { h.sched with status := (if h.sched.status == .waiting then .running else h.sched.status), stepDue := due } }

/-- Carries out the effect of an instruction's body. A scalar trap taken at S waits for the handler's own entries (R448). An instruction that
traps on the target of its class miss has executed there too, so that its move is counted (R40 does not say so; log 34). -/
def finish (i : Instr) (s : State) (h : Hart) : Effect → State
  | .ok s' => s'.modHart h.key fun g => g.retire h i (h.pc + BitVec.ofNat 64 (instrLen i))
  | .jump s' pc => s'.modHart h.key fun g => g.retire h i pc
  | .trap s' t =>
    if h.level != .t && !h.queue.isEmpty then s.modHart h.key fun g => { g with stall := true }
    else ((s'.noteError h.ctx t.cause t.addr).trap h.key t).modHart h.key fun g => g.migrated h
  | .stall s' => s'.modHart h.key fun g => { g with stall := true }
  | .waiting s' => s'.modHart h.key fun g =>
      { g with
        waitFor := some i
        sched := { g.sched with status := .waiting, waitSince := if g.sched.status == .waiting then g.sched.waitSince else s'.time } }
  | .gone s' => s'

/-! ### The checks before an instruction (R23, R40, R33) -/

/-- isafeat0 (Table 19.1). -/
def State.isafeat0 (s : State) : BitVec 6 := s.featReq ||| 1

/-- The features that the instruction belongs to are active (R463). -/
def State.featureOn (s : State) (i : Instr) : Bool :=
  s.isafeat0.getLsbD (featureBit i) && (s.isafeat0.getLsbD 5 || (formats i).all fun f => f.code.toNat < 12)

/-- The x registers that an instruction reads or writes: an ecall at S those of a firmware call, x8 to x15 (R324, R508). -/
def Hart.xUsed (h : Hart) (i : Instr) : List Reg :=
  match i with
  | .ecall => if h.level == .s then [8, 9, 10, 11, 12, 13, 14, 15] else []
  | _ => xRegs i

/-- No register of the instruction is pending (R33). -/
def Hart.free (h : Hart) (i : Instr) : Bool :=
  (h.xUsed i).all (fun r => !maskBit h.xpend r) && (fRegs i).all fun r => !maskBit h.fpend r

/-- Instructions that wait in the queue: until such an entry completes, nothing younger commits (R245). -/
def waitsInQueue : Instr → Bool
  | .cbinit _ _ _ => true
  | .cbwait _ _ _ => true
  | .waitmsg _ => true
  | .collwait _ _ _ => true
  | _ => false

/-- The instruction that an entry holds, if it is one that enters the queue (R37). -/
def Entry.instr? (e : Entry) : Option Instr :=
  match decodeWords (lo 32 32 e.insn) (hi 32 32 e.insn) with
  | .ok i => if entersQueue i && (instrLen i == 8 || hi 32 32 e.insn == 0) then some i else none
  | .error _ => none

/-- A waiting instruction stands in the hart's queue (R245). -/
def Hart.blocked (h : Hart) : Bool :=
  match h.queue.getLast? with
  | some e => match e.instr? with | some i => waitsInQueue i | none => false
  | none => false

/-- The counts of the mix window for a class miss (R429). -/
def Hart.countMiss (h : Hart) (i : Instr) : Hart :=
  let w := h.sched.win
  let w := if h.cls == .mastiff then
      { w with m := w.m + 1, missH := w.missH + (if featureBit i == 2 then 1 else 0), missW := w.missW + (if featureBit i == 3 then 1 else 0) }
    else w
  { h with sched := { h.sched with win := w } }

/-- A class miss (R40): the hart's own entries drain, then the miss counts (R429), and the hart traps CLASS_ABSENT under PIN, or moves. -/
def classMiss (s : State) (h : Hart) (i : Instr) : Effect :=
  let t := s.modHart h.key fun g => g.countMiss i
  if !h.queue.isEmpty then .stall (s.modHart h.key fun g => { g with sched := { g.sched with missed := some i } })
  else if h.csr.pin then .trap t (.scalar 0x02 0 0)
  else .gone (t.missMove h.key (fun c => implements (clsOf c) i) (some i) .classMiss)

/-- CSRs that no one may write: their whole Access is RO. -/
def csrReadOnly (n : BitVec 12) : Bool :=
  [0x001, 0x002, 0x004, 0x005, 0x006, 0x007, 0x010, 0x011, 0x012, 0x013, 0x014, 0x015, 0x016, 0x029, 0x02A, 0x030, 0x031, 0x10D, 0x202, 0x203,
   0x204].contains n.toNat

/-- A write of a CSR that is wholly RO (R22). -/
def writesReadOnly : Instr → Bool
  | .csrwr _ _ n => csrReadOnly n
  | .csrset _ _ n => csrReadOnly n
  | .csrclr _ _ n => csrReadOnly n
  | _ => false

/-- The checks in their order: the feature (strict decode), the level, a write of a wholly RO CSR (R22, R80), the class, then pending
registers and a waiting entry. -/
def guard (i : Instr) (s : State) (h : Hart) : Option Effect :=
  if !s.featureOn i then some (.trap s (.illegal i))
  else if h.level.code.toNat < minLevel i then some (.trap s (.scalar 0x03 (instrWords i) 0))
  else if writesReadOnly i then some (.trap s (.illegal i))
  else if !implements h.cls i then some (classMiss s h i)
  else if !h.free i || h.blocked then some (.stall s)
  else none

/-- The state after the hart executes an instruction with a given body. -/
def runOn (i : Instr) (s : State) (h : Hart) (body : State → Hart → Effect) : State :=
  match guard i s h with
  | some e => finish i s h e
  | none => finish i s h (body s h)

/-- Executes an instruction on the hart whose turn it is. -/
def run (i : Instr) (s : State) (body : State → Hart → Effect) : Host.Outcome State Fault Refusal :=
  match s.curHart? with
  | none => .fault .noHart
  | some h => .next (runOn i s h body)

/-- A body that only changes the hart. -/
def onHart (f : Hart → Hart) (s : State) (h : Hart) : Effect := .ok (s.modHart h.key f)

/-! ### Entering the vector queue (R31 to R33, R188, R230) -/

/-- vtype as its CSR reads. -/
def Csrs.vtypeWord (c : Csrs) : BitVec 16 := c.vtype.setWidth 16

/-- mtype as its CSR reads: TFMT in bits 3:0 and MM in bit 8 (R226). -/
def Csrs.mtypeWord (c : Csrs) : BitVec 16 := c.tfmt.setWidth 16 ||| (if c.mm then 0x0100 else 0)

/-- Entries that stand before the hart's own: those that a delegated trap holds. -/
def Hart.heldCount (h : Hart) : Nat :=
  match h.held with
  | .none => 0
  | .queue es => es.length
  | .area => h.imgHeld

/-- The entry that an instruction makes with its captured operands (R32). -/
def Hart.newEntry (h : Hart) (i : Instr) (a b c : Word) (status : BitVec 8) (start : BitVec 16) : Entry :=
  { insn := instrWords i, opa := a, opb := b, opc := c, vl := h.csr.vl.setWidth 16, vtype := h.csr.vtypeWord, mvl := h.csr.mvl,
    mtype := h.csr.mtypeWord, elem := start, status := status, nfault := 0, fovf := false, rsv := 0, issued := false, paddrs := [],
    pos := none, since := 0, limit := 0, restored := false, place := h.queue.length + h.heldCount }

/-- Number of results that the read queue still owes (R33). -/
def Hart.owed (h : Hart) : Nat :=
  ((List.finRange 32).filter fun r => maskBit h.xpend r).length + ((List.finRange 32).filter fun r => maskBit h.fpend r).length

/-- The hart with an entry at the end of its queue: the x destination is pending and vstart is 0 (R32, R33). -/
def Hart.push (h : Hart) (i : Instr) (e : Entry) : Hart :=
  let h := { h with queue := h.queue ++ [e], csr := { h.csr with vstart := 0 } }
  match queuedDest i with
  | some d => h.setPend d true
  | none => h

/-- Commits a queued instruction: it waits while the queue or the read queue is full, else it enters the queue. Entries that a delegated trap holds
take places of the 32, which the spec leaves open (log 86). -/
def commit (i : Instr) (a b c : Word) (status : BitVec 8) (s : State) (h : Hart) : Effect :=
  if 32 ≤ h.queue.length + h.heldCount then .stall s
  else if (queuedDest i).isSome && decide (8 ≤ h.owed) then .stall s
  else .ok (s.modHart h.key fun g => g.push i (h.newEntry i a b c status (h.csr.vstart.setWidth 16)))

/-- Commits a vector instruction: without vown naming the hart it traps VECTOR_OWNER (R188). -/
def commitVec (i : Instr) (a b c : Word) (s : State) (h : Hart) : Effect :=
  if !s.owns h then .trap s (.scalar 0x14 0 0) else commit i a b c stWaiting s h

end Sys2Proof.Machine
end

