-- ==== Sys2Proof/Machine/Operands.lean ====
section
/-! DEFINITION. The operand forms and results of the scalar integer instructions, and the checks that more than one family
shares (R120 to R135, R146, R147). -/

namespace Sys2Proof.Machine

/-- An immediate of 16 bits, sign-extended (R53). -/
def imm16s (n : BitVec 16) : Word := sext64 n
/-- An immediate of 16 bits, zero-extended (R53). -/
def imm16z (n : BitVec 16) : Word := zext64 n

/-- Shift amount of a register (R121). -/
def shamt (b : Word) : Nat := b.toNat % 64

/-- 1 for true, 0 for false. -/
def flagWord (b : Bool) : Word := if b then 1 else 0

/-- The lesser of two words, signed. -/
def minS (a b : Word) : Word := if a.slt b then a else b
/-- The greater, signed. -/
def maxS (a b : Word) : Word := if a.slt b then b else a
/-- The lesser, unsigned. -/
def minU (a b : Word) : Word := if a.ult b then a else b
/-- The greater, unsigned. -/
def maxU (a b : Word) : Word := if a.ult b then b else a

/-- A word of an integer. -/
def wordOf (z : Int) : Word := BitVec.ofInt 64 z

/-- mulh (R122). -/
def mulhS (a b : Word) : Word := wordOf (a.toInt * b.toInt / 2 ^ 64)
/-- mulhn. -/
def mulhU (a b : Word) : Word := BitVec.ofNat 64 (a.toNat * b.toNat / 2 ^ 64)

/-- Quotient and remainder, signed (R122). -/
def divRemS (a b : Word) : Word × Word :=
  if b = 0 then (BitVec.allOnes 64, a)
  else if a = BitVec.intMin 64 ∧ b = BitVec.allOnes 64 then (BitVec.intMin 64, 0)
  else (wordOf (a.toInt.tdiv b.toInt), wordOf (a.toInt - b.toInt * a.toInt.tdiv b.toInt))

/-- Quotient and remainder, unsigned (R122). -/
def divRemU (a b : Word) : Word × Word :=
  if b = 0 then (BitVec.allOnes 64, a) else (BitVec.ofNat 64 (a.toNat / b.toNat), BitVec.ofNat 64 (a.toNat % b.toNat))

/-- Position and width of a bit field (R123). -/
def fieldOf (b : Word) : Nat × Nat := (b.toNat % 64, b.toNat / 256 % 64 + 1)

/-- bext (R123). -/
def bextOf (a b : Word) : Word := BitVec.ofNat 64 (a.toNat / 2 ^ (fieldOf b).1 % 2 ^ (fieldOf b).2)

/-- bins (R123): the field of `a` goes into `d`. -/
def binsOf (d a b : Word) : Word :=
  let mask : Word := BitVec.ofNat 64 ((2 ^ (fieldOf b).2 - 1) * 2 ^ (fieldOf b).1)
  (d &&& ~~~ mask) ||| ((a <<< (fieldOf b).1) &&& mask)

/-- Zero bits above the highest set bit (R124), among the lowest `n` bits. -/
def clzOf (a : Word) : Nat → Nat
  | 0 => 0
  | n + 1 => if a.getLsbD n then 0 else clzOf a n + 1

/-- Zero bits below the lowest set bit, counting from bit `64 - n`. -/
def ctzOf (a : Word) : Nat → Nat
  | 0 => 0
  | n + 1 => if a.getLsbD (63 - n) then 0 else ctzOf a n + 1

/-- Set bits. -/
def popcOf (a : Word) : Nat := ((List.range 64).filter fun n => a.getLsbD n).length

/-! ### Effects of the integer family -/

/-- Word 0 of an instruction, zero-extended. -/
def word0 (i : Instr) : Word := match encode i with | w :: _ => zext64 w | [] => 0

/-- An integer result for x[d], with the stack-limit check on x2 (R135). -/
def intResult (i : Instr) (d : Reg) (r : Hart → Word) (s : State) (h : Hart) : Effect :=
  if d = 2 && h.level == .t && h.csr.stklim != 0 && (r h).ult h.csr.stklim then .trap s (.scalar 0x0A (word0 i) (r h))
  else .ok (s.modHart h.key fun g => g.setX d (r h))

/-- A conditional branch (R128). -/
def branch (off : BitVec 16) (taken : Hart → Bool) (s : State) (h : Hart) : Effect :=
  if taken h then .jump s (h.pc + sext64 off * 4) else .ok s

/-! ### Fetch (R49, R131, R437, R471) -/

/-- The reason of a failed mark on the page of an address, for the hart's address space (R471). -/
def State.codeFailed (s : State) (h : Hart) (va : Word) : Option Nat :=
  ((s.part h.key.part).marks.find? fun m => m.1 == h.csr.asid && m.2.1 == va.toNat / 4096).map fun m => m.2.2

/-- A word fetched at an address, or the trap of the fetch with eaddr at that word; a failed page comes before translation. -/
def State.fetchWord (s : State) (h : Hart) (va : Word) : Except Trap (Half × Xlat) :=
  match s.codeFailed h va with
  | some r => .error (.scalar 0x12 (BitVec.ofNat 64 r) va)
  | none =>
    match s.access h.ctx va .fetch with
    | .error d => .error (.denied d .fetch va)
    | .ok x => .ok (BitVec.ofNat 32 (leNat (s.view (h.via x) x.pa 4)), x)

end Sys2Proof.Machine
end

