-- ==== Sys2Proof/Machine/Flags.lean ====
section
/-! DEFINITION. Floating point: layouts, exact values, rounding and flags, and the fp_ helpers (R89 to R115). -/

namespace Sys2Proof.Machine

/-! ### Layouts (Table 4.1) -/

/-- Fraction width. -/
def fracW : Fmt → Nat
  | .f16 => 10 | .bf16 => 7 | .f32 => 23 | .f64 => 52 | .e4m3 => 3 | .e5m2 => 2 | .e2m1 => 1
  | .e8m0 => 0 | .i8 => 0 | .n8 => 0 | .i16 => 0 | .n16 => 0 | .i32 => 0 | .n32 => 0 | .i64 => 0 | .n64 => 0

/-- Exponent width. -/
def expW : Fmt → Nat
  | .f16 => 5 | .bf16 => 8 | .f32 => 8 | .f64 => 11 | .e4m3 => 4 | .e5m2 => 5 | .e2m1 => 2
  | .e8m0 => 8 | .i8 => 0 | .n8 => 0 | .i16 => 0 | .n16 => 0 | .i32 => 0 | .n32 => 0 | .i64 => 0 | .n64 => 0

/-- Exponent bias. -/
def bias (f : Fmt) : Nat := 2 ^ (expW f - 1) - 1

/-- Bits of an element. -/
def bitsW : Fmt → Nat
  | .f16 => 16 | .bf16 => 16 | .f32 => 32 | .f64 => 64 | .e4m3 => 8 | .e5m2 => 8 | .e2m1 => 4 | .e8m0 => 8
  | .i8 => 8 | .n8 => 8 | .i16 => 16 | .n16 => 16 | .i32 => 32 | .n32 => 32 | .i64 => 64 | .n64 => 64

/-- Exponent of the smallest normal. -/
def emin (f : Fmt) : Int := 1 - (bias f : Int)

/-- Canonical NaN (Table 4.2); E2M1 has none and takes +0 (Table 4.5). -/
def canonNan : Fmt → Nat
  | .f64 => 0x7FF8000000000000 | .f32 => 0x7FC00000 | .f16 => 0x7E00 | .bf16 => 0x7FC0 | .e5m2 => 0x7E | .e4m3 => 0x7F | .e8m0 => 0xFF
  | .e2m1 => 0 | .i8 => 0 | .n8 => 0 | .i16 => 0 | .n16 => 0 | .i32 => 0 | .n32 => 0 | .i64 => 0 | .n64 => 0

/-- The format has infinities. -/
def hasInf : Fmt → Bool
  | .f64 => true | .f32 => true | .f16 => true | .bf16 => true | .e5m2 => true
  | .e4m3 => false | .e2m1 => false | .e8m0 => false | .i8 => false | .n8 => false | .i16 => false | .n16 => false
  | .i32 => false | .n32 => false | .i64 => false | .n64 => false

/-- Bits of the largest finite magnitude. -/
def largestBits : Fmt → Nat
  | .f64 => 0x7FEFFFFFFFFFFFFF | .f32 => 0x7F7FFFFF | .f16 => 0x7BFF | .bf16 => 0x7F7F | .e5m2 => 0x7B | .e4m3 => 0x7E | .e2m1 => 7 | .e8m0 => 0xFE
  | .i8 => 0 | .n8 => 0 | .i16 => 0 | .n16 => 0 | .i32 => 0 | .n32 => 0 | .i64 => 0 | .n64 => 0

/-- Bits of infinity. -/
def infBits (f : Fmt) : Nat := (2 ^ expW f - 1) * 2 ^ fracW f

/-- Sign bit of a format. -/
def signBit (f : Fmt) (neg : Bool) : Nat := if neg then 2 ^ (bitsW f - 1) else 0

/-! ### Flags (Table 4.4) -/

/-- The sticky flags, in the places of fcsr. -/
abbrev Flags := BitVec 9
/-- Invalid operation. -/
def fNV : Flags := 0x10
/-- Overflow. -/
def fOF : Flags := 0x20
/-- Underflow. -/
def fUF : Flags := 0x40
/-- Inexact. -/
def fNX : Flags := 0x80
/-- Division by zero. -/
def fDZ : Flags := 0x100

/-! ### Exact values (R90) -/

/-- An exact value: (−1)^neg × m × 2^e, an infinity, or a NaN. -/
inductive FVal where
  | fin (neg : Bool) (m : Nat) (e : Int)
  | inf (neg : Bool)
  | nan (signalling : Bool)
deriving DecidableEq, Repr

/-- fp_decode (R90). -/
def fpDecode (f : Fmt) (b : Nat) : FVal :=
  if f = .e8m0 then (if b % 256 = 255 then .nan false else .fin false 1 ((b % 256 : Nat) - 127 : Int))
  else
    let b := b % 2 ^ bitsW f
    let neg := b.testBit (bitsW f - 1)
    let frac := b % 2 ^ fracW f
    let ex := b / 2 ^ fracW f % 2 ^ expW f
    if hasInf f && ex == 2 ^ expW f - 1 then
      if frac = 0 then .inf neg else .nan (!frac.testBit (fracW f - 1))
    else if f = .e4m3 && b % 128 == 127 then .nan false
    else if ex = 0 then .fin neg frac (emin f - fracW f)
    else .fin neg (2 ^ fracW f + frac) ((ex : Int) - bias f - fracW f)

/-- The value is a non-zero subnormal of a format. -/
def isSubnormal (f : Fmt) : FVal → Bool
  | .fin _ m e => m != 0 && f != .e8m0 && decide ((Nat.log2 m : Int) + e < emin f)
  | .inf _ => false
  | .nan _ => false

/-- fp_flush_src (R99). -/
def fpFlushSrc (f : Fmt) (flush : Bool) (v : FVal) : FVal :=
  if flush && isSubnormal f v then (match v with | .fin n _ e => .fin n 0 e | .inf n => .inf n | .nan q => .nan q) else v

/-- Negation of a value. -/
def FVal.negate : FVal → FVal
  | .fin n m e => .fin (!n) m e
  | .inf n => .inf (!n)
  | .nan q => .nan q

/-! ### Rounding (R95, R96, R107) -/

/-- The mode that an RM field names, with FRM for code 0 (R95). -/
def resolveRm (rm : Rm) (frm : BitVec 3) : Rm :=
  match rm with
  | .dyn => match frm.toNat with | 2 => .rtz | 3 => .rup | 4 => .rdn | 5 => .rna | _ => .rne
  | .rne => .rne
  | .rtz => .rtz
  | .rup => .rup
  | .rdn => .rdn
  | .rna => .rna

/-- Whether rounding a magnitude with quotient `q` and remainder `r` of `d` goes up (R96). -/
def roundsUp (rm : Rm) (neg : Bool) (q r d : Nat) : Bool :=
  match rm with
  | .dyn => decide (d < 2 * r) || (decide (2 * r = d) && q % 2 == 1)
  | .rne => decide (d < 2 * r) || (decide (2 * r = d) && q % 2 == 1)
  | .rna => decide (d ≤ 2 * r)
  | .rtz => false
  | .rup => !neg && r != 0
  | .rdn => neg && r != 0

/-- round_to(m × 2^e, 2^u): the multiple of 2^u, and whether it is inexact. -/
def roundTo (rm : Rm) (neg : Bool) (m : Nat) (e u : Int) : Nat × Bool :=
  if u ≤ e then (m * 2 ^ (e - u).toNat, false)
  else
    let d := 2 ^ (u - e).toNat
    (if roundsUp rm neg (m / d) (m % d) d then m / d + 1 else m / d, m % d != 0)

/-- m × 2^e is greater than n × 2^k. -/
def magLt (n : Nat) (k : Int) (m : Nat) (e : Int) : Bool :=
  if k ≤ e then decide (n < m * 2 ^ (e - k).toNat) else decide (n * 2 ^ (k - e).toNat < m)

/-- The largest finite value, as a magnitude. -/
def largestVal (f : Fmt) : Nat × Int :=
  match fpDecode f (largestBits f) with
  | .fin _ m e => (m, e)
  | .inf _ => (0, 0)
  | .nan _ => (0, 0)

/-- Rounding goes away from zero on an overflow (R98). -/
def awayFromZero (rm : Rm) (neg : Bool) : Bool :=
  match rm with
  | .dyn => true | .rne => true | .rna => true | .rtz => false | .rup => !neg | .rdn => neg

/-- A finite overflow (Table 4.5). -/
def overflowBits (f : Fmt) (neg : Bool) (rm : Rm) (sat : Bool) : Nat :=
  if sat || f == .e2m1 || !awayFromZero rm neg then signBit f neg + largestBits f
  else if f == .e4m3 then canonNan f
  else signBit f neg + infBits f

/-- fp_round of a non-zero finite value (R107). A widening from E8M0 code 0 with FLUSH comes here too and becomes zero with UF and NX, as R99 has it, where R101
says that a widening raises no flag (DESIGN CHOICE, log 103). -/
def fpRound (f : Fmt) (rm : Rm) (sat flush neg : Bool) (m : Nat) (e : Int) : Nat × Flags :=
  if m = 0 then (signBit f neg, 0)
  else
    let lg : Int := (Nat.log2 m : Int) + e
    let u : Int := max lg (emin f) - fracW f
    let (y, nx) := roundTo rm neg m e u
    let (t, _) := roundTo rm neg m e (lg - fracW f)
    let (bm, be) := largestVal f
    if magLt bm be t (lg - fracW f) then (overflowBits f neg rm sat, fOF ||| fNX)
    else
      let tiny := magLt t (lg - fracW f) 1 (emin f)
      let fl : Flags := (if nx then fNX else 0) ||| (if tiny && nx then fUF else 0)
      if flush && y != 0 && magLt y u 1 (emin f) then (signBit f neg, fl ||| fUF ||| fNX)
      else if y = 0 then (signBit f neg, fl)
      else (signBit f neg + ((u + fracW f + bias f - 1).toNat * 2 ^ fracW f + y), fl)

/-- The canonical NaN, with NV where it is asked for. -/
def fpNan (f : Fmt) (nv : Bool) : Nat × Flags := (canonNan f, if nv || f == .e2m1 then fNV else 0)

/-- An infinity in a format (Table 4.5). -/
def fpInf (f : Fmt) (neg sat : Bool) : Nat × Flags :=
  if f == .e2m1 then (signBit f neg + 7, fNV)
  else if sat then (signBit f neg + largestBits f, 0)
  else if f == .e4m3 then (canonNan f, fNV)
  else (signBit f neg + infBits f, 0)

/-! ### Sums and products (R105, R106, R108) -/

/-- Signed mantissa at a common exponent. -/
def atExp (neg : Bool) (m : Nat) (e k : Int) : Int := (if neg then -1 else 1) * ((m * 2 ^ (e - k).toNat : Nat) : Int)

/-- The least exponent of finite terms. -/
def minExp : List FVal → Int
  | [] => 0
  | .fin _ _ e :: l => min e (minExp l)
  | .inf _ :: l => minExp l
  | .nan _ :: l => minExp l

/-- fp_sum (R108). A signalling NaN stands for an invalid term, since both give the canonical NaN with NV. -/
def fpSum (terms : List FVal) (f : Fmt) (rm : Rm) (flush : Bool) : Nat × Flags :=
  if terms.any fun v => match v with | .nan q => q | .inf _ => false | .fin _ _ _ => false then fpNan f true
  else
    let pos := terms.contains (.inf false)
    let neg := terms.contains (.inf true)
    if pos && neg then fpNan f true
    else if terms.any fun v => match v with | .nan _ => true | .inf _ => false | .fin _ _ _ => false then fpNan f false
    else if pos || neg then fpInf f neg false
    else
      let k := minExp terms
      let z : Int := terms.foldl (fun z v => match v with | .fin n m e => z + atExp n m e k | .inf _ => z | .nan _ => z) 0
      if z = 0 then
        let allNeg := terms.all fun v => match v with | .fin n m _ => n && m == 0 | .inf _ => false | .nan _ => false
        (signBit f (allNeg || rm == .rdn), 0)
      else fpRound f rm false flush (decide (z < 0)) z.natAbs k

/-- The exact product of two values; 0 × ∞ is invalid. A zero product takes the XOR of the signs, which R106 says of infinite products alone (DESIGN CHOICE,
log 100). -/
def FVal.times : FVal → FVal → FVal
  | .nan q, .nan r => .nan (q || r)
  | .nan q, _ => .nan q
  | _, .nan r => .nan r
  | .inf n, .inf k => .inf (n != k)
  | .inf n, .fin k m _ => if m = 0 then .nan true else .inf (n != k)
  | .fin k m _, .inf n => if m = 0 then .nan true else .inf (n != k)
  | .fin n m e, .fin k p g => .fin (n != k) (m * p) (e + g)

/-- fp_mul. -/
def fpMul (a b : FVal) (f : Fmt) (rm : Rm) (flush : Bool) : Nat × Flags :=
  match a.times b with
  | .nan q => fpNan f q
  | .inf n => fpInf f n false
  | .fin n m e => fpRound f rm false flush n m e

/-- fp_fma: a × b + c with one rounding. -/
def fpFma (a b c : FVal) (f : Fmt) (rm : Rm) (flush : Bool) : Nat × Flags := fpSum [a.times b, c] f rm flush

/-- Extra bits that keep a quotient or a root exact enough to round once. -/
def guardBits : Nat := 140

/-- fp_div: the quotient carries a last bit that is set when it is inexact. The sign of a zero quotient is the XOR of the signs, which the spec leaves
open (log 90). -/
def fpDiv (a b : FVal) (f : Fmt) (rm : Rm) (flush : Bool) : Nat × Flags :=
  match a, b with
  | .nan q, .nan r => fpNan f (q || r)
  | .nan q, .inf _ => fpNan f q
  | .nan q, .fin _ _ _ => fpNan f q
  | .inf _, .nan r => fpNan f r
  | .fin _ _ _, .nan r => fpNan f r
  | .inf _, .inf _ => fpNan f true
  | .inf n, .fin k _ _ => fpInf f (n != k) false
  | .fin n _ _, .inf k => (signBit f (n != k), 0)
  | .fin n m e, .fin k p g =>
    if p = 0 then (if m = 0 then fpNan f true else ((fpInf f (n != k) false).1, fDZ))
    else
      let num := m * 2 ^ guardBits
      fpRound f rm false flush (n != k) (2 * (num / p) + (if num % p = 0 then 0 else 1)) (e - g - guardBits - 1)

/-- Integer square root by bits, from the highest down. -/
def isqrtGo (n : Nat) : Nat → Nat → Nat
  | 0, r => r
  | k + 1, r => isqrtGo n k (if (r + 2 ^ k) * (r + 2 ^ k) ≤ n then r + 2 ^ k else r)

/-- Integer square root. -/
def isqrt (n : Nat) : Nat := isqrtGo n (Nat.log2 n / 2 + 1) 0

/-- fp_sqrt. -/
def fpSqrt (a : FVal) (f : Fmt) (rm : Rm) (flush : Bool) : Nat × Flags :=
  match a with
  | .nan q => fpNan f q
  | .inf n => if n then fpNan f true else fpInf f false false
  | .fin n m e =>
    if m = 0 then (signBit f n, 0)
    else if n then fpNan f true
    else
      let odd := e % 2 ≠ 0
      let v := (if odd then 2 * m else m) * 2 ^ (2 * guardBits)
      let r := isqrt v
      fpRound f rm false flush false (2 * r + (if r * r = v then 0 else 1)) ((if odd then e - 1 else e) / 2 - guardBits - 1)

/-! ### Order (R109) -/

/-- Signed comparison of exact finite values: less. -/
def finLt (n : Bool) (m : Nat) (e : Int) (k : Bool) (p : Nat) (g : Int) : Bool :=
  decide (atExp n m e (min e g) < atExp k p g (min e g))

/-- Equality of exact finite values, −0 being +0. -/
def finEq (n : Bool) (m : Nat) (e : Int) (k : Bool) (p : Nat) (g : Int) : Bool :=
  decide (atExp n m e (min e g) = atExp k p g (min e g))

/-- a < b among numbers. -/
def FVal.lt : FVal → FVal → Bool
  | .inf n, .inf k => n && !k
  | .inf n, .fin _ _ _ => n
  | .fin _ _ _, .inf k => !k
  | .fin n m e, .fin k p g => finLt n m e k p g
  | .nan _, _ => false
  | _, .nan _ => false

/-- a = b among numbers. -/
def FVal.eqv : FVal → FVal → Bool
  | .inf n, .inf k => n == k
  | .inf _, .fin _ _ _ => false
  | .fin _ _ _, .inf _ => false
  | .fin n m e, .fin k p g => finEq n m e k p g
  | .nan _, _ => false
  | _, .nan _ => false

/-- The value is a NaN. -/
def FVal.isNan : FVal → Bool
  | .nan _ => true
  | .inf _ => false
  | .fin _ _ _ => false

/-- The value is a signalling NaN. -/
def FVal.isSnan : FVal → Bool
  | .nan q => q
  | .inf _ => false
  | .fin _ _ _ => false

/-- The sign of a number. -/
def FVal.neg : FVal → Bool
  | .fin n _ _ => n
  | .inf n => n
  | .nan _ => false

/-- fp_cmp. -/
def fpCmp (c : Cond) (a b : FVal) : Bool × Flags :=
  let un := a.isNan || b.isNan
  let sn : Flags := if a.isSnan || b.isSnan then fNV else 0
  let any : Flags := if un then fNV else 0
  match c with
  | .eq => (a.eqv b, sn)
  | .ne => (!a.eqv b, sn)
  | .un => (un, sn)
  | .ord => (!un, sn)
  | .lt => (a.lt b, any)
  | .le => (a.lt b || a.eqv b, any)
  | .gt => (b.lt a, any)
  | .ge => (b.lt a || a.eqv b, any)

/-- fp_min (`mx` false) and fp_max (`mx` true) on the bits of two elements; flushed inputs count as their zeros. -/
def fpMinMax (mx : Bool) (f : Fmt) (a b : Nat) : Nat × Flags :=
  let x := fpDecode f a
  let y := fpDecode f b
  let fl : Flags := if x.isSnan || y.isSnan then fNV else 0
  if x.isNan && y.isNan then (canonNan f, fl)
  else if x.isNan then (b, fl)
  else if y.isNan then (a, fl)
  else
    let less := x.lt y || (x.eqv y && x.neg && !y.neg)
    (if less != mx then a else b, fl)

/-! ### Conversions (R101, R102) -/

/-- Least and greatest value of an integer format (Table 4.3). -/
def intRange (f : Fmt) : Int × Int :=
  if f.isSigned then (-(2 ^ (bitsW f - 1) : Nat), (2 ^ (bitsW f - 1) : Nat) - 1) else (0, (2 ^ bitsW f : Nat) - 1)

/-- An integer as the bits of a format. -/
def intBits (f : Fmt) (z : Int) : Nat := (z % (2 ^ bitsW f : Nat)).toNat

/-- The value of integer bits. -/
def intVal (f : Fmt) (b : Nat) : Int :=
  let v := b % 2 ^ bitsW f
  if f.isSigned && v.testBit (bitsW f - 1) then (v : Int) - (2 ^ bitsW f : Nat) else v

/-- An exact value to an integer format (R101, Table 4.5). -/
def fpToInt (v : FVal) (f : Fmt) (rm : Rm) : Nat × Flags :=
  let (lo, hi) := intRange f
  match v with
  | .nan _ => (0, fNV)
  | .inf n => (intBits f (if n then lo else hi), fNV)
  | .fin n m e =>
    let (q, nx) := roundTo rm n m e 0
    let z : Int := if n then -(q : Int) else q
    if z < lo then (intBits f lo, fNV)
    else if hi < z then (intBits f hi, fNV)
    else (intBits f z, if nx then fNX else 0)

/-- Conversion to E8M0 (R102). -/
def fpToE8m0 (v : FVal) (rm : Rm) (sat : Bool) : Nat × Flags :=
  match v with
  | .nan _ => (0xFF, fNV)
  | .inf n => if n then (0xFF, fNV) else if sat then (0xFE, 0) else (0xFF, fNV)
  | .fin n m e =>
    if n || m = 0 then (0xFF, fNV)
    else
      let fl : Int := (Nat.log2 m : Int) + e
      let exact := m == 2 ^ Nat.log2 m
      let k := match rm with
        | .rtz => fl
        | .rdn => fl
        | .rup => if exact then fl else fl + 1
        | .dyn => if 2 * m < 3 * 2 ^ Nat.log2 m then fl else fl + 1
        | .rne => if 2 * m < 3 * 2 ^ Nat.log2 m then fl else fl + 1
        | .rna => if 2 * m < 3 * 2 ^ Nat.log2 m then fl else fl + 1
      let nx : Flags := if exact then 0 else fNX
      if 127 < k then (if sat then 0xFE else 0xFF, fOF ||| fNX)
      else if k < -127 then (0x00, fUF ||| fNX)
      else ((k + 127).toNat, nx)

/-- An exact value to a floating-point format (R101, Table 4.5). A signalling NaN raises NV in a widening too, as R97 and Table 4.5 have it, where R101 says that
a widening raises no flag (DESIGN CHOICE, log 102). -/
def fpToFp (v : FVal) (f : Fmt) (rm : Rm) (sat flush : Bool) : Nat × Flags :=
  if f = .e8m0 then fpToE8m0 v rm sat
  else
    match v with
    | .nan q => fpNan f q
    | .inf n => fpInf f n sat
    | .fin n m e => fpRound f rm sat flush n m e

/-- An integer to an integer format. -/
def intToInt (z : Int) (f : Fmt) (sat : Bool) : Nat × Flags :=
  let (lo, hi) := intRange f
  (intBits f (if sat then max lo (min hi z) else z), 0)

/-- fp_cvt (R101). -/
def fpCvt (b : Nat) (src dst : Fmt) (rm : Rm) (sat flush : Bool) : Nat × Flags :=
  if src.isInt then
    if dst.isInt then intToInt (intVal src b) dst sat
    else fpToFp (.fin (decide (intVal src b < 0)) (intVal src b).natAbs 0) dst rm sat flush
  else
    let v := fpFlushSrc src flush (fpDecode src b)
    if dst.isInt then fpToInt v dst rm else fpToFp v dst rm sat flush

/-! ### Classes (R169) -/

/-- The code of fclass (Table 6.8) for a decoded value and its sign bit: the kind above the sign. -/
def fpClass (f : Fmt) (v : FVal) (sign : Bool) : Nat :=
  let kind := match v with
    | .inf _ => 3
    | .nan q => if q then 5 else 4
    | .fin _ m _ => if m = 0 then 0 else if isSubnormal f v then 1 else 2
  2 * kind + (if sign then 1 else 0)

/-! ### The reduction tree (R115) -/

/-- fp_add on bits, with source flush. -/
def fpAddBits (f : Fmt) (rm : Rm) (flush : Bool) (a b : Nat) : Nat × Flags :=
  fpSum [fpFlushSrc f flush (fpDecode f a), fpFlushSrc f flush (fpDecode f b)] f rm flush

/-- One level of the tree: neighbours at stride 1 of the level below are added. -/
def treeLevel (f : Fmt) (rm : Rm) (flush : Bool) : List Nat → List Nat × Flags
  | a :: b :: l =>
    let (x, fl) := fpAddBits f rm flush a b
    let (r, fm) := treeLevel f rm flush l
    (x :: r, fl ||| fm)
  | [a] => ([a], 0)
  | [] => ([], 0)

/-- The levels of the tree until one element is left; `n` levels reach 2^n elements. -/
def treeLevels (f : Fmt) (rm : Rm) (flush : Bool) : Nat → List Nat → Nat × Flags
  | 0, l => (l.headD 0, 0)
  | n + 1, l =>
    match l with
    | [] => (0, 0)
    | [a] => (a, 0)
    | _ :: _ :: _ =>
      let (r, fl) := treeLevel f rm flush l
      let (x, fm) := treeLevels f rm flush n r
      (x, fl ||| fm)

/-- fp_tree_sum (R115). -/
def fpTreeSum (start : Nat) (t : List Nat) (f : Fmt) (rm : Rm) (flush : Bool) : Nat × Flags :=
  let (x, fl) := treeLevels f rm flush 10 t
  let (y, fm) := fpAddBits f rm flush start x
  (y, fl ||| fm)

end Sys2Proof.Machine
end

