-- ==== Sys2Proof/Machine/Access.lean ====
section
/-! DEFINITION. Performing the accesses of a hart: scalar loads, stores and indivisible updates, and the byte accesses of
the vector stream, with the errors found while they are performed (R154, R163 to R166). -/

namespace Sys2Proof.Machine

/-! ### Counting accesses (R301) -/

/-- The slots of the hart that a byte range touches. -/
def Hart.slotMask (h : Hart) (va : Word) (n : Nat) : BitVec 8 :=
  (List.finRange 8).foldl (fun m i =>
    let r := h.slots[i]
    if r.len != 0 && decide (va.toNat < r.base.toNat + r.len) && decide (r.base.toNat < va.toNat + n) then m ||| BitVec.twoPow 8 i.val else m) 0

/-- An access that waits for nothing, with the slots that count it. -/
def Outstanding.of (slots : BitVec 8) : Outstanding := { region := none, port := none, sector := none, wrCur := none, slots := slots, flushing := false }

/-- An access that is not yet performed at every scope stays counted with its hart. -/
def State.addOutst (s : State) (k : HartKey) (o : Outstanding) : State :=
  if o.region.isNone && o.port.isNone && o.sector.isNone && o.wrCur.isNone then s
  else s.modHart k fun h => { h with outst := if h.outst.contains o then h.outst else h.outst ++ [o] }

/-- What a write to device memory waits for until it is performed at system scope: the end of the leases of its region, and a host that still
holds its sector (R372). -/
def State.unperformed (s : State) (slots : BitVec 8) (pa : Nat) : Outstanding :=
  { Outstanding.of slots with
    region := if (s.region (regionOf pa)).closing.isSome then some (regionOf pa) else none
    sector := if s.hostHeld.any fun x => x.sector == sectorOf pa && x.invalidating then some (sectorOf pa) else none }

/-- A read of bytes whose newest write is not performed at every scope yet is counted as that write is: a release of the reader
covers it (R291, R304). -/
def State.noteRead (s : State) (k : HartKey) (slots : BitVec 8) (pa : Nat) : State :=
  match placeOf pa with
  | .hbm _ => s.addOutst k (s.unperformed slots pa)
  | .host _ => s.addOutst k { Outstanding.of slots with wrCur := ((s.wrCurs.filter fun x => x.1 == sectorOf pa).getLast?).map (·.2) }
  | .store _ _ => s
  | .homeStore _ => s
  | .homeWindow _ => s
  | .hole => s

/-! ### Sectors of host memory in CXL mode (R378, R379) -/

/-- Code of a PCIe read that another stream than the scalar one has sent, among the requests that are out. -/
def pcieRd : Nat := 7

/-- The sectors of `n` bytes. -/
def sectorsOf (pa n : Nat) : List Nat := (List.range ((pa % 64 + n + 63) / 64)).map fun i => sectorOf pa + 64 * i

/-- The address is host memory behind a port in CXL mode. -/
def State.inCxl (s : State) (pa : Nat) : Bool :=
  match placeOf pa with
  | .host n => s.ports[n].cxl
  | .hbm _ => false
  | .store _ _ => false
  | .homeStore _ => false
  | .homeWindow _ => false
  | .hole => false

/-- The address is host memory behind a port in PCIe mode. -/
def State.onPcie (s : State) (pa : Nat) : Bool :=
  match placeOf pa with
  | .host n => !s.ports[n].cxl
  | .hbm _ => false
  | .store _ _ => false
  | .homeStore _ => false
  | .homeWindow _ => false
  | .hole => false

/-- Number of the host port of an address. -/
def portOf (pa : Nat) : Nat :=
  match placeOf pa with
  | .host n => n.val
  | .hbm _ => 0
  | .store _ _ => 0
  | .homeStore _ => 0
  | .homeWindow _ => 0
  | .hole => 0

/-- A state that lets the device do what a request asks for (Table 15.5). -/
def Cxl.grants (c : Cxl) (code : Nat) : Bool :=
  match c with
  | .i => false
  | .s => code == rdAny
  | .o => code == rdAny
  | .e => true
  | .m => true
  | .z => code == rdOwnNoData

/-- What a request for a sector meets: it is granted, it waits for the host, or the host reported an error. -/
inductive Want where
  | granted (s : State)
  | waits (s : State)
  | failed (s : State)

/-- A request for the sector is out already: its answer comes first. -/
def State.requested (s : State) (sec : Nat) : Bool :=
  (s.asked.any fun a => a.sector == sec && a.failed.isNone) || s.harts.any fun h => match h.req with
    | .cxl x _ => x == sec
    | .none => false | .atomicOp _ _ _ _ _ _ => false | .atomicDone _ _ => false | .read _ _ => false | .readDone _ _ => false
    | .flush _ => false | .timedOut _ _ => false | .cxlError _ => false

/-- A stream other than the scalar one wants a sector of host memory: it is asked for, once, where its state does not do. In PCIe mode a read asks
for it each time (R153). Nothing is asked of an agent that has fallen silent (R382). -/
def State.want (s : State) (pa code : Nat) : Want :=
  if (s.deadAt pa).isSome then .granted s
  else if s.silentAt pa then .waits s
  else if s.onPcie pa && code != rdAny then .granted s
  else if !s.onPcie pa && (!s.inCxl pa || (s.cxlState pa).grants code) then .granted s
  else
    let sec := sectorOf pa
    match s.asked.find? fun a => a.sector == sec with
    | some a =>
      if a.failed.isSome then .failed { s with asked := s.asked.filter fun x => x.sector != sec }
      else if a.here then .granted s
      else .waits s
    | none =>
      if s.requested sec then .waits s
      else if s.onPcie pa then
        .waits ({ s with asked := { sector := sec, code := pcieRd, failed := none, here := false } :: s.asked }.emit (.pcieRead (portOf pa) sec 64))
      else .waits ({ s with asked := { sector := sec, code := code, failed := none, here := false } :: s.asked }.emit (.hostRequest sec code))

/-- Wants several things, each at an address: whether some are still to come, and the sectors that the host refused. A refusal
stands until nothing is to come any more; then what has come is taken. -/
def State.wantEach {α : Type} (s : State) (l : List α) (at_ : α → Nat) (f : State → α → Want) : State × Bool × List Nat :=
  let r := l.foldl (fun (a : State × Bool × List Nat) x =>
    match f a.1 x with
    | .granted s => (s, a.2)
    | .waits s => (s, true, a.2.2)
    | .failed s => (s, a.2.1, sectorOf (at_ x) :: a.2.2)) (s, false, [])
  if r.2.1 then ({ r.1 with asked := (s.asked.filter fun x => x.failed.isSome && r.2.2.contains x.sector) ++ r.1.asked }, r.2)
  else
    let mine := l.map fun x => sectorOf (at_ x)
    ({ r.1 with asked := r.1.asked.filter fun x => !(x.here && mine.contains x.sector) }, r.2)

/-- Reads of the sectors listed ask the host for them. -/
def State.wantAll (s : State) (l : List Nat) : State × Bool × List Nat := s.wantEach l id fun s x => s.want x rdAny

/-- The vault holds the sector of an address in a line. -/
def State.inVault (s : State) (v : Via) (pa : Nat) : Bool := s.lines.any fun l => l.ofVault v.part v.vault && l.holds pa && (l.sector pa).isValid

/-- The sectors that a read asks for: its own, and, where it fills a line, those that the line lacks (R352). -/
def State.readNeeds (s : State) (v : Via) (pa n : Nat) (alloc : Option Bool) : List Nat :=
  let own := sectorsOf pa n
  if s.onPcie pa then own
  else if !s.inCxl pa then []
  else
    own ++
    (match s.vaultOf v, (s.vaultOf v).bind fun vt => s.fillAlloc v.part vt pa alloc with
     | some vt, some _ =>
       if own.all fun x => s.inVault v x then []
       else
         let tag := pa / vt.lineBytes * vt.lineBytes
         ((List.range (vt.lineBytes / 64)).map (tag + 64 * ·)).filter fun x => !own.contains x && !s.inVault v x
     | some _, none => []
     | none, _ => [])

/-- Reads, each with its way, its address, its length and the lines it takes, ask the host for what they need; a line of host memory that lies at
the old place of a vault, on another die, is given up first (R357). -/
def State.askReads (s : State) (l : List (Via × Nat × Nat × Option Bool)) : State × Bool × List Nat :=
  let s := l.foldl (fun s x =>
    if s.inCxl x.2.1 then (match s.vaultOf x.1 with | some vt => s.dropAstray x.1.part vt x.2.1 | none => s) else s) s
  s.wantAll (dedup (l.flatMap fun x => s.readNeeds x.1 x.2.1 x.2.2.1 x.2.2.2))

/-- A write of `n` bytes of a sector takes ownership first, where it keeps its line dirty (Table 15.6): other copies are written back
before (R350), a line that moves to another die too (R357); a fill asks for the other sectors of its line. -/
def State.wantWrite (s : State) (v : Via) (pa n : Nat) (alloc : Option Bool) : Want :=
  if (s.deadAt pa).isNone && s.silentAt pa then .waits s
  else if !s.inCxl pa || !s.keepsDirty v pa alloc then .granted s
  else
    let s := s.settleOthers v pa
    let s := match s.vaultOf v with | some vt => s.dropAstray v.part vt pa | none => s
    match s.want pa (if n = 64 && (s.cxlState pa == .i || s.cxlState pa == .z) then rdOwnNoData else rdOwn) with
    | .waits s => .waits s
    | .failed s => .failed s
    | .granted s =>
      match s.wantAll ((s.readNeeds v pa 1 alloc).filter fun x => x != sectorOf pa) with
      | (s, true, _) => .waits s
      | (s, false, _) => .granted s

/-! ### Writes -/

/-- The limit unit discards a write of device firmware (R506): other than zeros to sealed memory, or to host memory outside the window. -/
def State.discards (s : State) (p : Fin 17) (pa : Nat) (bs : List Byte) : Bool :=
  p == 16 &&
  ((s.sealedAt pa && bs.any (· != 0)) ||
   (match placeOf pa with
    | .host _ => !(decide (s.limit.window.1 ≤ pa) && decide (pa + bs.length ≤ s.limit.window.1 + s.limit.window.2))
    | .hbm _ => false
    | .store _ _ => false
    | .homeStore _ => false
    | .homeWindow _ => false
    | .hole => false))

/-- Writes bytes of one sector in the name of a hart: into the caches and memory, or discarded with a lost-write record where
the target is dead (R154). What is not performed at every scope stays outstanding. A sector of a host in CXL mode that the part does not own is
written by WrCur, and no line keeps it; one in Z becomes M once it is written whole (R379). -/
def State.writeOne (s : State) (k : HartKey) (v : Via) (slots : BitVec 8) (pa : Nat) (bs : List Byte) (alloc : Option Bool) (scalar again : Bool) :
    State :=
  if s.discards v.part pa bs then s.violation
  else
  match s.deadAt pa with
  | some (a, inc) => s.lostWrite k.part (lostPlace pa v.vault).1 1 (lostPlace pa v.vault).2 (agentCode a) inc.toNat
  | none =>
    match placeOf pa with
    | .host n =>
      if s.ports[n].cxl then
        if !s.keepsDirty v pa alloc then
          ((s.storeSector v pa bs alloc scalar again).sendWrCur pa).addOutst k { Outstanding.of slots with wrCur := some s.wrCount }
        else if s.cxlState pa == .z then
          (let t := s.storeSector v pa bs alloc scalar again; if bs.length = 64 then t.landed (sectorOf pa) else t)
        else if (s.cxlState pa).grants rdOwn then (s.storeSector v pa bs alloc scalar again).landed (sectorOf pa)
        else
          let s := s.dropLines fun l => l.holds pa
          ((s.storeSector v pa bs none scalar again).sendWrCur pa).addOutst k { Outstanding.of slots with wrCur := some s.wrCount }
      else (s.storePlain pa bs).addOutst k { Outstanding.of slots with port := some n }
    | .hbm _ =>
      let s := (s.correct pa).storeSector v pa bs alloc scalar again
      s.addOutst k (s.unperformed slots pa)
    | .store _ _ => (s.correct pa).storePlain pa bs
    | .homeStore _ => s
    | .homeWindow _ => s
    | .hole => s

/-- Sectors in Z that a copy, or a row of a tile, has written whole are M (R379). -/
def State.landAll (s : State) (l : List Nat) : State := l.foldl (fun s pa => if s.cxlState pa == .z then s.landed (sectorOf pa) else s) s

/-- A write that the host has refused is discarded with a lost-write record of its port (R154). -/
def State.refused (s : State) (k : HartKey) (vault : BitVec 8) (pa : Nat) : State :=
  match placeOf pa with
  | .host n =>
    s.lostWrite k.part (lostPlace pa vault).1 1 (lostPlace pa vault).2 (0x10 + n.val)
      (match s.agents.lookup (.port n) with | some a => a.incarnation.toNat | none => 0)
  | .hbm _ => s
  | .store _ _ => s
  | .homeStore _ => s
  | .homeWindow _ => s
  | .hole => s

/-- Bytes that may span sectors, cut at their ends: each address with its bytes. `fuel` bounds the number of sectors. -/
def sectorCuts : Nat → Nat → List Byte → List (Nat × List Byte)
  | 0, _, _ => []
  | fuel + 1, pa, bs =>
    match bs with
    | [] => []
    | _ :: _ => (pa, bs.take (64 - pa % 64)) :: sectorCuts fuel (pa + (64 - pa % 64)) (bs.drop (64 - pa % 64))

/-- The address before lies in the same line of the vault: an access to both counts once for replacement (R353). -/
def State.sameLine (s : State) (v : Via) (pa : Nat) : Bool :=
  let size := match s.vaultOf v with | some vt => vt.lineBytes | none => 64
  (pa - 1) / size == pa / size

/-- Writes bytes that may span sectors, one sector after the other; those of the sectors listed were refused by the host. -/
def State.writeSpan (s : State) (k : HartKey) (v : Via) (slots : BitVec 8) (alloc : Option Bool) (scalar : Bool) (bad : List Nat) (pa : Nat)
    (bs : List Byte) : State :=
  (sectorCuts (bs.length / 64 + 2) pa bs).foldl (fun s x =>
    if bad.contains (sectorOf x.1) then s.refused k v.vault x.1
    else s.writeOne k v slots x.1 x.2 alloc scalar (x.1 != pa && s.sameLine v x.1)) s

/-! ### Entries that access memory -/

/-- The instruction is a barrier arrival, which stands in the queue as a marker (R306). -/
def isMarker : Instr → Bool
  | .barArrive _ _ => true
  | _ => false

/-- The queued instruction accesses memory in the vector stream (R285). -/
def accessesMemory : Instr → Bool
  | .vld _ => true | .vlds _ => true | .vldx _ => true | .vld_st _ => true | .vst _ => true | .vsts _ => true | .vstx _ => true
  | .vredq _ => true | .mld _ => true | .mst _ => true | .cpy _ => true | .cpyt _ => true | .cpyr _ _ _ _ => true
  | .sopen _ _ _ => true | .mbxpop _ _ _ => true | .msgsend _ _ _ _ => true | .rxopen _ _ _ _ => true | .rxpop _ _ _ _ => true
  | .coll _ => true | .barArrive _ _ => true
  | _ => false

/-- The entry's instruction satisfies a test. -/
def Entry.isInsn (e : Entry) (p : Instr → Bool) : Bool := match e.instr? with | some i => p i | none => false

/-! ### The copy interlock (R259, R288) -/

/-- The smallest range that holds every byte of a box at an offset: its start, which may lie outside the address space,
and its length; no bytes where an extent is 0. -/
def Desc.range (d : Desc) (off : Word) : Int × Nat :=
  if d.ext.any (· == 0) then (0, 0)
  else
    let spans : List Int := ((d.ext.zip ((d.esz : Int) :: d.strides)).map fun x => ((x.1 : Int) - 1) * x.2)
    let low := (spans.map fun z => min z 0).sum
    let high := (spans.map fun z => max z 0).sum
    (((d.base + off).toNat : Int) + low, (high - low).toNat + d.esz)

/-- The destination and source ranges of a copy. -/
def CopyArgs.ranges (a : CopyArgs) : List (Int × Nat) :=
  match a.box with
  | none => [((a.dst.toNat : Int), a.len), ((a.src.toNat : Int), a.len)]
  | some (d, true) => [d.range a.dst, ((a.src.toNat : Int), a.len)]
  | some (d, false) => [((a.dst.toNat : Int), a.len), d.range a.src]

/-- A range of addresses meets a range of the copy. -/
def CopyArgs.meets (a : CopyArgs) (lo : Int) (n : Nat) : Bool :=
  a.ranges.any fun r => decide (lo < r.1 + r.2) && decide (r.1 < lo + n) && r.2 != 0 && n != 0

/-- The descriptor table of an asid: its base and its length. -/
def Part.tdOf (p : Part) (a : BitVec 10) : Nat × Nat := (p.tds.lookup a).getD (0, 0)

/-- Reserved fields of a descriptor are zero (Table 10.5). -/
def descReserved (d : Nat) : Bool :=
  bitsOf d 511 448 == 0 && bitsOf d 127 96 == 0 && bitsOf d 94 90 == 0 && bitsOf d 87 86 == 0 && bitsOf d 83 78 == 0

/-- A signed 64-bit field. -/
def signedField (d l : Nat) : Int := (BitVec.ofNat 64 (bitsOf d (l + 63) l)).toInt

/-- The captured descriptor; dimensions above DIMS have extent 1 (R259). -/
def Desc.ofNat (d : Nat) : Desc :=
  let dims := bitsOf d 89 88 + 1
  { base := BitVec.ofNat 64 d, esz := 2 ^ bitsOf d 85 84,
    ext := (List.range dims).map fun n => bitsOf d (159 + 32 * n) (128 + 32 * n),
    strides := (List.range (dims - 1)).map fun n => signedField d (256 + 64 * n) }

/-- Checks a handle (R260): the descriptor, or the reason. -/
def State.handle (s : State) (h : Hart) (x : Word) : Except Nat Desc :=
  let (base, len) := (s.part h.key.part).tdOf h.csr.asid
  if x.toNat / 65536 ≠ 0 then .error 0
  else if len ≤ x.toNat then .error 1
  else
    let d := s.readNat (base + 64 * x.toNat) 64
    if !d.testBit 95 then .error 2
    else if bitsOf d 77 74 ≠ h.key.part.val || bitsOf d 73 64 ≠ h.csr.asid.toNat then .error 3
    else if !descReserved d then .error 4
    else .ok (Desc.ofNat d)

/-- Bytes of a box. -/
def Desc.bytes (d : Desc) : Nat := d.ext.foldl (· * ·) d.esz

/-- The argument check (R250): length, wrap, and canonical ends. -/
def badCopy (a : CopyArgs) : Bool :=
  let good := fun r : Int × Nat =>
    r.2 == 0 || (decide (0 ≤ r.1) && decide (r.1 + r.2 ≤ (2 ^ 64 : Nat)) && canonical (BitVec.ofInt 64 r.1) && canonical (BitVec.ofInt 64 (r.1 + r.2 - 1)))
  decide (2 ^ 48 ≤ a.len) || !(a.ranges.all good)

/-- The ranges of a copy instruction that an entry holds, with the handle of a cpyt, as they stand before it is accepted (R288). -/
def Entry.copyArgs (e : Entry) (s : State) (h : Hart) : Option (CopyArgs × Option (BitVec 16)) :=
  match e.instr? with
  | some (.cpy _) => some ({ dst := e.opa, src := e.opb, len := e.opc.toNat, box := none }, none)
  | some (.cpyt o) =>
    match s.handle h e.opc with
    | .ok d => some ({ dst := e.opa, src := e.opb, len := d.bytes, box := some (d, o.boxDst) }, some (e.opc.setWidth 16))
    | .error _ => none
  | some (.cpyr _ _ _ _) => (h.eng.replays.find? fun r => zext64 r.id == e.opa).map fun r => (r.args, none)
  | some _ => none
  | none => none

/-- A vector-stream access of the hart overlaps a copy in flight, and waits for it (R288). -/
def State.interlocked (s : State) (h : Hart) (va : Word) (n : Nat) : Bool :=
  s.copies.any fun c => c.hart == h.key && c.args.meets va.toNat n

/-- A scalar access waits for copies in flight, and for those that stand in the queue before it (R288). -/
def State.scalarLocked (s : State) (h : Hart) (va : Word) (n : Nat) : Bool :=
  s.interlocked h va n || h.queue.any fun e => match e.copyArgs s h with | some (a, _) => a.meets va.toNat n | none => false

/-- The two ranges share a byte. -/
def rangesMeet (a : Int) (n : Nat) (b : Int) (m : Nat) : Bool := n != 0 && m != 0 && decide (a < b + m) && decide (b < a + n)

/-- Bytes of a member's source or destination. -/
def CollMember.bytes (m : CollMember) : Nat := bitsW m.fmt / 8 * m.count.toNat

/-- An access of the vector stream overlaps one of an older collective or of an older marker of the hart that is still to come: it
waits, because accesses of one stream that share a byte take effect in program order (R285). -/
def State.behind (s : State) (h : Hart) (va : Word) (n : Nat) (write : Bool) : Bool :=
  (s.colls.any fun c => c.members.any fun m =>
    m.hart == some h.key &&
    (rangesMeet va.toNat n m.dst.toNat m.bytes || (write && !c.started && rangesMeet va.toNat n m.src.toNat m.bytes))) ||
  (h.queue.takeWhile fun e => e.status == stMarker && e.isInsn isMarker).any fun e => rangesMeet va.toNat n e.opa.toNat 64

/-- Slots of the hart that a range touches (R301). -/
def Hart.rangeSlots (h : Hart) (r : Int × Nat) : BitVec 8 :=
  (List.finRange 8).foldl (fun m i =>
    let g := h.slots[i]
    if g.len != 0 && r.2 != 0 && decide (r.1 < (g.base.toNat : Int) + g.len) && decide ((g.base.toNat : Int) < r.1 + r.2) then m ||| BitVec.twoPow 8 i.val else m) 0

/-- Slots bound to a handle (R301). -/
def Hart.handleSlots (h : Hart) (x : BitVec 16) : BitVec 8 :=
  (List.finRange 8).foldl (fun m i => if (h.slots[i]).handle == some x then m ||| BitVec.twoPow 8 i.val else m) 0

/-- The slots that count a copy. -/
def Hart.copySlots (h : Hart) (a : CopyArgs) (handle : Option (BitVec 16)) : BitVec 8 :=
  a.ranges.foldl (fun m r => m ||| h.rangeSlots r) (match handle with | some x => h.handleSlots x | none => 0)

/-! ### Scalar accesses -/

/-- What a scalar access meets: a value and the state after it, a trap, or a wait. -/
inductive Got where
  | value (s : State) (v : Nat) (pa : Nat)
  | trap (t : Trap)
  | stall (s : State)

/-- einfo of MEMORY_ERROR and of the host-atomic traps (R166). -/
def errorInfo (i : Instr) (reason : Nat) : Word := app 32 32 (lo 32 32 (word0 i)) (BitVec.ofNat 32 reason)

/-- MEMORY_ERROR of a scalar instruction. -/
def memError (i : Instr) (reason : Nat) (va : Word) : Trap := .scalar 0x13 (errorInfo i reason) va

/-- The host request of the hart is finished. -/
def State.endReq (s : State) (k : HartKey) : State := s.modHart k fun h => { h with req := .none }

/-- The hart sends a host request and waits. -/
def State.sendReq (s : State) (k : HartKey) (r : Req) (o : Output) : State := (s.modHart k fun h => { h with req := r }).emit o

/-- A scalar read of host memory in PCIe mode waits for its completion (R153, R166). -/
def bringPcie (i : Instr) (s : State) (h : Hart) (va : Word) (pa n : Nat) (port : Fin 2) : Got :=
  let send := Got.stall (s.sendReq h.key (.read pa port) (.pcieRead port.val pa n))
  match h.req with
  | .readDone a r =>
    if a = pa then
      match r with
      | .ok w => .value (if n ≤ 8 then (s.endReq h.key).writeNat pa n w.toNat else s.endReq h.key) 0 pa
      | .unsupported => .trap (memError i 0x01 va)
      | .abort => .trap (memError i 0x04 va)
      | .poisoned => .trap (memError i 0x08 va)
    else send
  | .timedOut a _ => if a = pa then .trap (memError i 0x10 va) else send
  | .read a p => if a = pa ∧ p = port then .stall s else send
  | .none => send
  | .atomicOp _ _ _ _ _ _ => send
  | .atomicDone _ _ => send
  | .flush _ => send
  | .cxl _ _ => send
  | .cxlError _ => send

/-- A scalar access of host memory in CXL mode waits for the sectors that it needs, its own with ownership where `own` says so. An
error for a sector of its own traps; one for another sector of the line leaves that out of the fill. -/
def bringCxl (i : Instr) (s : State) (h : Hart) (va : Word) (pa n : Nat) (own : Bool) (others : List Nat) : Got :=
  let mine := sectorsOf pa n
  let code := fun sec : Nat => if own && mine.contains sec then rdOwn else rdAny
  match (mine ++ others).find? fun sec => !(s.cxlState sec).grants (code sec) with
  | none => .value (s.endReq h.key) 0 pa
  | some sec =>
    let send := if s.requested sec then Got.stall s else .stall (s.sendReq h.key (.cxl sec (code sec == rdOwn)) (.hostRequest sec (code sec)))
    match h.req with
    | .cxlError e => if mine.contains e then .trap (memError i 0x41 va) else if mine.contains sec then send else .value (s.endReq h.key) 0 pa
    | .cxl e o =>
      if e = sec then .stall s
      else
        let s := { s with asked := { sector := e, code := if o then rdOwn else rdAny, failed := none, here := false } :: s.asked }
        .stall (s.sendReq h.key (.cxl sec (code sec == rdOwn)) (.hostRequest sec (code sec)))
    | .none => send
    | .atomicOp _ _ _ _ _ _ => send
    | .atomicDone _ _ => send
    | .read _ _ => send
    | .readDone _ _ => send
    | .flush _ => send
    | .timedOut _ _ => send

/-- Brings bytes to where they can be read: a PCIe read or a CXL.cache request waits for its completion
(R166, R379), a closing region for its state (R376). `own` asks for ownership, `alloc` says whether a line is filled. -/
def bring (i : Instr) (s : State) (h : Hart) (v : Via) (va : Word) (pa n : Nat) (own : Bool) (alloc : Option Bool) : Got :=
  match s.deadAt pa with
  | some (_, inc) => .trap (.scalar 0x17 (zext64 inc) va)
  | none =>
    if s.silentAt pa then .stall s else
    match placeOf pa with
    | .host port =>
      if s.ports[port].cxl then
        if (sectorsOf pa n).any fun sec => s.corrupted sec && s.cxlState sec != .i then .trap (memError i 0x40 va) else
        let s := match s.vaultOf v with | some vt => (if own then s.settleOthers v pa else s).dropAstray v.part vt pa | none => s
        bringCxl i s h va pa n own ((s.readNeeds v pa n alloc).filter fun x => !(sectorsOf pa n).contains x)
      else bringPcie i s h va pa n port
    | .hbm _ =>
      if (sectorsOf pa n).any s.corrupted then .trap (memError i 0x40 va)
      else if s.readWaits pa (s.cacheDie v pa) then .stall s
      else .value ((sectorsOf pa n).foldl State.correct s) 0 pa
    | .store _ _ => if (sectorsOf pa n).any s.corrupted then .trap (memError i 0x40 va) else .value ((sectorsOf pa n).foldl State.correct s) 0 pa
    | .homeStore _ => .value s 0 pa
    | .homeWindow _ => .value s 0 pa
    | .hole => .value s 0 pa

/-- A scalar access touches bytes of a store that is still in the store path of its hart: it waits (R285). -/
def Hart.pathHolds (h : Hart) (pa n : Nat) : Bool := h.path.any fun p => rangesMeet pa n p.pa p.bytes.length

/-- Where a scalar read fills a line (R83, Table 14.4): hint code 1 has it allocate in every vault, code 2 in none. -/
def State.hintedAlloc (s : State) (v : Via) (hint : Hint) : Option Bool :=
  if hint == 2 then none else if hint == 1 then (s.vaultOf v).map fun _ => true else s.scalarAlloc v

/-- A scalar read of `n` bytes under a hint (R83, R147, R149): its checks, then the bytes that the hart's die sees. -/
def loadHinted (i : Instr) (hint : Hint) (s : State) (h : Hart) (va : Word) (n : Nat) : Got :=
  if va.toNat % n ≠ 0 then .trap (.scalar 0x04 0 va)
  else
    match s.access h.ctx va .load with
    | .error d => .trap (.denied d .load va)
    | .ok x =>
      if s.scalarLocked h va n || h.pathHolds x.pa n then .stall s else
      match bring i (s.fillTlb x) h (h.via x) va x.pa n false (s.hintedAlloc (h.via x) hint) with
      | .trap t => .trap t
      | .stall s => .stall s
      | .value s _ _ =>
        let v := leNat (s.view (h.via x) x.pa n)
        .value ((s.readTouch (h.via x) x.pa (s.hintedAlloc (h.via x) hint) (hint != 2)).noteRead h.key (h.slotMask va n) x.pa) v x.pa

/-- A scalar read without hints. -/
def loadScalar (i : Instr) (s : State) (h : Hart) (va : Word) (n : Nat) : Got := loadHinted i 0 s h va n

/-! ### Fetch (R49, R473) -/

/-- What the fetch of a word meets: the word and the state after it, a trap, or a wait. -/
inductive Fetched where
  | word (s : State) (w : Half)
  | trap (s : State) (t : Trap)
  | wait (s : State)

/-- A copy of the hart that is under way still writes bytes of a range: a fetch of them waits for it (R288, R326). -/
def State.copiedTo (s : State) (h : Hart) (va : Word) (n : Nat) : Bool :=
  s.copies.any fun c => c.hart == h.key && c.finished.isNone && c.args.ranges.head?.any fun r => rangesMeet va.toNat n r.1 r.2

/-- A word comes through the core's TLB and L1I. A miss in the L1I reads its sector as a scalar load does (R473), so that it meets the same
errors (R154, log 35), waits and fills; the lines of a core are as many as Table 0.2 says, the oldest out (log 21). Of host memory in PCIe mode
no line is kept: the word itself is, until its instruction has executed (R153). A word that a landing check has passed is not fetched again (R131). -/
def State.fetchGet (s : State) (h : Hart) (va : Word) : Fetched :=
  match h.checked.lookup va with
  | some w => .word s w
  | none =>
    match s.fetchWord h va with
    | .error t => .trap s t
    | .ok (w, x) =>
      let s := s.fillTlb x
      let v := h.via x
      let e : FetchLine :=
        { core := h.core, part := h.key.part, asid := h.csr.asid, va := sectorOf va.toNat, pa := sectorOf x.pa, page := x.entry.vpage, size := x.entry.size }
      match s.deadAt x.pa with
      | some (_, inc) => .trap s (.scalar 0x17 (zext64 inc) va)
      | none =>
        if s.copiedTo h va 4 then .wait s
        else if s.l1i.contains e && !s.lapsed (s.cacheDie v x.pa) x.pa then .word s w
        else if s.corrupted x.pa then .trap s (.scalar 0x13 0x40 va)
        else if s.readWaits x.pa (s.cacheDie v x.pa) then .wait s
        else
          let reason := ((s.asked.find? fun a => a.sector == sectorOf x.pa).bind (·.failed)).getD 0x41
          match s.askReads [(v, x.pa, 4, s.scalarAlloc v)] with
          | (s, true, _) => .wait s
          | (s, false, bad) =>
            if bad.contains (sectorOf x.pa) then .trap s (.scalar 0x13 (BitVec.ofNat 64 reason) va)
            else if s.onPcie x.pa then .word (s.modHart h.key fun g => { g with checked := (va, w) :: g.checked }) w
            else
              let s := (s.correct x.pa).readKeep v x.pa (s.scalarAlloc v) false false
              .word (State.hostEvict { s with l1i := keepFirst (fun e => e.core == h.core) (l1Sectors h.core).2 (e :: s.l1i) } x.pa) w

/-! ### Release and acquire (R289, R290, R296) -/

/-- A collective that the hart has handed over is not finished: its reads before it starts, its writes until it ends (R279). -/
def State.collBusy (s : State) (k : HartKey) (reads : Bool) (sel : CollMember → Bool) : Bool :=
  s.colls.any fun c => !(reads && c.started) && c.members.any fun m => m.hart == some k && sel m

/-- Accesses of the two streams of the hart are not performed yet: stores in its path, entries that access memory, and collectives (R299). -/
def State.streamsPending (s : State) (h : Hart) : Bool :=
  !h.path.isEmpty || (h.queue.any fun e => e.isInsn accessesMemory) || s.collBusy h.key false fun _ => true

/-- Accesses of the hart are not performed yet: those of its streams, and copies that it has accepted. -/
def State.hasPending (s : State) (h : Hart) : Bool := s.streamsPending h || s.copies.any fun c => c.hart == h.key

/-- A read of the hart may not be performed yet: an entry of its own that accesses memory and is no barrier arrival, a copy, or a collective
that has not read its source (R298). -/
def State.readsPending (s : State) (h : Hart) : Bool :=
  (h.queue.any fun e => e.isInsn fun i => accessesMemory i && !isMarker i) || (s.copies.any fun c => c.hart == h.key) ||
  s.collBusy h.key true fun _ => true

/-- An outstanding access still waits at a scope (R372): a lease, a held host sector, a posted host write. -/
def Outstanding.waitsAt (o : Outstanding) (sc : Scope) : Bool :=
  match sc with
  | .hart => false
  | .core => false
  | .cluster => false
  | .die => false
  | .package => o.region.isSome
  | .system => o.region.isSome || o.port.isSome || o.sector.isSome || o.wrCur.isSome

/-- A write that a hart of the same home die has released at a narrower scope is not performed at a scope yet: a release waits for it whether
or not its hart has observed it (R281, R291, R292; log 13). -/
def State.unsettled (s : State) (h : Hart) (sc : Scope) : Bool :=
  let held := s.regions.any fun e => e.closing.isSome && e.covered.contains (dieOf h.sched.home)
  match sc with
  | .hart => false
  | .core => false
  | .cluster => false
  | .die => false
  | .package => held
  | .system => held || (s.hostHeld.any fun x => x.invalidating) || !s.wrCurs.isEmpty

/-- A hart has released its accesses that a test selects, at a scope: where that is no wider than its die, a later release by a hart of the die
at a wider one waits for those that a closing region holds back (R281, R292). -/
def State.cover (s : State) (h : Hart) (sc : Scope) (sel : Outstanding → Bool) : State :=
  let rs := (h.outst.filter sel).filterMap (·.region)
  let die := dieOf h.sched.home
  if sc == .package || sc == .system || sc == .hart || rs.isEmpty then s
  else
    { s with regions := s.regions.map fun (e : Region) =>
        if e.closing.isSome && rs.contains e.index && !e.covered.contains die then { e with covered := die :: e.covered } else e }

/-- The outstanding accesses that a test selects at a scope (R289): none when they are performed, else the state in which they are waited for; at
system scope in PCIe mode a flushing read goes to each port that carried writes (R296). -/
def release (s : State) (h : Hart) (sc : Scope) (sel : Outstanding → Bool) : Option State :=
  let waiting := h.outst.filter fun o => sel o && o.waitsAt sc
  if waiting.isEmpty then none
  else
    match (if sc == .system then waiting.findSome? fun o => o.port else none) with
    | none => some s
    | some p =>
      let mark := fun o : Outstanding => if o.port == some p then { o with flushing := true } else o
      let send := some ((s.modHart h.key fun g => { g with outst := g.outst.map mark }).sendReq h.key (.flush p) (.pcieRead p.val 0 0))
      match h.req with
      | .flush _ => some s
      | .none => send
      | .atomicOp _ _ _ _ _ _ => some s
      | .atomicDone _ _ => some s
      | .read _ _ => send
      | .readDone _ _ => send
      | .cxl _ _ => some s
      | .timedOut _ _ => send
      | .cxlError _ => send

/-- The release half of an instruction: the state in which it still waits, or none once every older access of the hart, and every write
that it may have observed, is performed at the scope. -/
def ordRelease (s : State) (h : Hart) (sc : Scope) : Option State :=
  if s.hasPending h || s.unsettled h sc then some s else release s h sc fun _ => true

end Sys2Proof.Machine
end

