-- ==== Sys2Proof/Machine/ScalarFp.lean ====
section
/-! DEFINITION. Scalar floating point (R168 to R172). -/

namespace Sys2Proof.Machine

/-- The bits of an element that an f register holds; one that is not boxed reads as the canonical NaN (R93). -/
def unbox (f : Fmt) (w : Word) : Nat :=
  if w.toNat / 2 ^ bitsW f = 2 ^ (64 - bitsW f) - 1 then w.toNat % 2 ^ bitsW f else canonNan f

/-- The f register contents of an element: every bit above it is one (R168). -/
def box (f : Fmt) (b : Nat) : Word := BitVec.ofNat 64 (b % 2 ^ bitsW f + (2 ^ (64 - bitsW f) - 1) * 2 ^ bitsW f)

/-- The format that W names. -/
def wideFmt (wide : Bool) : Fmt := if wide then .f64 else .f32

/-- Element bits of f[r]. -/
def Hart.fBits (h : Hart) (f : Fmt) (r : Reg) : Nat := unbox f (h.getF r)

/-- Value of f[r]. -/
def Hart.fVal (h : Hart) (f : Fmt) (r : Reg) : FVal := fpDecode f (h.fBits f r)

/-- Flags go into fcsr (R100). -/
def Hart.orFlags (h : Hart) (fl : Flags) : Hart := { h with csr := { h.csr with fcsr := h.csr.fcsr ||| fl } }

/-- The mode of a scalar instruction. -/
def Hart.rm (h : Hart) (rm : Rm) : Rm := resolveRm rm (h.csr.fcsr.setWidth 3)

/-- A floating-point result for f[d], with its flags. -/
def fpResult (d : Reg) (f : Fmt) (r : Hart → Nat × Flags) (s : State) (h : Hart) : Effect :=
  .ok (s.modHart h.key fun g => (g.setF d (box f (r h).1)).orFlags (r h).2)

/-- A result for x[d], with its flags. -/
def fxResult (d : Reg) (r : Hart → Word × Flags) (s : State) (h : Hart) : Effect :=
  .ok (s.modHart h.key fun g => (g.setX d (r h).1).orFlags (r h).2)

/-- A comparison as a word with its flags. -/
def cmpWord (r : Bool × Flags) : Word × Flags := (flagWord r.1, r.2)

/-- fadd (R169). -/
def execFadd (d a b : Reg) (wide : Bool) (rm : Rm) (s : State) : Host.Outcome State Fault Refusal :=
  run (.fadd d a b wide rm) s (fpResult d (wideFmt wide) fun h => fpSum [h.fVal (wideFmt wide) a, h.fVal (wideFmt wide) b] (wideFmt wide) (h.rm rm) false)

/-- fsub (R169). -/
def execFsub (d a b : Reg) (wide : Bool) (rm : Rm) (s : State) : Host.Outcome State Fault Refusal :=
  run (.fsub d a b wide rm) s (fpResult d (wideFmt wide) fun h => fpSum [h.fVal (wideFmt wide) a, (h.fVal (wideFmt wide) b).negate] (wideFmt wide) (h.rm rm) false)

/-- fmul (R169). -/
def execFmul (d a b : Reg) (wide : Bool) (rm : Rm) (s : State) : Host.Outcome State Fault Refusal :=
  run (.fmul d a b wide rm) s (fpResult d (wideFmt wide) fun h => fpMul (h.fVal (wideFmt wide) a) (h.fVal (wideFmt wide) b) (wideFmt wide) (h.rm rm) false)

/-- fdiv (R169). -/
def execFdiv (d a b : Reg) (wide : Bool) (rm : Rm) (s : State) : Host.Outcome State Fault Refusal :=
  run (.fdiv d a b wide rm) s (fpResult d (wideFmt wide) fun h => fpDiv (h.fVal (wideFmt wide) a) (h.fVal (wideFmt wide) b) (wideFmt wide) (h.rm rm) false)

/-- fsqrt (R169). -/
def execFsqrt (d a : Reg) (wide : Bool) (rm : Rm) (s : State) : Host.Outcome State Fault Refusal :=
  run (.fsqrt d a wide rm) s (fpResult d (wideFmt wide) fun h => fpSqrt (h.fVal (wideFmt wide) a) (wideFmt wide) (h.rm rm) false)

/-- fmin (R169). -/
def execFmin (d a b : Reg) (wide : Bool) (s : State) : Host.Outcome State Fault Refusal :=
  run (.fmin d a b wide) s (fpResult d (wideFmt wide) fun h => fpMinMax false (wideFmt wide) (h.fBits (wideFmt wide) a) (h.fBits (wideFmt wide) b))

/-- fmax (R169). -/
def execFmax (d a b : Reg) (wide : Bool) (s : State) : Host.Outcome State Fault Refusal :=
  run (.fmax d a b wide) s (fpResult d (wideFmt wide) fun h => fpMinMax true (wideFmt wide) (h.fBits (wideFmt wide) a) (h.fBits (wideFmt wide) b))

/-- fcmpeq (R169). -/
def execFcmpeq (d a b : Reg) (wide : Bool) (s : State) : Host.Outcome State Fault Refusal :=
  run (.fcmpeq d a b wide) s (fxResult d fun h => cmpWord (fpCmp .eq (h.fVal (wideFmt wide) a) (h.fVal (wideFmt wide) b)))

/-- fcmplt (R169). -/
def execFcmplt (d a b : Reg) (wide : Bool) (s : State) : Host.Outcome State Fault Refusal :=
  run (.fcmplt d a b wide) s (fxResult d fun h => cmpWord (fpCmp .lt (h.fVal (wideFmt wide) a) (h.fVal (wideFmt wide) b)))

/-- fcmple (R169). -/
def execFcmple (d a b : Reg) (wide : Bool) (s : State) : Host.Outcome State Fault Refusal :=
  run (.fcmple d a b wide) s (fxResult d fun h => cmpWord (fpCmp .le (h.fVal (wideFmt wide) a) (h.fVal (wideFmt wide) b)))

/-- fclass (R169). -/
def execFclass (d a : Reg) (wide : Bool) (s : State) : Host.Outcome State Fault Refusal :=
  run (.fclass d a wide) s (fxResult d fun h => (BitVec.ofNat 64 (fpClass (wideFmt wide) (h.fVal (wideFmt wide) a) ((h.fBits (wideFmt wide) a).testBit (bitsW (wideFmt wide) - 1))), 0))

/-- fsgn (R169). -/
def execFsgn (d a b : Reg) (wide : Bool) (s : State) : Host.Outcome State Fault Refusal :=
  run (.fsgn d a b wide) s (fpResult d (wideFmt wide) fun h => let m := 2 ^ (bitsW (wideFmt wide) - 1); (h.fBits (wideFmt wide) a % m + m * (h.fBits (wideFmt wide) b / m), 0))

/-- fneg (R169). -/
def execFneg (d a : Reg) (wide : Bool) (s : State) : Host.Outcome State Fault Refusal :=
  run (.fneg d a wide) s (fpResult d (wideFmt wide) fun h => let m := 2 ^ (bitsW (wideFmt wide) - 1); (h.fBits (wideFmt wide) a % m + m * (1 - h.fBits (wideFmt wide) a / m), 0))

/-- fabs (R169). -/
def execFabs (d a : Reg) (wide : Bool) (s : State) : Host.Outcome State Fault Refusal :=
  run (.fabs d a wide) s (fpResult d (wideFmt wide) fun h => (h.fBits (wideFmt wide) a % 2 ^ (bitsW (wideFmt wide) - 1), 0))

/-- fma (R170). -/
def execFma (d a b c : Reg) (wide : Bool) (rm : Rm) (s : State) : Host.Outcome State Fault Refusal :=
  run (.fma d a b c wide rm) s (fpResult d (wideFmt wide) fun h => fpFma (h.fVal (wideFmt wide) a) (h.fVal (wideFmt wide) b) (h.fVal (wideFmt wide) c) (wideFmt wide) (h.rm rm) false)

/-- fms (R170). -/
def execFms (d a b c : Reg) (wide : Bool) (rm : Rm) (s : State) : Host.Outcome State Fault Refusal :=
  run (.fms d a b c wide rm) s (fpResult d (wideFmt wide) fun h => fpFma (h.fVal (wideFmt wide) a) (h.fVal (wideFmt wide) b) (h.fVal (wideFmt wide) c).negate (wideFmt wide) (h.rm rm) false)

/-- fnma (R170). -/
def execFnma (d a b c : Reg) (wide : Bool) (rm : Rm) (s : State) : Host.Outcome State Fault Refusal :=
  run (.fnma d a b c wide rm) s (fpResult d (wideFmt wide) fun h => fpFma (h.fVal (wideFmt wide) a).negate (h.fVal (wideFmt wide) b) (h.fVal (wideFmt wide) c) (wideFmt wide) (h.rm rm) false)

/-- The source bits of fcvt: an x register for the integer formats, an f register otherwise (R171). -/
def Hart.cvtSource (h : Hart) (src : Fmt) (a : Reg) : Nat := if src.isInt then (h.getX a).toNat % 2 ^ bitsW src else h.fBits src a

/-- The x register contents of an integer result: sign- or zero-extended (R171). -/
def cvtWord (dst : Fmt) (b : Nat) : Word := if dst = .i32 then (BitVec.ofNat 32 b).signExtend 64 else BitVec.ofNat 64 b

/-- fcvt (R171). -/
def execFcvt (d a : Reg) (dst src : Fmt) (rm : Rm) (s : State) : Host.Outcome State Fault Refusal :=
  run (.fcvt d a dst src rm) s fun s h =>
    let r := fpCvt (h.cvtSource src a) src dst (h.rm rm) false false
    if dst.isInt then fxResult d (fun _ => (cvtWord dst r.1, r.2)) s h else fpResult d dst (fun _ => r) s h

/-- fmvx (R172). -/
def execFmvx (d a : Reg) (s : State) : Host.Outcome State Fault Refusal :=
  run (.fmvx d a) s fun s h => .ok (s.modHart h.key fun g => g.setX d (h.getF a))

/-- fmvf (R172). -/
def execFmvf (d a : Reg) (s : State) : Host.Outcome State Fault Refusal :=
  run (.fmvf d a) s fun s h => .ok (s.modHart h.key fun g => g.setF d (h.getX a))

end Sys2Proof.Machine
end

