-- ==== Sys2Proof/Machine/Vector.lean ====
section
/-! DEFINITION. The vector queue at work: elements and masks of a slot, what an entry does when it issues, its completion,
and the traps of queued instructions (R16 to R18, R37, R177 to R187, R212, R448, R450). -/

namespace Sys2Proof.Machine

/-! ### Elements (R16, R17) -/

/-- The format has 64-bit elements. -/
def isWide (f : Fmt) : Bool := bitsW f == 64

/-- VLMAX (R17). -/
def vlmax (wide : Bool) : Nat := if wide then 256 else 512

/-- A container of a register. -/
def container (v : Vector Half 512) (c : Nat) : Nat := (v[c]?.getD 0).toNat

/-- The bits of element `e` at a format. -/
def elemBits (f : Fmt) (v : Vector Half 512) (e : Nat) : Nat :=
  if isWide f then container v (2 * e) + 2 ^ 32 * container v (2 * e + 1) else container v e % 2 ^ bitsW f

/-- The container of a narrow element: extended by its sign for an .i format, by zero otherwise. -/
def narrow (f : Fmt) (b : Nat) : Half :=
  if f.isSigned && b.testBit (bitsW f - 1) then BitVec.ofNat 32 (b % 2 ^ bitsW f + (2 ^ 32 - 2 ^ bitsW f)) else BitVec.ofNat 32 (b % 2 ^ bitsW f)

/-- A register with the elements that `r` gives written; every other container keeps its bits. -/
def putElems (f : Fmt) (old : Vector Half 512) (r : Nat → Option Nat) : Vector Half 512 :=
  Vector.ofFn fun c =>
    if isWide f then (match r (c.val / 2) with | some b => BitVec.ofNat 32 (b / 2 ^ (32 * (c.val % 2))) | none => old[c])
    else (match r c.val with | some b => narrow f b | none => old[c])

/-- A register with whole containers replaced, `w` containers to an element (moves, merges and permutes). -/
def putContainers (wide : Bool) (old : Vector Half 512) (r : Nat → Option Nat) : Vector Half 512 :=
  Vector.ofFn fun c =>
    if wide then (match r (c.val / 2) with | some b => BitVec.ofNat 32 (b / 2 ^ (32 * (c.val % 2))) | none => old[c])
    else (match r c.val with | some b => BitVec.ofNat 32 b | none => old[c])

/-- The whole containers of element `e`. -/
def wholeElem (wide : Bool) (v : Vector Half 512) (e : Nat) : Nat :=
  if wide then container v (2 * e) + 2 ^ 32 * container v (2 * e + 1) else container v e

/-- Bit `e` of a mask register; k0 reads ones (R15, R18). -/
def Slot.on (x : Slot) (k : KReg) (e : Nat) : Bool := k = 0 || (x.k[k])[e]?.getD false

/-! ### Registers of a slot -/

/-- Pulls the registers that an entry uses, those that it writes too, from the vector home (R427). -/
def State.pull (s : State) (i : SlotId) (h : Hart) (vs : List Reg) (ks : List KReg) : State :=
  ks.foldl (fun s k => s.pullK i h k) (vs.foldl (fun s v => s.pullV i h v) s)

/-- Writes v[r] of a slot. -/
def State.setV (s : State) (i : SlotId) (r : Reg) (v : Vector Half 512) : State :=
  let x := s.slot i
  s.putSlot { x with v := x.v.set r v, vValid := x.vValid ||| BitVec.twoPow 32 r.val, vDirty := x.vDirty ||| BitVec.twoPow 32 r.val }

/-- Writes k[r] of a slot; a write to k0 is discarded (R15). -/
def State.setK (s : State) (i : SlotId) (r : KReg) (v : Vector Bool 512) : State :=
  if r = 0 then s
  else
    let x := s.slot i
    s.putSlot { x with k := x.k.set r v, kValid := x.kValid ||| BitVec.twoPow 8 r.val, kDirty := x.kDirty ||| BitVec.twoPow 8 r.val }

/-- Flags go into vfcsr (R100). -/
def State.orVflags (s : State) (k : HartKey) (fl : Flags) : State :=
  s.modHart k fun h => { h with csr := { h.csr with vfcsr := h.csr.vfcsr ||| fl } }

/-- The rounding mode of a vector or tensor instruction when it executes (R95). -/
def Hart.vrm (h : Hart) (rm : Rm) : Rm := resolveRm rm (h.csr.vfcsr.setWidth 3)

/-! ### Operands of an entry (R177, R179, R186) -/

/-- Where an entry executes: the hart, its slot and the entry. -/
structure Job where
  hart : Hart
  slot : SlotId
  entry : Entry
deriving Repr

/-- n of R177. -/
def Entry.count (e : Entry) (wide : Bool) : Nat := min e.vl.toNat (vlmax wide)

/-- The value that a scalar second source holds when its instruction enters the queue (R32). -/
def Hart.scalar2 (h : Hart) (f : Fmt) : Src2 → Word
  | .vec _ => 0
  | .scal x => if f.isFp then h.getF x else h.getX x

/-- Element `e` of the second source: a vector's, or the broadcast of the captured value (R186). -/
def Job.second (j : Job) (x : Slot) (f : Fmt) (s2 : Src2) (e : Nat) : Nat :=
  match s2 with
  | .vec r => elemBits f x.v[r] e
  | .scal _ => if f.isFp then unbox f j.entry.opa else j.entry.opa.toNat % 2 ^ bitsW f

/-- The vector register of a second source. -/
def src2V : Src2 → List Reg
  | .vec r => [r]
  | .scal _ => []

/-! ### What an entry does -/

/-- A trap of a queued instruction: cause, einfo without QPOS, eaddr, and how its entry is saved. -/
structure QueueTrap where
  cause : BitVec 8
  info : Word
  addr : Word
  status : BitVec 8
  elem : BitVec 16
  nfault : BitVec 5
  fovf : Bool
deriving DecidableEq, Repr

/-- What becomes of an entry that issues: it completes, with the result for its x register, it stays in the queue as given, it
waits as a waiting instruction, or it traps. -/
inductive Issue where
  | done (s : State) (r : Option Word)
  | stay (s : State) (e : Entry)
  | wait (s : State)
  | trap (s : State) (q : QueueTrap)
deriving Repr

/-- Elements of a lane cluster on a class (R208). -/
def clusterElems (c : Cls) (wide : Bool) : Nat := if wide then lcsize c / 2 else lcsize c

/-- Where the pass that begins at the entry's element ends, of `n` elements (R183). -/
def Job.passEnd (j : Job) (wide : Bool) (n : Nat) : Nat :=
  let size := clusterElems j.hart.cls wide
  if size = 0 then n else min n ((j.entry.elem.toNat / size + 1) * size)

/-- An entry whose elements below `stop` are complete: it is done, or goes on with the next pass (R184). -/
def passed (s : State) (j : Job) (stop n : Nat) : Issue :=
  if n ≤ stop || n ≤ j.entry.elem.toNat then .done s none else .stay s { j.entry with elem := BitVec.ofNat 16 stop, status := stActive }

/-- The results of the active elements from start to stop − 1, each computed once. -/
def activeResults (start stop : Nat) (on : Nat → Bool) (g : Nat → Nat × Flags) : Vector (Option (Nat × Flags)) 512 :=
  Vector.ofFn fun e => if start ≤ e.val && decide (e.val < stop) && on e.val then some (g e.val) else none

/-- The union of the flags. -/
def flagsOf (r : Vector (Option (Nat × Flags)) 512) : Flags :=
  r.toList.foldl (fun fl x => match x with | some (_, g) => fl ||| g | none => fl) 0

/-- A pass of an elementwise instruction: element `e` of `vd` becomes `g e` where it is active (R178, R183). `wide` says that some format of
the instruction has 64 bits. -/
def elementwise (s : State) (j : Job) (vd : Reg) (srcs : List Reg) (k : KReg) (f : Fmt) (wide : Bool) (g : Slot → Nat → Nat × Flags) : Issue :=
  let s := s.pull j.slot j.hart (vd :: srcs) [k]
  let x := s.slot j.slot
  let n := j.entry.count wide
  let stop := j.passEnd wide n
  let r := activeResults j.entry.elem.toNat stop (x.on k) (g x)
  passed ((s.setV j.slot vd (putElems f x.v[vd] fun e => ((r[e]?).getD none).map (·.1))).orVflags j.hart.key (flagsOf r)) j stop n

/-- An instruction that moves whole containers at once (R91): element `e` of `vd` becomes `g e`, where that is given. -/
def moveWhole (s : State) (j : Job) (vd : Reg) (srcs : List Reg) (k : KReg) (f : Fmt) (g : Slot → Nat → Option Nat) : Issue :=
  let s := s.pull j.slot j.hart (vd :: srcs) [k]
  let x := s.slot j.slot
  let n := j.entry.count (isWide f)
  .done (s.setV j.slot vd (putContainers (isWide f) x.v[vd] fun e => if e < n then g x e else none)) none

/-- A pass of an instruction that moves whole containers (R91, R218): from the entry's element on, element `e` of `vd` becomes `g e`, where that is
given. -/
def movement (s : State) (j : Job) (vd : Reg) (srcs : List Reg) (k : KReg) (f : Fmt) (g : Slot → Nat → Option Nat) : Issue :=
  let s := s.pull j.slot j.hart (vd :: srcs) [k]
  let x := s.slot j.slot
  let n := j.entry.count (isWide f)
  let stop := j.passEnd (isWide f) n
  passed (s.setV j.slot vd (putContainers (isWide f) x.v[vd] fun e => if j.entry.elem.toNat ≤ e && decide (e < stop) then g x e else none)) j stop n

/-- A pass of a compare into a mask (R180): the bits from n upward are written with the last pass. -/
def compareInto (s : State) (j : Job) (kd : KReg) (srcs : List Reg) (k : KReg) (f : Fmt) (g : Slot → Nat → Bool × Flags) : Issue :=
  let s := s.pull j.slot j.hart srcs [k, kd]
  let x := s.slot j.slot
  let start := j.entry.elem.toNat
  let n := j.entry.count (isWide f)
  let stop := j.passEnd (isWide f) n
  let r := activeResults start stop (x.on k) fun e => (if (g x e).1 then 1 else 0, (g x e).2)
  let bits : Vector Bool 512 := Vector.ofFn fun e =>
    if decide (e.val < start) || (decide (stop ≤ e.val) && decide (stop < n)) then x.on kd e.val
    else (match (r[e.val]?).getD none with | some (b, _) => b == 1 | none => false)
  passed ((s.setK j.slot kd bits).orVflags j.hart.key (flagsOf r)) j stop n

/-! ### Traps of queued instructions (R212, R448, R450) -/

/-- ILLEGAL_INSN of an entry (R37). -/
def QueueTrap.illegal (e : Entry) (status : BitVec 8) : QueueTrap :=
  { cause := 0x01, info := 0, addr := 0, status := status, elem := e.elem, nfault := 0, fovf := false }

/-- einfo of a queued trap without its position (Table 8.5). -/
def queueInfo (port elem nfault : Nat) (fovf : Bool) : Word :=
  BitVec.ofNat 64 (port * 2 ^ 56 + elem * 2 ^ 16 + (if fovf then 2 ^ 13 else 0) + nfault * 2 ^ 8)

/-- The x destinations of entries are no longer pending. -/
def Hart.unpend (h : Hart) (es : List Entry) : Hart :=
  es.foldl (fun h e => match e.instr?.bind queuedDest with | some d => h.setPend d false | none => h) h

/-- The destinations of entries become pending again, as they enter the queue. -/
def Hart.repend (h : Hart) (es : List Entry) : Hart :=
  es.foldl (fun h e => match e.instr?.bind queuedDest with | some d => h.setPend d true | none => h) h

/-- The hart with one stream changed. -/
def Hart.modStream (h : Hart) (n : Stream) (f : StreamState → StreamState) : Hart :=
  { h with eng := { h.eng with streams := h.eng.streams.set n ((h.eng.streams[n]).map f) } }

/-- Entries that are discarded re-issue no more: a stream forgets where a vld.st among them issued first (R215, R448). -/
def Hart.forgetPops (h : Hart) (es : List Entry) : Hart :=
  es.foldl (fun h e =>
    match e.instr? with
    | some (.vld_st o) => if e.pos.isSome then h.modStream o.st fun u => { u with first := u.first.tail } else h
    | some _ => h
    | none => h) h

/-- An entry as a trap leaves it. -/
def Entry.trapped (e : Entry) (q : QueueTrap) : Entry :=
  { e with status := q.status, elem := q.elem, nfault := q.nfault, fovf := q.fovf }.saved

/-- The entry at a position of the hart's queue traps. Delegated, it and every younger entry are held, before what an outer
trap holds (R450, R513); QPOS is the position with which it entered the queue (log 75). From T to S the queue is saved; at S it and every younger entry are discarded (R448). While an AtomicOp of the
scalar stream is out, the entry issues again later (log 2). -/
def State.queueTrap (s : State) (k : HartKey) (pos : Nat) (q : QueueTrap) : State :=
  match s.hart? k with
  | none => s
  | some h =>
    if h.sent then
      s.modHart k fun h => { h with queue := h.queue.modify pos fun e => { e with issued := false, paddrs := [], elem := q.elem } }
    else
    let s := s.noteError h.ctx q.cause q.addr
    let t : Trap := { cause := q.cause, info := q.info + BitVec.ofNat 64 ((h.queue[pos]?.map Entry.place).getD pos), addr := q.addr, queued := true }
    let rest := (h.queue.drop pos).zipIdx.map fun x => if x.2 = 0 then x.1.trapped q else x.1.saved
    if h.delegates q.cause then
      let outer := s.heldEntries h
      (s.modHart k fun h =>
        { h with
          queue := h.queue.take pos
          held := .queue (rest ++ outer)
          heldCls := if h.held == .none then BitVec.ofNat 2 h.cls.code else h.heldCls }).modHart k fun h => h.enterU t
    else if h.level == .t then
      (s.modHart k fun h => { h with queue := h.queue.take pos ++ rest, sched := { h.sched with stepDue := none } }).trapS k t
    else
      (s.modHart k fun h => { (h.unpend (h.queue.drop pos)).forgetPops (h.queue.drop pos) with queue := h.queue.take pos }).trapS k t

/-! ### The turn of an entry -/

/-- The instruction is one of major 0x3C (R226). -/
def isTensor (i : Instr) : Bool := featureBit i == 3

/-- The instruction of an entry; a restored entry passes the checks of R37 first: a status of Table 1.12, an element within
its length, reserved bits zero. A status MARKER on an entry that is no bar.arrive is one for which the spec gives no outcome: the model takes it
as a reserved status (log 39). -/
def Entry.check (e : Entry) : Option Instr :=
  match e.instr? with
  | none => none
  | some i =>
    if !e.restored then some i
    else if (e.status == stWaiting || e.status == stActive || e.status == stFaulted || (e.status == stMarker && isMarker i)) && e.rsv == 0 &&
      decide (e.elem.toNat ≤ e.bound) then some i
    else none

/-- The entry is a marker that waits for its condition. -/
def Entry.marks (e : Entry) : Bool := e.status == stMarker && e.check.isSome

/-- Position of the entry whose turn it is: the oldest that is no unfired marker (R307). -/
def Hart.turn (h : Hart) : Option Nat := h.queue.findIdx? fun e => !e.marks

/-- The entry at a position completes: it leaves the queue and its result reaches its register (R33). -/
def State.completeEntry (s : State) (k : HartKey) (pos : Nat) (d : Option Reg) (r : Option Word) : State :=
  s.modHart k fun h =>
    let h := { h with queue := h.queue.eraseIdx pos }
    match d with
    | none => h
    | some x => (match r with | some v => h.setX x v | none => h).setPend x false

/-- A waiting instruction in the queue makes its hart wait (R245, R413); `on` false ends that wait. -/
def State.queueWait (s : State) (k : HartKey) (on : Bool) : State :=
  s.modHart k fun h =>
    if h.waitFor.isSome then h
    else if on && h.sched.status == .running then { h with sched := { h.sched with status := .waiting, waitSince := s.time } }
    else if !on && h.sched.status == .waiting then { h with sched := { h.sched with status := .running } }
    else h

/-- The state after an entry has issued. -/
def settleEntry (k : HartKey) (pos : Nat) (i : Instr) : Issue → State
  | .done s r => (s.completeEntry k pos (queuedDest i) r).queueWait k false
  | .stay s e => s.modHart k fun h => { h with queue := h.queue.set pos e }
  | .wait s => s.queueWait k true
  | .trap s q => s.queueTrap k pos q

end Sys2Proof.Machine
end

