-- ==== Sys2Proof/Machine/VecMem.lean ====
section
/-! DEFINITION. Vector loads and stores (R201 to R215): run-ahead, the lane clusters, their errors, and stream pops. -/

namespace Sys2Proof.Machine

/-! ### Run-ahead (R205, R206) -/

/-- Bytes that an element takes in memory (Table 8.1); a nibble form counts as a byte. -/
def memSize (f : Fmt) : Nat := if f == .e2m1 then 1 else bitsW f / 8

/-- What run-ahead meets at a page. -/
structure PageFault where
  elem : Nat
  va : Word
  cause : Nat
  reason : Nat
  vault : Nat
  page : Nat × Nat
deriving DecidableEq, Repr

/-- Bytes that one page-table entry maps at a level. -/
def pteBytes (level : Nat) : Nat := if level ≤ 4 then 4096 * 512 ^ level else 4096

/-- The fault of one address, with the page-table entry at which it fails: the bytes that it maps, and its place among such entries (R205). Each
entry of a 64 KiB group counts for itself (log 22). -/
def pageFault (s : State) (c : Ctx) (elem : Nat) (va : Word) (n : Need) (d : Deny) : PageFault :=
  let leaf := match s.translate c va with | .ok x => (if x.entry.size = 0x10000 then 4096 else x.entry.size) | .error _ => 4096
  match d with
  | .page reason level =>
    { elem := elem, va := va, cause := if n == .load then 6 else 7, reason := reason, vault := 0, page := (pteBytes level, va.toNat / pteBytes level) }
  | .vault reason index =>
    { elem := elem, va := va, cause := 8, reason := reason + 3, vault := index.toNat, page := (leaf, va.toNat / leaf) }

/-- One record for each page, the first element's (R206). -/
def onePerPage : List PageFault → List (Nat × Nat) → List PageFault
  | [], _ => []
  | f :: l, seen => if seen.contains f.page then onePerPage l seen else f :: onePerPage l (f.page :: seen)

/-- A synchronous fault record (Table 8.3). -/
def PageFault.bytes (f : PageFault) : List Byte :=
  leBytes 32 (packFields [(8, f.cause), (56, f.reason), (32, f.vault), (44, f.elem), (52, f.va.toNat / 4096), (64, f.va.toNat)])

/-- Address of the synchronous fault list (Table 18.5). -/
def faultList (area : Nat) : Nat := area + 0x1000

/-- The trap of faulting pages, and the records it writes. -/
def pageTrap (s : State) (j : Job) (fs : List PageFault) : Issue :=
  match fs with
  | [] => .stay s j.entry
  | f :: _ =>
    let rs := fs.take 16
    let s := match j.hart.area with | some a => s.writeOwn (faultList a) (rs.map PageFault.bytes).flatten | none => s
    .trap s
      { cause := BitVec.ofNat 8 f.cause, info := queueInfo 0 0 rs.length (decide (16 < fs.length)), addr := f.va, status := stFaulted,
        elem := j.entry.elem, nfault := BitVec.ofNat 5 rs.length, fovf := decide (16 < fs.length) }

/-- The address a misaligned entry reports: that of the lowest misaligned element (R205), or, of a tile, the lowest
misaligned address (R238). -/
def misalignedAt (tile : Bool) (l : List (Nat × Word)) (n : Nat) : Option Word :=
  match (l.filter fun x => x.2.toNat % n ≠ 0).map (·.2) with
  | [] => none
  | va :: r => some (if tile then r.foldl (fun a b => if b.toNat < a.toNat then b else a) va else va)

/-- Run-ahead over the addresses of an entry, each with its element or row, and `n` bytes: a trap with nothing accessed, a wait
for a copy in flight (R288) or an older access of the stream (R285), or the entry issued with every access translated (R441). -/
def runAhead (s : State) (j : Job) (tile : Bool) (l : List (Nat × Word)) (n : Nat) (need : Need) : Issue :=
  match misalignedAt tile l n with
  | some va =>
    .trap s { cause := 0x04, info := 0, addr := va, status := stFaulted, elem := j.entry.elem, nfault := 0, fovf := false }
  | none =>
    let c := j.hart.ctx
    let r := l.map fun x => (x.1, x.2, s.access c x.2 need)
    match onePerPage (r.filterMap fun x => match x.2.2 with | .error d => some (pageFault s c x.1 x.2.1 need d) | .ok _ => none) [] with
    | f :: fs => pageTrap s j (f :: fs)
    | [] =>
      if l.any fun x => s.interlocked j.hart x.2 n || s.behind j.hart x.2 n (need == .store) then .stay s j.entry
      else
        let ok := r.filterMap fun x => match x.2.2 with | .ok t => some (x.1, t) | .error _ => none
        if ok.isEmpty then .done s none
        else
          .stay (ok.foldl (fun s x => s.fillTlb x.2) s)
            { j.entry with
              issued := true
              status := stActive
              paddrs := ok.map fun x => (x.1, x.2.vault, x.2.pa)
              since := s.time
              limit := j.hart.csr.eptlim }

/-! ### Performing a lane cluster (R208, R209) -/

/-- Whether a vector load takes a line, by its vault, its hint bits and its footprint (Tables 8.7 and 14.4,
R214). -/
def State.vectorAlloc (s : State) (v : Via) (hint : Hint) (footprint : Nat) : Option Bool :=
  match s.vaultOf v with
  | none => none
  | some vt =>
    if hint == 2 then none
    else if hint == 1 then some true
    else if vt.write = 2 then none
    else if vt.bypass ≠ 0 && decide (vt.bypass < footprint) then none
    else some true

/-- Whether a write takes a line, by its hint bits (R83), where its vault lets writes do so; `usual` is the priority without a hint. -/
def hintAlloc (hint : Hint) (usual : Bool) : Option Bool := if hint == 2 then none else some (usual || hint == 1)

/-- The trap of an error found after translation: MEMORY_ERROR, or REMOTE_DEAD (R209). -/
def errorTrap (dead : Bool) (elem first : Nat) (va : Word) : QueueTrap :=
  { cause := if dead then 0x17 else 0x13, info := queueInfo 0 elem 0 false, addr := va, status := stActive, elem := BitVec.ofNat 16 first,
    nfault := 0, fovf := false }

/-- An access of an entry that awaits memory: its element, and how it goes. -/
abbrev Access := Nat × BitVec 8 × Nat

/-- The way of a queued access through the caches. -/
def Job.via (j : Job) (vault : BitVec 8) : Via := j.hart.ctx.via vault

/-- How an entry accesses memory: bytes to an access; for a load, its hint bits and its footprint, for a store, its hint bits and whether the
accesses of a cluster are one write, as those of a row of mst are (R370). -/
inductive How where
  | load (n : Nat) (hint : Hint) (footprint : Nat)
  | store (n : Nat) (hint : Hint) (row : Bool)

/-- The accesses are writes. -/
def How.isStore : How → Bool
  | .load _ _ _ => false
  | .store _ _ _ => true

/-- Bytes of an access. -/
def How.bytes : How → Nat
  | .load n _ _ => n
  | .store n _ _ => n

/-- Asks the host for what the accesses need (R379): whether sectors are still to come, and those that it refused. -/
def How.wants (w : How) (s : State) (j : Job) (l : List Access) : State × Bool × List Nat :=
  match w with
  | .load n hint fp => s.askReads (l.map fun x => (j.via x.2.1, x.2.2, n, s.vectorAlloc (j.via x.2.1) hint fp))
  | .store n hint row =>
    s.wantEach l (fun x => x.2.2) fun s x =>
      let mine := if row then (l.filter fun y => y.2.1 == x.2.1 && sectorOf y.2.2 == sectorOf x.2.2).length else 1
      s.wantWrite (j.via x.2.1) x.2.2 (n * mine) (hintAlloc hint true)

/-- The first access of a cluster that fails, by its element and its place in the cluster, and whether its completer is dead: what the reply reports, or what the part
itself finds. -/
def State.failing (s : State) (l : List Access) (r : Reply) (store : Bool) : Option (Nat × Nat × Bool) :=
  l.zipIdx.findSome? fun y =>
    let x := y.1
    if (s.deadAt x.2.2).isSome || r == .dead x.1 then some (x.1, y.2, true)
    else if (!store && s.corrupted x.2.2) || r == .error x.1 then some (x.1, y.2, false)
    else none

/-- The answer for the cluster of an entry that awaits memory: `size` elements to a cluster, `n` elements in all; `perform` does
the accesses of one cluster, given the sectors that the host refused, and `va` gives the address of an element, or of the access at a place of a row, for a report. A region that is closing, or
the host, keeps it waiting. After an error in a cluster of a vector store none of the
elements below the failing one is performed, and after one in a row of mst none of the row (R209, R238; log 23). -/
def respond (s : State) (j : Job) (r : Reply) (size n : Nat) (w : How) (va : Nat → Nat → Word)
    (perform : State → List Nat → List Access → State) : Issue :=
  match j.entry.paddrs with
  | [] => .stay s j.entry
  | p :: _ =>
    let c := p.1 / size
    let now := j.entry.paddrs.filter fun x => x.1 / size == c
    let rest := j.entry.paddrs.filter fun x => x.1 / size != c
    let first := max (c * size) j.entry.elem.toNat
    match s.failing now r w.isStore with
    | some (e, at_, dead) => .trap s (errorTrap dead e first (va e at_))
    | none =>
      if !w.isStore && now.any fun x => s.readWaits x.2.2 (s.cacheDie (j.via x.2.1) x.2.2) then .stay s j.entry
      else
        match w.wants s j now with
        | (s, true, _) => .stay s j.entry
        | (s, false, bad) =>
          match (if w.isStore then none else now.zipIdx.find? fun y => (sectorsOf y.1.2.2 w.bytes).any bad.contains) with
          | some (x, at_) => .trap s (errorTrap false x.1 first (va x.1 at_))
          | none =>
            let s := (perform s bad now).landAll (now.map (·.2.2))
            if rest.isEmpty then .done s none
            else .stay s { j.entry with paddrs := rest, elem := BitVec.ofNat 16 (min n ((c + 1) * size)), status := stActive, since := s.time,
                                        limit := j.hart.csr.eptlim }

/-- The byte of an address that the newest store in the path of a hart holds, of those that vector reads see there (R340, log 20). -/
def Hart.pathByte (h : Hart) (pa : Nat) : Option Byte :=
  h.path.foldl (fun b p => if p.seen && decide (p.pa ≤ pa) && decide (pa < p.pa + p.bytes.length) then p.bytes[pa - p.pa]? else b) none

/-- Bytes as a vector-stream read of a hart finds them: memory, or its own store path (R340). -/
def State.viewVector (s : State) (k : HartKey) (v : Via) (pa n : Nat) : List Byte :=
  match s.hart? k with
  | some h => (s.view v pa n).zipIdx.map fun x => (h.pathByte (pa + x.2)).getD x.1
  | none => s.view v pa n

/-- A vector-stream read of `n` bytes. -/
def State.readVector (s : State) (j : Job) (x : BitVec 8 × Nat) (va : Word) (n : Nat) (hint : Hint) (footprint : Nat) : State × Nat :=
  let v := j.via x.1
  (((s.correct x.2).readTouch v x.2 (s.vectorAlloc v hint footprint) false).noteRead j.hart.key (j.hart.slotMask va n) x.2, leNat (s.viewVector j.hart.key v x.2 n))

/-- A vector-stream write of `n` bytes; a sector that the host refused loses it. -/
def State.writeVector (s : State) (j : Job) (bad : List Nat) (x : BitVec 8 × Nat) (va : Word) (n : Nat) (hint : Hint) (v : Nat) : State :=
  s.writeSpan j.hart.key (j.via x.1) (j.hart.slotMask va n) (hintAlloc hint true) false bad x.2 (leBytes n v)

/-! ### The forms (Table 8.2) -/

/-- Base of a vector access (R201): the captured register plus the offset. -/
def vecBase (e : Entry) (off : BitVec 11) : Word := e.opa + off.signExtend 64

/-- Address of element `e` in the unit form; two E2M1 elements share a byte. -/
def unitAddr (en : Entry) (f : Fmt) (off : BitVec 11) (e : Nat) : Word :=
  vecBase en off + BitVec.ofNat 64 (if f == .e2m1 then e / 2 else e * memSize f)

/-- In the strided form; the stride is captured. -/
def strideAddr (en : Entry) (off : BitVec 11) (e : Nat) : Word := vecBase en off + BitVec.ofNat 64 e * en.opb

/-- In the indexed form: a signed byte offset from the index vector. -/
def indexAddr (en : Entry) (f : Fmt) (off : BitVec 11) (ix : Vector Half 512) (e : Nat) : Word :=
  vecBase en off + (if isWide f then BitVec.ofNat 64 (wholeElem true ix e) else (BitVec.ofNat 32 (wholeElem false ix e)).signExtend 64)

/-- The active elements that remain, with their addresses. -/
def activeAddrs (x : Slot) (en : Entry) (k : KReg) (f : Fmt) (addr : Nat → Word) : List (Nat × Word) :=
  ((List.range (en.count (isWide f))).filter fun e => decide (en.elem.toNat ≤ e) && x.on k e).map fun e => (e, addr e)

/-- The value that memory gives an element: for E2M1 a nibble of its byte (R202). -/
def loaded (f : Fmt) (unit : Bool) (e v : Nat) : Nat :=
  if f == .e2m1 then (if unit && e % 2 == 1 then v / 16 else v % 16) else v

/-- Issues a load or a store whose addresses `addr` gives. -/
def issueAccess (s : State) (j : Job) (v : Reg) (more : List Reg) (k : KReg) (f : Fmt) (need : Need) (addr : Slot → Nat → Word) : Issue :=
  if j.entry.issued then .stay s j.entry
  else
    let s := s.pull j.slot j.hart (v :: more) [k]
    let x := s.slot j.slot
    runAhead s j false (activeAddrs x j.entry k f (addr x)) (memSize f) need

/-- One cluster of a load is written (Table 8.1). -/
def loadCluster (s : State) (j : Job) (v : Reg) (f : Fmt) (unit : Bool) (hint : Hint) (footprint : Nat) (va : Nat → Word) (l : List Access) : State :=
  let (s, got) := l.foldl (fun a x =>
    let (s, b) := a.1.readVector j x.2 (va x.1) (memSize f) hint footprint
    (s, (x.1, loaded f unit x.1 b) :: a.2)) (s, [])
  s.setV j.slot v (putElems f (s.slot j.slot).v[v] fun e => got.lookup e)

/-- One cluster of a store is performed, in ascending element order (R204). -/
def storeCluster (s : State) (j : Job) (v : Reg) (f : Fmt) (unit : Bool) (hint : Hint) (va : Nat → Word) (bad : List Nat) (l : List Access) : State :=
  l.foldl (fun s x =>
    let b := elemBits f (s.slot j.slot).v[v] x.1
    let b := if f == .e2m1 && unit then
        (let old := (Mem.get s.mem x.2.2).toNat; if x.1 % 2 = 1 then old % 16 + 16 * b else old / 16 * 16 + b)
      else b
    s.writeVector j bad x.2 (va x.1) (memSize f) hint b) s

/-- The answer to a load. -/
def loadReply (s : State) (j : Job) (v : Reg) (f : Fmt) (unit : Bool) (hint : Hint) (footprint : Nat) (va : Nat → Word) (r : Reply) : Issue :=
  respond s j r (clusterElems j.hart.cls (isWide f)) (j.entry.count (isWide f)) (.load (memSize f) hint footprint) (fun e _ => va e) fun s _ l =>
    loadCluster s j v f unit hint footprint va l

/-- The answer to a store. -/
def storeReply (s : State) (j : Job) (v : Reg) (f : Fmt) (unit : Bool) (hint : Hint) (va : Nat → Word) (r : Reply) : Issue :=
  respond s j r (clusterElems j.hart.cls (isWide f)) (j.entry.count (isWide f)) (.store (memSize f) hint false) (fun e _ => va e) fun s bad l =>
    storeCluster s j v f unit hint va bad l

/-- Footprint of a unit load (R214): an E2M1 element takes half a byte, rounded up in all. -/
def unitFootprint (e : Entry) (f : Fmt) : Nat := if f == .e2m1 then (e.count false + 1) / 2 else e.count (isWide f) * memSize f

/-- Footprint of a strided load (R214). -/
def strideFootprint (e : Entry) (f : Fmt) : Nat := e.count (isWide f) * max (memSize f) e.opb.toInt.natAbs

/-- vld (R201): consecutive elements. -/
def execVld (o : VMem) (s : State) : Host.Outcome State Fault Refusal := run (.vld o) s fun s h => commitVec (.vld o) (h.getX o.base) 0 0 s h

/-- vld issues. -/
def issueVld (o : VMem) (s : State) (j : Job) : Issue := issueAccess s j o.v [] o.k o.fmt .load fun _ => unitAddr j.entry o.fmt o.off

/-- A cluster of vld. -/
def replyVld (o : VMem) (s : State) (j : Job) (r : Reply) : Issue :=
  loadReply s j o.v o.fmt true o.hint (unitFootprint j.entry o.fmt) (unitAddr j.entry o.fmt o.off) r

/-- vlds (R201): a stride in a register. -/
def execVlds (o : VMemIx) (s : State) : Host.Outcome State Fault Refusal :=
  run (.vlds o) s fun s h => commitVec (.vlds o) (h.getX o.base) (h.getX o.ix) 0 s h

/-- vlds issues. -/
def issueVlds (o : VMemIx) (s : State) (j : Job) : Issue := issueAccess s j o.v [] o.k o.fmt .load fun _ => strideAddr j.entry o.off

/-- A cluster of vlds. -/
def replyVlds (o : VMemIx) (s : State) (j : Job) (r : Reply) : Issue :=
  loadReply s j o.v o.fmt false o.hint (strideFootprint j.entry o.fmt) (strideAddr j.entry o.off) r

/-- vldx (R201): an index vector. -/
def execVldx (o : VMemIx) (s : State) : Host.Outcome State Fault Refusal := run (.vldx o) s fun s h => commitVec (.vldx o) (h.getX o.base) 0 0 s h

/-- vldx issues. -/
def issueVldx (o : VMemIx) (s : State) (j : Job) : Issue :=
  issueAccess s j o.v [o.ix] o.k o.fmt .load fun x => indexAddr j.entry o.fmt o.off x.v[o.ix]

/-- A cluster of vldx. The addresses are those of the issue: a report takes the failing element's from the index vector as it
stands, whose elements from the failing cluster up no load has written yet. -/
def replyVldx (o : VMemIx) (s : State) (j : Job) (r : Reply) : Issue :=
  loadReply s j o.v o.fmt false o.hint (j.entry.count (isWide o.fmt) * memSize o.fmt) (indexAddr j.entry o.fmt o.off (s.slot j.slot).v[o.ix]) r

/-- vst (R201). -/
def execVst (o : VMem) (s : State) : Host.Outcome State Fault Refusal := run (.vst o) s fun s h => commitVec (.vst o) (h.getX o.base) 0 0 s h

/-- vst issues. -/
def issueVst (o : VMem) (s : State) (j : Job) : Issue := issueAccess s j o.v [] o.k o.fmt .store fun _ => unitAddr j.entry o.fmt o.off

/-- A cluster of vst. -/
def replyVst (o : VMem) (s : State) (j : Job) (r : Reply) : Issue := storeReply s j o.v o.fmt true o.hint (unitAddr j.entry o.fmt o.off) r

/-- vsts (R201). -/
def execVsts (o : VMemIx) (s : State) : Host.Outcome State Fault Refusal :=
  run (.vsts o) s fun s h => commitVec (.vsts o) (h.getX o.base) (h.getX o.ix) 0 s h

/-- vsts issues. -/
def issueVsts (o : VMemIx) (s : State) (j : Job) : Issue := issueAccess s j o.v [] o.k o.fmt .store fun _ => strideAddr j.entry o.off

/-- A cluster of vsts. -/
def replyVsts (o : VMemIx) (s : State) (j : Job) (r : Reply) : Issue := storeReply s j o.v o.fmt false o.hint (strideAddr j.entry o.off) r

/-- vstx (R201). -/
def execVstx (o : VMemIx) (s : State) : Host.Outcome State Fault Refusal := run (.vstx o) s fun s h => commitVec (.vstx o) (h.getX o.base) 0 0 s h

/-- vstx issues. -/
def issueVstx (o : VMemIx) (s : State) (j : Job) : Issue :=
  issueAccess s j o.v [o.ix] o.k o.fmt .store fun x => indexAddr j.entry o.fmt o.off x.v[o.ix]

/-- A cluster of vstx. -/
def replyVstx (o : VMemIx) (s : State) (j : Job) (r : Reply) : Issue :=
  storeReply s j o.v o.fmt false o.hint (indexAddr j.entry o.fmt o.off (s.slot j.slot).v[o.ix]) r

/-! ### Stream pops (R215) -/

/-- vld.st (R215). -/
def execVldSt (o : VPop) (s : State) : Host.Outcome State Fault Refusal := run (.vld_st o) s fun s h => commitVec (.vld_st o) 0 0 0 s h

/-- Address of stream element `p` (R262). -/
def StreamState.addr (t : StreamState) (p : Nat) : Word :=
  t.base + BitVec.ofNat 64 (p % t.c0) * t.s0 + BitVec.ofNat 64 (p / t.c0 % t.c1) * t.s1 + BitVec.ofNat 64 (p / (t.c0 * t.c1)) * t.s2

/-- Element formats in the order of their codes. -/
def fmtList : List Fmt := [.i8, .n8, .i16, .n16, .i32, .n32, .i64, .n64, .f16, .bf16, .f32, .f64, .e4m3, .e5m2, .e2m1, .e8m0]

/-- Bytes of a stream element. -/
def StreamState.elemSize (t : StreamState) : Nat := memSize (fmtList.getD t.fmt.toNat .i8)

/-- The elements of a stream that a vld.st takes are counted by the slots of its hart as it pops them (R301), and a write that they return is
observed then (R291, R304). -/
def State.notePops (s : State) (j : Job) (t : StreamState) (l : List Nat) : State :=
  l.foldl (fun s p =>
    match t.buf.lookup p with
    | some x => s.noteRead j.hart.key (j.hart.slotMask (t.addr p) t.elemSize) x.1
    | none => s) s

/-- A lane cluster of vld.st, once the strip buffer holds its elements (R215). -/
def popCluster (o : VPop) (t : StreamState) (base size n : Nat) (s : State) (j : Job) : Issue :=
  let start := j.entry.elem.toNat
  let stop := if size = 0 then n else min n ((start / size + 1) * size)
  let x := s.slot j.slot
  let want := (List.range stop).filter fun e => decide (start ≤ e) && x.on o.k e
  let finish := fun s : State => Issue.done (s.modHart j.hart.key fun h => h.modStream o.st fun u =>
    { u with pos := u.pos + n, first := u.first.tail, buf := u.buf.filter fun b => decide (u.pos + n ≤ b.1) }) none
  if n ≤ start then finish s
  else if want.all fun e => decide (t.length ≤ base + e) || (t.buf.lookup (base + e)).isSome then
    let s := (s.notePops j t (want.map (base + ·))).setV j.slot o.vd (putElems o.fmt x.v[o.vd] fun e =>
      if want.contains e then some (if t.length ≤ base + e then 0 else leNat ((t.buf.lookup (base + e)).getD (0, [])).2) else none)
    if n ≤ stop then finish s
    else .stay s { j.entry with elem := BitVec.ofNat 16 stop, status := stActive, since := s.time, limit := j.hart.csr.eptlim }
  else .stay s j.entry

/-- The position of the first issue of a vld.st, where it has issued before: its entry knows it, or, once it has been saved, its stream (R215). -/
def Entry.firstPos (e : Entry) (t : StreamState) : Option Nat :=
  match e.pos with
  | some p => some p
  | none => if e.restored && e.status == stActive then t.first.head? else none

/-- vld.st issues; a re-issue lets withheld elements be fetched again (R263). One that has issued before it was saved keeps the position of its first
issue, which its stream remembers; what a handler pops of the stream meanwhile moves the position after it alone (R215). -/
def issueVldSt (o : VPop) (s : State) (j : Job) : Issue :=
  match j.hart.eng.streams[o.st] with
  | none => .trap s (.illegal j.entry stFaulted)
  | some t =>
    if t.fmt != o.fmt.code then .trap s (.illegal j.entry stFaulted)
    else
      let s := s.pull j.slot j.hart [o.vd] [o.k]
      let s := if j.entry.restored && !j.entry.issued then s.modHart j.hart.key fun h => h.modStream o.st fun u => { u with withheld := [] } else s
      let base := (j.entry.firstPos t).getD t.pos
      let s := if (j.entry.firstPos t).isSome then s else s.modHart j.hart.key fun h => h.modStream o.st fun u => { u with first := base :: u.first }
      let en := if j.entry.issued then j.entry
        else { j.entry with issued := true, status := stActive, pos := some base, since := s.time, limit := j.hart.csr.eptlim }
      popCluster o t base (clusterElems j.hart.cls (isWide o.fmt)) (en.count (isWide o.fmt)) s { j with entry := en }

end Sys2Proof.Machine
end

