-- ==== Sys2Proof/Machine/Engine.lean ====
section
/-! DEFINITION. Engine instructions: operand accesses, copies as they are accepted, copy barriers, streams, mailboxes and
messages (R243 to R268). -/

namespace Sys2Proof.Machine

/-- Commits an engine instruction (R243): no ownership check. -/
def commitEngine (i : Instr) (a b c : Word) (s : State) (h : Hart) : Effect := commit i a b c stWaiting s h

/-! ### Operand accesses (R246) -/

/-- A range cut at 4 KiB boundaries. `fuel` bounds the pieces. -/
def pageChunks : Nat → Word → Nat → List (Word × Nat)
  | 0, _, _ => []
  | fuel + 1, va, n =>
    if n = 0 then []
    else
      let m := min n (4096 - va.toNat % 4096)
      (va, m) :: pageChunks fuel (va + BitVec.ofNat 64 m) (n - m)

/-- The pieces of a range. -/
def chunksOf (va : Word) (n : Nat) : List (Word × Nat) := pageChunks (n / 4096 + 2) va n

/-- The pieces translated and checked, or the lowest failing address. -/
def translateAll (s : State) (c : Ctx) (need : Need) : List (Word × Nat) → Except (Deny × Word) (List (Xlat × Nat))
  | [] => .ok []
  | (va, n) :: l =>
    match s.access c va need with
    | .error d => .error (d, va)
    | .ok x =>
      match translateAll s c need l with
      | .error e => .error e
      | .ok r => .ok ((x, n) :: r)

/-- What an operand access meets: the translated pieces, with the sectors that the host refused for a write, a wait, or a queued fault. -/
inductive Operand where
  | ready (s : State) (l : List (Xlat × Nat)) (bad : List Nat)
  | stay (s : State)
  | trap (i : Issue)

/-- A queued fault of an engine entry, which is saved FAULTED and has changed nothing (R244). -/
def engineTrap (e : Entry) (cause : BitVec 8) (info va : Word) : QueueTrap :=
  { cause := cause, info := info, addr := va, status := stFaulted, elem := e.elem, nfault := 0, fovf := false }

/-- The queued fault of a denied engine access, with one synchronous fault record (R244, R442). -/
def deniedTrap (s : State) (j : Job) (need : Need) (d : Deny) (va : Word) : Issue := pageTrap s j [pageFault s j.hart.ctx 0 va need d]

/-- Bytes translated, cut at sector ends. -/
def pieceSectors (l : List (Xlat × Nat)) : List (Xlat × Nat × Nat) :=
  l.flatMap fun x => (sectorsOf x.1.pa x.2).map fun sec =>
    (x.1, max sec x.1.pa, min (sec + 64) (x.1.pa + x.2) - max sec x.1.pa)

/-- Writes of pieces ask the host for what they need (R379): whether sectors are still to come, and those that it refused. -/
def State.wantPieces (s : State) (c : Ctx) (alloc : Option Bool) (l : List (Xlat × Nat)) : State × Bool × List Nat :=
  s.wantEach (pieceSectors l) (fun x => x.2.1) fun s x => s.wantWrite (c.via x.1.vault) x.2.1 x.2.2 alloc

/-- Reads of pieces ask the host for what they need; `alloc` says which lines a piece fills. -/
def State.wantReads (s : State) (c : Ctx) (alloc : Xlat × Nat → Option Bool) (l : List (Xlat × Nat)) : State × Bool × List Nat :=
  s.askReads (l.map fun x => (c.via x.1.vault, x.1.pa, x.2, alloc x))

/-- Checks an operand access as a whole (R246): alignment, then every page; it waits for a copy in flight (R288), for an older access
of the stream (R285), and, where it reads, for older stores of the hart (R246). A dead
completer or an error of a read is found here too (R154). -/
def operand (s : State) (j : Job) (va : Word) (n align : Nat) (need : Need) (hint : Hint) : Operand :=
  if va.toNat % align ≠ 0 then .trap (.trap s (engineTrap j.entry 0x04 0 va))
  else
    match translateAll s j.hart.ctx need (chunksOf va n) with
    | .error (d, bad) => .trap (deniedTrap s j need d bad)
    | .ok l =>
      let filled := l.foldl (fun s x => s.fillTlb x.1) s
      if s.interlocked j.hart va n || s.behind j.hart va n (need != .load) then .stay s
      else if need == .load then
        if l.any fun x => j.hart.pathHolds x.1.pa x.2 then .stay s
        else if l.any fun x => (s.deadAt x.1.pa).isSome then .trap (.trap s (engineTrap j.entry 0x17 0 va))
        else if l.any fun x => (sectorsOf x.1.pa x.2).any s.corrupted then .trap (.trap s (engineTrap j.entry 0x13 0 va))
        else if l.any fun x => s.readWaits x.1.pa (s.cacheDie (j.via x.1.vault) x.1.pa) then .stay s
        else
          match filled.wantReads j.hart.ctx (fun x => s.vectorAlloc (j.via x.1.vault) hint x.2) l with
          | (s, true, _) => .stay s
          | (s, false, bad) =>
            if l.any fun x => (sectorsOf x.1.pa x.2).any bad.contains then .trap (.trap s (engineTrap j.entry 0x13 0 va)) else .ready s l []
      else
        match filled.wantPieces j.hart.ctx (hintAlloc hint true) l with
        | (s, true, _) => .stay s
        | (s, false, bad) => .ready s l bad

/-- A read of bytes passes the caches, sector by sector. -/
def State.readSpan (s : State) (k : HartKey) (v : Via) (slots : BitVec 8) (pa n : Nat) (alloc : Option Bool) : State :=
  (sectorsOf pa n).foldl (fun s sec => ((s.correct sec).readTouch v sec alloc false).noteRead k slots sec) s

/-- Reads the pieces of an operand. -/
def State.readPieces (s : State) (j : Job) (slots : BitVec 8) (hint : Hint) (l : List (Xlat × Nat)) : State × List Byte :=
  l.foldl (fun a x =>
    let v := j.via x.1.vault
    (a.1.readSpan j.hart.key v slots x.1.pa x.2 (a.1.vectorAlloc v hint x.2), a.2 ++ a.1.view v x.1.pa x.2)) (s, [])

/-- Writes bytes to translated pieces in the name of a hart. -/
def State.putPieces (s : State) (k : HartKey) (c : Ctx) (slots : BitVec 8) (alloc : Option Bool) (bad : List Nat) (l : List (Xlat × Nat)) (bs : List Byte) :
    State :=
  (l.foldl (fun a x => (a.1.writeSpan k (c.via x.1.vault) slots alloc false bad x.1.pa (a.2.take x.2), a.2.drop x.2)) (s, bs)).1

/-- Writes bytes to the pieces of an operand. -/
def State.writePieces (s : State) (j : Job) (slots : BitVec 8) (hint : Hint) (bad : List Nat) (l : List (Xlat × Nat)) (bs : List Byte) : State :=
  s.putPieces j.hart.key j.hart.ctx slots (hintAlloc hint true) bad l bs

/-! ### Tensor handles (R260) -/

/-- einfo of TENSOR_HANDLE without its position (Table 10.6). -/
def handleInfo (x : Word) (reason : Nat) : Word := BitVec.ofNat 64 (x.toNat % 65536 * 65536 + reason * 256)

/-! ### Copies (R248 to R250, R254) -/

/-- A barrier of the hart changed. -/
def Hart.modCb (h : Hart) (b : Fin 64) (f : CopyBarrier → CopyBarrier) : Hart := { h with eng := { h.eng with cb := h.eng.cb.set b (f h.eng.cb[b]) } }

/-- The hart's next copy id (R249). -/
def nextCopy (id : Half) : Half := if id = BitVec.allOnes 32 then 1 else id + 1

/-- An older access of the hart overlaps a range of a copy: another copy, a store in the store path, a collective or an unfired marker (R288). -/
def copyWaits (s : State) (h : Hart) (a : CopyArgs) : Bool :=
  (s.copies.any fun c => c.hart == h.key && a.ranges.any fun r => c.args.meets r.1 r.2) ||
  (h.path.any fun p => a.meets p.va.toNat p.bytes.length) ||
  (s.colls.any fun c => c.members.any fun m => m.hart == some h.key && (a.meets m.dst.toNat m.bytes || (!c.started && a.meets m.src.toNat m.bytes))) ||
  (h.queue.takeWhile fun e => e.status == stMarker && e.isInsn isMarker).any fun e => a.meets e.opa.toNat 64

/-- A copy is accepted: it takes an id, counts in its barrier, and starts (R248). It waits while the core's Husky is full or an older access
meets one of its ranges (R288). `finished` holds a status that needs no transfer. -/
def acceptCopy (s : State) (j : Job) (dlv : Deliver) (hint : Hint) (a : CopyArgs) (todo : List (Nat × Nat)) (finished : Option (BitVec 8))
    (slots : BitVec 8) (f : Hart → Hart) : Issue :=
  if decide (1024 ≤ (s.copies.filter fun c => c.core == j.hart.core).length) then .stay s j.entry
  else if copyWaits s j.hart a then .stay s j.entry
  else
    let id := j.hart.eng.copyNext
    let c : Copy :=
      { hart := j.hart.key, id := id, core := j.hart.core, home := j.hart.sched.home, asid := j.hart.csr.asid, root := j.hart.csr.root,
        level := j.hart.level, args := a, dlv := dlv, hint := hint, todo := todo, rd := 0, wr := 0, buf := [], lost := [], missing := [],
        done := 0, finished := finished, slots := slots }
    let s := s.modHart j.hart.key fun h =>
      let h := f { h with eng := { h.eng with copyNext := nextCopy id } }
      match dlv with
      | .barrier b => h.modCb b fun cb => { cb with infl := cb.infl + 1 }
      | .mailbox => h
    .done { s with copies := s.copies ++ [c] } (some (zext64 id))

/-- Accepts a copy of given arguments: BADARG, or OK for 0 bytes, without a transfer (R250). -/
def startCopy (s : State) (j : Job) (dlv : Deliver) (hint : Hint) (a : CopyArgs) (handle : Option (BitVec 16)) : Issue :=
  acceptCopy s j dlv hint a [(0, a.len)] (if badCopy a then some 0x03 else if a.len = 0 then some 0x00 else none) (j.hart.copySlots a handle) id

/-- cpy (R248). -/
def execCpy (o : CopyOp) (s : State) : Host.Outcome State Fault Refusal :=
  run (.cpy o) s fun s h => commitEngine (.cpy o) (h.getX o.dst) (h.getX o.src) (h.getX o.len) s h

/-- cpy issues. -/
def issueCpy (o : CopyOp) (s : State) (j : Job) : Issue :=
  startCopy s j o.dlv o.hint { dst := j.entry.opa, src := j.entry.opb, len := j.entry.opc.toNat, box := none } none

/-- cpyt (R248). -/
def execCpyt (o : CopyBox) (s : State) : Host.Outcome State Fault Refusal :=
  run (.cpyt o) s fun s h => commitEngine (.cpyt o) (h.getX o.dst) (h.getX o.src) (h.getX o.handle) s h

/-- cpyt issues: the handle check, then the copy between the box and a packed range (R259, R260). -/
def issueCpyt (o : CopyBox) (s : State) (j : Job) : Issue :=
  match s.handle j.hart j.entry.opc with
  | .error r => .trap s (engineTrap j.entry 0x09 (handleInfo j.entry.opc r) 0)
  | .ok d =>
    startCopy s j o.dlv o.hint { dst := j.entry.opa, src := j.entry.opb, len := d.bytes, box := some (d, o.boxDst) } (some (j.entry.opc.setWidth 16))

/-- cpyr (R248). -/
def execCpyr (xd id : Reg) (dest : Deliver) (hint : Hint) (s : State) : Host.Outcome State Fault Refusal :=
  run (.cpyr xd id dest hint) s fun s h => commitEngine (.cpyr xd id dest hint) (h.getX id) 0 0 s h

/-! ### The replay area (R253) -/

/-- The lines of a replay record as this model lays them out (log 26): the copy's own, then one for each failing block; the last doubleword of each is
its check value, the sum of the others and of the copy id. -/
def Replay.image (r : Replay) : List (List Byte) :=
  let line := fun ws : List Nat =>
    let ws := (ws ++ List.replicate 7 0).take 7
    (ws ++ [(ws.sum + r.id.toNat + 1)]).flatMap (leBytes 8)
  line [r.id.toNat, r.args.dst.toNat, r.args.src.toNat, r.args.len, r.blocks.length] ::
  r.blocks.map fun b => line [if b.1 then 1 else 0, b.2.1, b.2.2]

/-- Address of a line of the replay area (Table 18.5). -/
def replayLine (area n : Nat) : Nat := area + 0x6000 + 64 * n

/-- The replay area still holds a record as hardware wrote it: its check succeeds. -/
def State.replayIntact (s : State) (h : Hart) (r : Replay) : Bool :=
  match h.area with
  | none => true
  | some a => (r.lines.zip r.image).all fun x => Mem.bytes s.mem (replayLine a x.1) 64 == x.2

/-- Writes a record to the replay area. -/
def State.writeReplay (s : State) (h : Hart) (r : Replay) : State :=
  match h.area with
  | none => s
  | some a => (r.lines.zip r.image).foldl (fun s x => s.writeOwn (replayLine a x.1) x.2) s

/-- cpyr issues (R254): the record is freed and its missing bytes are copied again; without a record, or with one that fails its check, it is
NORECORD. -/
def issueCpyr (dest : Deliver) (hint : Hint) (s : State) (j : Job) : Issue :=
  match j.hart.eng.replays.find? fun r => zext64 r.id == j.entry.opa && s.replayIntact j.hart r with
  | none => acceptCopy s j dest hint { dst := 0, src := 0, len := 0, box := none } [] (some 0x04) 0 id
  | some r =>
    acceptCopy s j dest hint r.args r.missing none (j.hart.copySlots r.args none) fun h =>
      { h with eng := { h.eng with replays := h.eng.replays.filter fun x => x.id != r.id } }

/-! ### Copy barriers (R257) -/

/-- cbinit (R257). -/
def execCbinit (bytes : Reg) (b : Fin 64) (hint : Hint) (s : State) : Host.Outcome State Fault Refusal :=
  run (.cbinit bytes b hint) s fun s h => commitEngine (.cbinit bytes b hint) (h.getX bytes) 0 0 s h

/-- cbinit issues: it waits for INFL = 0, then arms the barrier. -/
def issueCbinit (b : Fin 64) (s : State) (j : Job) : Issue :=
  if (j.hart.eng.cb[b]).infl ≠ 0 then .wait s
  else .done (s.modHart j.hart.key fun h => h.modCb b fun cb => { cb with exp := j.entry.opa.toNat % 2 ^ 48, count := 0 }) none

/-- cbwait (R257). -/
def execCbwait (xd : Reg) (b : Fin 64) (hint : Hint) (s : State) : Host.Outcome State Fault Refusal :=
  run (.cbwait xd b hint) s fun s h => commitEngine (.cbwait xd b hint) 0 0 0 s h

/-- cbwait issues. -/
def issueCbwait (b : Fin 64) (s : State) (j : Job) : Issue :=
  let cb := j.hart.eng.cb[b]
  if cb.infl ≠ 0 && decide (cb.count < cb.exp) then .wait s
  else .done s (some (BitVec.ofNat 64 (cb.count + (if cb.count < cb.exp then 2 ^ 63 else 0))))

/-! ### Streams (R261, R262) -/

/-- sopen (R261). -/
def execSopen (block : Reg) (st : Stream) (hint : Hint) (s : State) : Host.Outcome State Fault Refusal :=
  run (.sopen block st hint) s fun s h => commitEngine (.sopen block st hint) (h.getX block) 0 0 s h

/-- Element size of a stream block (R262). -/
def streamSize (b : Nat) : Nat := memSize (fmtList.getD (bitsOf b 131 128) .i8)

/-- A stream block is invalid (R261); with F8 at 0, so is one that holds the code of an 8-bit or smaller float (R463). -/
def State.streamBad (s : State) (b : Nat) : Bool :=
  (!s.isafeat0.getLsbD 5 && decide (12 ≤ bitsOf b 131 128)) || bitsOf b 511 448 != 0 || bitsOf b 191 132 != 0 || decide (2 ^ 48 ≤ bitsOf b 127 64) ||
  ((bitsOf b 351 320 == 0 || bitsOf b 383 352 == 0) && bitsOf b 127 64 != 0)

/-- The stream that a block binds (Table 10.7). -/
def StreamState.ofBlock (b : Nat) : StreamState :=
  { base := BitVec.ofNat 64 b, length := bitsOf b 127 64, fmt := BitVec.ofNat 4 (bitsOf b 131 128), s0 := BitVec.ofNat 64 (bitsOf b 255 192),
    s1 := BitVec.ofNat 64 (bitsOf b 319 256), s2 := BitVec.ofNat 64 (bitsOf b 447 384), c0 := bitsOf b 351 320, c1 := bitsOf b 383 352,
    pos := 0, first := [], buf := [], withheld := [] }

/-- sopen issues. -/
def issueSopen (st : Stream) (s : State) (j : Job) (hint : Hint) : Issue :=
  match operand s j j.entry.opa 64 64 .load hint with
  | .trap i => i
  | .stay s => .stay s j.entry
  | .ready s' l _ =>
    let (s', bs) := s'.readPieces j (j.hart.slotMask j.entry.opa 64) hint l
    let b := leNat bs
    let sz := streamSize b
    if s.streamBad b then .trap s (engineTrap j.entry 0x01 0 0)
    else if bitsOf b 63 0 % sz ≠ 0 || bitsOf b 255 192 % sz ≠ 0 || bitsOf b 319 256 % sz ≠ 0 || bitsOf b 447 384 % sz ≠ 0 then
      .trap s (engineTrap j.entry 0x04 0 (BitVec.ofNat 64 b))
    else .done (s'.modHart j.hart.key fun h => { h with eng := { h.eng with streams := h.eng.streams.set st (some (StreamState.ofBlock b)) } }) none

/-- sclose (R261). -/
def execSclose (st : Stream) (hint : Hint) (s : State) : Host.Outcome State Fault Refusal :=
  run (.sclose st hint) s fun s h => commitEngine (.sclose st hint) 0 0 0 s h

/-- sclose issues. -/
def issueSclose (st : Stream) (s : State) (j : Job) : Issue :=
  .done (s.modHart j.hart.key fun h => { h with eng := { h.eng with streams := h.eng.streams.set st none } }) none

/-! ### Mailboxes and messages (R265 to R268) -/

/-- mbxpop (R267). -/
def execMbxpop (xd addr : Reg) (hint : Hint) (s : State) : Host.Outcome State Fault Refusal :=
  run (.mbxpop xd addr hint) s fun s h => commitEngine (.mbxpop xd addr hint) (h.getX addr) 0 0 s h

/-- The oldest entry leaves the mailbox, and the oldest spilled one moves in (R265, R266). -/
def Hart.popMail (h : Hart) : Hart :=
  let mbx := h.eng.mbx.drop 1 ++ h.eng.spill.take 1
  { h with eng := { h.eng with mbx := mbx, spill := h.eng.spill.drop 1,
                               spillAt := if h.eng.spill.isEmpty then h.eng.spillAt else (h.eng.spillAt + 1) % 1024, ovf := h.eng.ovf && !mbx.isEmpty } }

/-- mbxpop issues. -/
def issueMbxpop (s : State) (j : Job) (hint : Hint) : Issue :=
  match j.hart.eng.mbx with
  | [] => .done s (some 1)
  | m :: _ =>
    match operand s j j.entry.opa 16 16 .store hint with
    | .trap i => i
    | .stay s => .stay s j.entry
    | .ready s l bad =>
      .done ((s.writePieces j (j.hart.slotMask j.entry.opa 16) hint bad l (leBytes 8 m.lo.toNat ++ leBytes 8 m.hi.toNat)).modHart j.hart.key Hart.popMail) (some 0)

/-- waitmsg (R267). -/
def execWaitmsg (hint : Hint) (s : State) : Host.Outcome State Fault Refusal :=
  run (.waitmsg hint) s fun s h => commitEngine (.waitmsg hint) 0 0 0 s h

/-- waitmsg issues. -/
def issueWaitmsg (s : State) (j : Job) : Issue := if j.hart.eng.mbx.isEmpty then .wait s else .done s none

/-- msgsend (R268). -/
def execMsgsend (xd target payload : Reg) (hint : Hint) (s : State) : Host.Outcome State Fault Refusal :=
  run (.msgsend xd target payload hint) s fun s h => commitEngine (.msgsend xd target payload hint) (h.getX target) (h.getX payload) 0 s h

/-- msgsend issues: the payload is read, then delivered, refused, or has no target (Table 10.10). -/
def issueMsgsend (s : State) (j : Job) (hint : Hint) : Issue :=
  match operand s j j.entry.opb 8 8 .load hint with
  | .trap i => i
  | .stay s => .stay s j.entry
  | .ready s l _ =>
    let (s, bs) := s.readPieces j (j.hart.slotMask j.entry.opb 8) hint l
    let k : HartKey := { part := j.hart.key.part, id := j.entry.opa.toNat }
    match s.hart? k with
    | none => .done s (some 1)
    | some g =>
      if g.mailFull then .done s (some 2)
      else .done (s.deliver k { lo := BitVec.ofNat 64 (0x02 + j.hart.key.id * 2 ^ 32), hi := BitVec.ofNat 64 (leNat bs) }) (some 0)

end Sys2Proof.Machine
end

