-- ==== Sys2Proof/Machine/Special.lean ====
section
/-! DEFINITION. The special functions, rounded once to nearest even (R117 to R119): exact cases, and enclosures in fixed point
that are narrowed until both ends round alike (log 8). -/

namespace Sys2Proof.Machine

/-! ### Constants and series in fixed point, scaled by 2^p -/

/-- Terms 2^p / (k 2^k) of ln 2, for k from `n` down. -/
def ln2Terms (p : Nat) : Nat → Nat
  | 0 => 0
  | k + 1 => 2 ^ p / ((k + 1) * 2 ^ (k + 1)) + ln2Terms p k

/-- ln 2 × 2^p, below the true value by at most p + 3. -/
def ln2Fix (p : Nat) : Nat := ln2Terms p p

/-- The series of atan(1/n): the next power, its denominator, and whether it is subtracted. -/
def atanGo (n : Nat) : Nat → Nat → Nat → Bool → Int → Int
  | 0, _, _, _, acc => acc
  | fuel + 1, pow, den, minus, acc =>
    if pow = 0 then acc else atanGo n fuel (pow / (n * n)) (den + 2) (!minus) (acc + (if minus then -1 else 1) * ((pow / den : Nat) : Int))

/-- π × 2^p by Machin's formula, within 40 p. -/
def piFix (p : Nat) : Int := 16 * atanGo 5 p (2 ^ p / 5) 1 false 0 - 4 * atanGo 239 p (2 ^ p / 239) 1 false 0

/-- The exponential series: the sum of the terms from term `k` on. -/
def expGo (p y : Nat) : Nat → Nat → Nat → Nat → Nat
  | 0, _, _, acc => acc
  | fuel + 1, term, k, acc => if term = 0 then acc else expGo p y fuel (term * y / 2 ^ p / k) (k + 1) (acc + term)

/-- The sine series in steps of two powers. -/
def sinGo (p t2 : Nat) : Nat → Nat → Nat → Bool → Int → Int
  | 0, _, _, _, acc => acc
  | fuel + 1, term, k, minus, acc =>
    if term = 0 then acc
    else sinGo p t2 fuel (term * t2 / 2 ^ p / ((k + 1) * (k + 2))) (k + 2) (!minus) (acc + (if minus then -1 else 1) * (term : Int))

/-- The inverse hyperbolic tangent series. -/
def atanhGo (p z2 : Nat) : Nat → Nat → Nat → Nat → Nat
  | 0, _, _, acc => acc
  | fuel + 1, pow, den, acc => if pow = 0 then acc else atanhGo p z2 fuel (pow * z2 / 2 ^ p) (den + 2) (acc + pow / den)

/-! ### Enclosures: the value lies strictly between lo × 2^-p and hi × 2^-p -/

/-- 2^f for f = m × 2^e in [0, 1). -/
def exp2Fix (p m : Nat) (e : Int) : Int × Int :=
  let f := if 0 ≤ e + p then m * 2 ^ (e + p).toNat else m / 2 ^ (-(e + p)).toNat
  let y := f * ln2Fix p / 2 ^ p
  let v : Int := expGo p y p (2 ^ p) 1 0
  (v - 8 * p, v + 8 * p)

/-- log2 of x = m × 2^e, with m > 0. -/
def log2Fix (p m : Nat) (e : Int) : Int × Int :=
  let l := Nat.log2 m
  let z := (m - 2 ^ l) * 2 ^ p / (m + 2 ^ l)
  let at_ := atanhGo p (z * z / 2 ^ p) p z 1 0
  let v : Int := (((2 * at_ * 2 ^ p / ln2Fix p : Nat) : Int)) + ((l : Int) + e) * 2 ^ p
  (v - 32 * p, v + 32 * p)

/-- sin(π r) for r = m × 2^e in (0, 1/2]. -/
def sinFix (p m : Nat) (e : Int) : Int × Int :=
  let r := if 0 ≤ e then piFix p * m * 2 ^ e.toNat else piFix p * m / 2 ^ (-e).toNat
  let t := r.toNat
  let v := sinGo p (t * t / 2 ^ p) p t 1 false 0
  (v - 128 * p, v + 128 * p)

/-- A value between two ends, m × 2^-p for each, rounded from either end with a last bit set next to it. -/
def settle (f : Fmt) (flush neg : Bool) (p : Int) (b : Int × Int) : (Nat × Flags) × (Nat × Flags) :=
  (fpRound f .rne false flush neg (2 * b.1.toNat + 1) (-p - 1), fpRound f .rne false flush neg (2 * b.2.toNat - 1) (-p - 1))

/-- Tries working precisions in turn until both ends round alike (R119). The last one takes the lower end: a result that 1,280 bits do not
settle would lie that close to a point where rounding changes, which no argument of these formats is known to do (log 8). -/
def tryPrecisions (at_ : Nat → (Nat × Flags) × (Nat × Flags)) : List Nat → Nat × Flags
  | [] => (at_ 1280).1
  | p :: ps => if (at_ p).1 = (at_ p).2 then (at_ p).1 else tryPrecisions at_ ps

/-- Working precisions. -/
def precisions : List Nat := [160, 320, 640]

/-! ### The functions on exact values -/

/-- An exact power of two scaled into the format: m × 2^e. -/
def exactResult (f : Fmt) (flush neg : Bool) (m : Nat) (e : Int) : Nat × Flags := fpRound f .rne false flush neg m e

/-- vexp2 (Table 4.10). -/
def exp2Of (f : Fmt) (flush : Bool) (v : FVal) : Nat × Flags :=
  match v with
  | .nan q => fpNan f q
  | .inf n => if n then (0, 0) else fpInf f false false
  | .fin n m e =>
    if m = 0 then exactResult f flush false 1 0
    else
      let whole : Int := if 0 ≤ e then (if n then -1 else 1) * ((m * 2 ^ (min e.toNat 20) : Nat) : Int)
        else (if n then -(m : Int) else m) / (2 ^ (-e).toNat : Nat)
      if 5000 < whole then exactResult f flush false 1 5000
      else if whole < -5000 then exactResult f flush false 1 (-5000)
      else
        let d : Nat := if 0 ≤ e then 1 else 2 ^ (-e).toNat
        let frac : Nat := if 0 ≤ e then 0 else (((if n then -(m : Int) else m)) % (d : Int)).toNat
        if frac = 0 then exactResult f flush false 1 whole
        else
          tryPrecisions (fun p => settle f flush false (p - whole) (exp2Fix p frac e)) precisions

/-- vlog2. The zero result for 1 is +0: neither Table 4.10 nor R107, which leaves the sign to its caller, gives one (log 38). -/
def log2Of (f : Fmt) (flush : Bool) (v : FVal) : Nat × Flags :=
  match v with
  | .nan q => fpNan f q
  | .inf n => if n then fpNan f true else fpInf f false false
  | .fin n m e =>
    if m = 0 then ((fpInf f true false).1, fDZ)
    else if n then fpNan f true
    else if m = 2 ^ Nat.log2 m then
      let k : Int := (Nat.log2 m : Int) + e
      if k = 0 then (0, 0) else exactResult f flush (decide (k < 0)) k.natAbs 0
    else
      tryPrecisions
        (fun p =>
          let b := log2Fix p m e
          if 0 < b.1 then settle f flush false p b else settle f flush true p (-b.2, -b.1)) precisions

/-- vrcp: the quotient 1 / x, rounded once. -/
def rcpOf (f : Fmt) (flush : Bool) (v : FVal) : Nat × Flags :=
  match v with
  | .nan q => fpNan f q
  | .inf n => (signBit f n, 0)
  | .fin n m e => if m = 0 then ((fpInf f n false).1, fDZ) else fpDiv (.fin false 1 0) (.fin n m e) f .rne flush

/-- vrsqrt: the root of 1 / x, rounded once. -/
def rsqrtOf (f : Fmt) (flush : Bool) (v : FVal) : Nat × Flags :=
  match v with
  | .nan q => fpNan f q
  | .inf n => if n then fpNan f true else (0, 0)
  | .fin n m e =>
    if m = 0 then ((fpInf f n false).1, fDZ)
    else if n then fpNan f true
    else
      let odd := e % 2 ≠ 0
      let m' := if odd then 2 * m else m
      let e' := if odd then e - 1 else e
      let q := 2 ^ (2 * (guardBits + 60)) / m'
      let r := isqrt q
      let exact := q * m' = 2 ^ (2 * (guardBits + 60)) ∧ r * r = q
      fpRound f .rne false flush false (2 * r + (if exact then 0 else 1)) (-e' / 2 - (guardBits + 60 : Nat) - 1)

/-- sin(π x) for x = k/2 + r with k the quadrant and 0 < r < 1/2 given as a fraction of 2^-s: the sign and the part whose sine
is taken. -/
def sinPart (f : Fmt) (flush neg : Bool) (r s : Nat) : Nat × Flags :=
  tryPrecisions
    (fun p =>
      let p' := p + (s - Nat.log2 r)
      settle f flush neg p' (sinFix p' r (-(s : Int)))) precisions

/-- vsinpi: `cosine` false; vcospi: true. Arguments that are multiples of ½ are exact. -/
def sinCosOf (cosine : Bool) (f : Fmt) (flush : Bool) (v : FVal) : Nat × Flags :=
  match v with
  | .nan q => fpNan f q
  | .inf _ => fpNan f true
  | .fin n m e =>
    let one := fun neg : Bool => exactResult f flush neg 1 0
    if m = 0 then (if cosine then one false else (signBit f n, 0))
    else
      let s := (-e).toNat
      let num := if 0 ≤ e then m * 2 ^ (min e.toNat 2) else m
      let whole := num / 2 ^ s
      let frac := num % 2 ^ s
      let odd := whole % 2 = 1
      if frac = 0 then (if cosine then one odd else (signBit f n, 0))
      else if 2 * frac = 2 ^ s then (if cosine then (0, 0) else one (decide (n ≠ odd)))
      else if cosine then
        if 2 * frac < 2 ^ s then sinPart f flush odd (2 ^ s - 2 * frac) (s + 1)
        else sinPart f flush (!odd) (2 * frac - 2 ^ s) (s + 1)
      else
        let r := if 2 * frac < 2 ^ s then frac else 2 ^ s - frac
        sinPart f flush (decide (n ≠ odd)) r s

end Sys2Proof.Machine
end

