-- ==== Sys2Proof/Machine/VecFp.lean ====
section
/-! DEFINITION. Vector floating point, conversions and special functions (R196 to R199, R223). -/

namespace Sys2Proof.Machine

/-- The value of element bits, flushed where FLUSH is set (R99). -/
def fval (f : Fmt) (flush : Bool) (b : Nat) : FVal := fpFlushSrc f flush (fpDecode f b)

/-- A binary floating-point instruction (R196). -/
def fpBinary (o : VFBin) (g : FVal → FVal → Rm → Nat × Flags) (s : State) (j : Job) : Issue :=
  elementwise s j o.vd (o.vs1 :: src2V o.src2) o.k o.fmt (isWide o.fmt) fun x e =>
    g (fval o.fmt o.flush (elemBits o.fmt x.v[o.vs1] e)) (fval o.fmt o.flush (j.second x o.fmt o.src2 e)) (j.hart.vrm o.rm)

/-- A fused instruction (R197). -/
def fpTernary (o : VFTern) (g : FVal → FVal → FVal → Rm → Nat × Flags) (s : State) (j : Job) : Issue :=
  elementwise s j o.vd [o.vs1, o.vs2, o.vs3] o.k o.fmt (isWide o.fmt) fun x e =>
    g (fval o.fmt o.flush (elemBits o.fmt x.v[o.vs1] e)) (fval o.fmt o.flush (elemBits o.fmt x.v[o.vs2] e))
      (fval o.fmt o.flush (elemBits o.fmt x.v[o.vs3] e)) (j.hart.vrm o.rm)

/-- vfmin and vfmax (R196): neither RM nor FLUSH. -/
def fpSelect (mx : Bool) (o : VBin) (s : State) (j : Job) : Issue :=
  elementwise s j o.vd (o.vs1 :: src2V o.src2) o.k o.fmt (isWide o.fmt) fun x e =>
    fpMinMax mx o.fmt (elemBits o.fmt x.v[o.vs1] e) (j.second x o.fmt o.src2 e)

/-- A special function (R223). -/
def special (o : VSpec) (g : FVal → Nat × Flags) (s : State) (j : Job) : Issue :=
  elementwise s j o.vd [o.vs1] o.k o.fmt (isWide o.fmt) fun x e => g (fval o.fmt o.flush (elemBits o.fmt x.v[o.vs1] e))

/-- vfadd (R196): a + b. -/
def execVfadd (o : VFBin) (s : State) : Host.Outcome State Fault Refusal := run (.vfadd o) s fun s h => commitVec (.vfadd o) (h.scalar2 o.fmt o.src2) 0 0 s h

/-- The effect of vfadd. -/
def issueVfadd (o : VFBin) (s : State) (j : Job) : Issue := fpBinary o (fun a b rm => fpSum [a, b] o.fmt rm o.flush) s j

/-- vfsub (R196): a − b. -/
def execVfsub (o : VFBin) (s : State) : Host.Outcome State Fault Refusal := run (.vfsub o) s fun s h => commitVec (.vfsub o) (h.scalar2 o.fmt o.src2) 0 0 s h

/-- The effect of vfsub. -/
def issueVfsub (o : VFBin) (s : State) (j : Job) : Issue := fpBinary o (fun a b rm => fpSum [a, b.negate] o.fmt rm o.flush) s j

/-- vfmul (R196): a × b. -/
def execVfmul (o : VFBin) (s : State) : Host.Outcome State Fault Refusal := run (.vfmul o) s fun s h => commitVec (.vfmul o) (h.scalar2 o.fmt o.src2) 0 0 s h

/-- The effect of vfmul. -/
def issueVfmul (o : VFBin) (s : State) (j : Job) : Issue := fpBinary o (fun a b rm => fpMul a b o.fmt rm o.flush) s j

/-- vfdiv (R196): a / b. -/
def execVfdiv (o : VFBin) (s : State) : Host.Outcome State Fault Refusal := run (.vfdiv o) s fun s h => commitVec (.vfdiv o) (h.scalar2 o.fmt o.src2) 0 0 s h

/-- The effect of vfdiv. -/
def issueVfdiv (o : VFBin) (s : State) (j : Job) : Issue := fpBinary o (fun a b rm => fpDiv a b o.fmt rm o.flush) s j

/-- vfsqrt (R196): square root. -/
def execVfsqrt (o : VFUn) (s : State) : Host.Outcome State Fault Refusal := run (.vfsqrt o) s fun s h => commitVec (.vfsqrt o) 0 0 0 s h

/-- The effect of vfsqrt. -/
def issueVfsqrt (o : VFUn) (s : State) (j : Job) : Issue :=
  elementwise s j o.vd [o.vs1] o.k o.fmt (isWide o.fmt) fun x e =>
    fpSqrt (fval o.fmt o.flush (elemBits o.fmt x.v[o.vs1] e)) o.fmt (j.hart.vrm o.rm) o.flush

/-- vfma (R197): a × b + c. -/
def execVfma (o : VFTern) (s : State) : Host.Outcome State Fault Refusal := run (.vfma o) s fun s h => commitVec (.vfma o) 0 0 0 s h

/-- The effect of vfma. -/
def issueVfma (o : VFTern) (s : State) (j : Job) : Issue := fpTernary o (fun a b c rm => fpFma a b c o.fmt rm o.flush) s j

/-- vfms (R197): a × b − c. -/
def execVfms (o : VFTern) (s : State) : Host.Outcome State Fault Refusal := run (.vfms o) s fun s h => commitVec (.vfms o) 0 0 0 s h

/-- The effect of vfms. -/
def issueVfms (o : VFTern) (s : State) (j : Job) : Issue := fpTernary o (fun a b c rm => fpFma a b c.negate o.fmt rm o.flush) s j

/-- vfnma (R197): c − a × b. -/
def execVfnma (o : VFTern) (s : State) : Host.Outcome State Fault Refusal := run (.vfnma o) s fun s h => commitVec (.vfnma o) 0 0 0 s h

/-- The effect of vfnma. -/
def issueVfnma (o : VFTern) (s : State) (j : Job) : Issue := fpTernary o (fun a b c rm => fpSum [(a.times b).negate, c] o.fmt rm o.flush) s j

/-- vfmin (R196): the lesser. -/
def execVfmin (o : VBin) (s : State) : Host.Outcome State Fault Refusal := run (.vfmin o) s fun s h => commitVec (.vfmin o) (h.scalar2 o.fmt o.src2) 0 0 s h

/-- The effect of vfmin. -/
def issueVfmin (o : VBin) (s : State) (j : Job) : Issue := fpSelect false o s j

/-- vfmax (R196): the greater. -/
def execVfmax (o : VBin) (s : State) : Host.Outcome State Fault Refusal := run (.vfmax o) s fun s h => commitVec (.vfmax o) (h.scalar2 o.fmt o.src2) 0 0 s h

/-- The effect of vfmax. -/
def issueVfmax (o : VBin) (s : State) (j : Job) : Issue := fpSelect true o s j

/-- vfabs (R198): sign cleared. -/
def execVfabs (o : VUn) (s : State) : Host.Outcome State Fault Refusal := run (.vfabs o) s fun s h => commitVec (.vfabs o) 0 0 0 s h

/-- The effect of vfabs. -/
def issueVfabs (o : VUn) (s : State) (j : Job) : Issue :=
  elementwise s j o.vd [o.vs1] o.k o.fmt (isWide o.fmt) fun x e => let b := elemBits o.fmt x.v[o.vs1] e; (b % 2 ^ (bitsW o.fmt - 1), 0)

/-- vfneg (R198): sign inverted. -/
def execVfneg (o : VUn) (s : State) : Host.Outcome State Fault Refusal := run (.vfneg o) s fun s h => commitVec (.vfneg o) 0 0 0 s h

/-- The effect of vfneg. -/
def issueVfneg (o : VUn) (s : State) (j : Job) : Issue :=
  elementwise s j o.vd [o.vs1] o.k o.fmt (isWide o.fmt) fun x e => let b := elemBits o.fmt x.v[o.vs1] e; (b ^^^ 2 ^ (bitsW o.fmt - 1), 0)

/-- vfcmp (R192): compare into a mask. -/
def execVfcmp (o : VCmp) (s : State) : Host.Outcome State Fault Refusal := run (.vfcmp o) s fun s h => commitVec (.vfcmp o) (h.scalar2 o.fmt o.src2) 0 0 s h

/-- The effect of vfcmp. -/
def issueVfcmp (o : VCmp) (s : State) (j : Job) : Issue :=
  compareInto s j o.kd (o.vs1 :: src2V o.src2) o.k o.fmt fun x e =>
    fpCmp o.cond (fpDecode o.fmt (elemBits o.fmt x.v[o.vs1] e)) (fpDecode o.fmt (j.second x o.fmt o.src2 e))

/-- vfcvt (R199): conversion. -/
def execVfcvt (o : VCvt) (s : State) : Host.Outcome State Fault Refusal := run (.vfcvt o) s fun s h => commitVec (.vfcvt o) 0 0 0 s h

/-- The effect of vfcvt. -/
def issueVfcvt (o : VCvt) (s : State) (j : Job) : Issue :=
  elementwise s j o.vd [o.vs1] o.k o.dst (isWide o.dst || isWide o.src) fun x e =>
    fpCvt (elemBits o.src x.v[o.vs1] e) o.src o.dst (j.hart.vrm o.rm) o.sat o.flush

/-- vexp2 (R223): special function. -/
def execVexp2 (o : VSpec) (s : State) : Host.Outcome State Fault Refusal := run (.vexp2 o) s fun s h => commitVec (.vexp2 o) 0 0 0 s h

/-- The effect of vexp2 (R117, R118). -/
def issueVexp2 (o : VSpec) (s : State) (j : Job) : Issue := special o (exp2Of o.fmt o.flush) s j

/-- vrcp (R223): special function. -/
def execVrcp (o : VSpec) (s : State) : Host.Outcome State Fault Refusal := run (.vrcp o) s fun s h => commitVec (.vrcp o) 0 0 0 s h

/-- The effect of vrcp (R117, R118). -/
def issueVrcp (o : VSpec) (s : State) (j : Job) : Issue := special o (rcpOf o.fmt o.flush) s j

/-- vlog2 (R223): special function. -/
def execVlog2 (o : VSpec) (s : State) : Host.Outcome State Fault Refusal := run (.vlog2 o) s fun s h => commitVec (.vlog2 o) 0 0 0 s h

/-- The effect of vlog2 (R117, R118). -/
def issueVlog2 (o : VSpec) (s : State) (j : Job) : Issue := special o (log2Of o.fmt o.flush) s j

/-- vrsqrt (R223): special function. -/
def execVrsqrt (o : VSpec) (s : State) : Host.Outcome State Fault Refusal := run (.vrsqrt o) s fun s h => commitVec (.vrsqrt o) 0 0 0 s h

/-- The effect of vrsqrt (R117, R118). -/
def issueVrsqrt (o : VSpec) (s : State) (j : Job) : Issue := special o (rsqrtOf o.fmt o.flush) s j

/-- vsinpi (R223): special function. -/
def execVsinpi (o : VSpec) (s : State) : Host.Outcome State Fault Refusal := run (.vsinpi o) s fun s h => commitVec (.vsinpi o) 0 0 0 s h

/-- The effect of vsinpi (R117, R118). -/
def issueVsinpi (o : VSpec) (s : State) (j : Job) : Issue := special o (sinCosOf false o.fmt o.flush) s j

/-- vcospi (R223): special function. -/
def execVcospi (o : VSpec) (s : State) : Host.Outcome State Fault Refusal := run (.vcospi o) s fun s h => commitVec (.vcospi o) 0 0 0 s h

/-- The effect of vcospi (R117, R118). -/
def issueVcospi (o : VSpec) (s : State) (j : Job) : Issue := special o (sinCosOf true o.fmt o.flush) s j

end Sys2Proof.Machine
end

