-- ==== Sys2Proof/Machine/VecMisc.lean ====
section
/-! DEFINITION. Masks, permutes and register reductions (R216 to R220). -/

namespace Sys2Proof.Machine

/-! ### Masks (Table 8.8) -/

/-- A mask as bits, k0 being all ones. -/
def Slot.mask (x : Slot) (k : KReg) : Vector Bool 512 := if k = 0 then Vector.replicate 512 true else x.k[k]

/-- An operation on two masks. -/
def maskOp (kd ka kb : KReg) (g : Bool → Bool → Bool) (s : State) (j : Job) : Issue :=
  let s := s.pull j.slot j.hart [] [ka, kb, kd]
  let x := s.slot j.slot
  .done (s.setK j.slot kd (Vector.ofFn fun e => g (x.mask ka)[e] (x.mask kb)[e])) none

/-- A number taken from a mask. -/
def maskCount (ka : KReg) (g : List Bool → Nat) (s : State) (j : Job) : Issue :=
  let s := s.pull j.slot j.hart [] [ka]
  .done s (some (BitVec.ofNat 64 (g ((s.slot j.slot).mask ka).toList)))

/-- kand (R216): and of two masks. -/
def execKand (kd ka kb : KReg) (hint : Hint) (s : State) : Host.Outcome State Fault Refusal :=
  run (.kand kd ka kb hint) s fun s h => commitVec (.kand kd ka kb hint) 0 0 0 s h

/-- The effect of kand. -/
def issueKand (kd ka kb : KReg) (s : State) (j : Job) : Issue := maskOp kd ka kb (fun a b => a && b) s j

/-- kor (R216): or of two masks. -/
def execKor (kd ka kb : KReg) (hint : Hint) (s : State) : Host.Outcome State Fault Refusal :=
  run (.kor kd ka kb hint) s fun s h => commitVec (.kor kd ka kb hint) 0 0 0 s h

/-- The effect of kor. -/
def issueKor (kd ka kb : KReg) (s : State) (j : Job) : Issue := maskOp kd ka kb (fun a b => a || b) s j

/-- kxor (R216): exclusive or of two masks. -/
def execKxor (kd ka kb : KReg) (hint : Hint) (s : State) : Host.Outcome State Fault Refusal :=
  run (.kxor kd ka kb hint) s fun s h => commitVec (.kxor kd ka kb hint) 0 0 0 s h

/-- The effect of kxor. -/
def issueKxor (kd ka kb : KReg) (s : State) (j : Job) : Issue := maskOp kd ka kb (fun a b => a != b) s j

/-- knot (R216): not of a mask. -/
def execKnot (kd ka : KReg) (hint : Hint) (s : State) : Host.Outcome State Fault Refusal :=
  run (.knot kd ka hint) s fun s h => commitVec (.knot kd ka hint) 0 0 0 s h

/-- The effect of knot. -/
def issueKnot (kd ka : KReg) (s : State) (j : Job) : Issue := maskOp kd ka ka (fun a _ => !a) s j

/-- kpopc (R216): set bits of a mask. -/
def execKpopc (xd : Reg) (ka : KReg) (hint : Hint) (s : State) : Host.Outcome State Fault Refusal :=
  run (.kpopc xd ka hint) s fun s h => commitVec (.kpopc xd ka hint) 0 0 0 s h

/-- The effect of kpopc. -/
def issueKpopc (ka : KReg) (s : State) (j : Job) : Issue := maskCount ka (fun l => (l.filter id).length) s j

/-- kfirst (R216): the lowest set bit, or 512. -/
def execKfirst (xd : Reg) (ka : KReg) (hint : Hint) (s : State) : Host.Outcome State Fault Refusal :=
  run (.kfirst xd ka hint) s fun s h => commitVec (.kfirst xd ka hint) 0 0 0 s h

/-- The effect of kfirst. -/
def issueKfirst (ka : KReg) (s : State) (j : Job) : Issue := maskCount ka (fun l => (l.findIdx? id).getD 512) s j

/-- kset (R216): ones below x[xs]. -/
def execKset (kd : KReg) (xs : Reg) (hint : Hint) (s : State) : Host.Outcome State Fault Refusal :=
  run (.kset kd xs hint) s fun s h => commitVec (.kset kd xs hint) (h.getX xs) 0 0 s h

/-- The effect of kset. -/
def issueKset (kd : KReg) (s : State) (j : Job) : Issue :=
  .done ((s.pull j.slot j.hart [] [kd]).setK j.slot kd (Vector.ofFn fun e => decide (e.val < j.entry.opa.toNat))) none

/-! ### Permutes (R217) -/

/-- vslideup (R217): elements move up. -/
def execVslideup (o : VSlide) (s : State) : Host.Outcome State Fault Refusal := run (.vslideup o) s fun s h => commitVec (.vslideup o) (h.getX o.xs) 0 0 s h

/-- The effect of vslideup. -/
def issueVslideup (o : VSlide) (s : State) (j : Job) : Issue :=
  movement s j o.vd [o.vs1] o.k o.fmt fun x e =>
    if max j.entry.elem.toNat j.entry.opa.toNat ≤ e && x.on o.k e then some (wholeElem (isWide o.fmt) x.v[o.vs1] (e - j.entry.opa.toNat)) else none

/-- vslidedn (R217): elements move down. -/
def execVslidedn (o : VSlide) (s : State) : Host.Outcome State Fault Refusal := run (.vslidedn o) s fun s h => commitVec (.vslidedn o) (h.getX o.xs) 0 0 s h

/-- The effect of vslidedn. -/
def issueVslidedn (o : VSlide) (s : State) (j : Job) : Issue :=
  movement s j o.vd [o.vs1] o.k o.fmt fun x e =>
    if j.entry.elem.toNat ≤ e && x.on o.k e then
      some (if e + j.entry.opa.toNat < vlmax (isWide o.fmt) then wholeElem (isWide o.fmt) x.v[o.vs1] (e + j.entry.opa.toNat) else 0)
    else none

/-- vperm (R217): elements by index. -/
def execVperm (o : VPermute) (s : State) : Host.Outcome State Fault Refusal := run (.vperm o) s fun s h => commitVec (.vperm o) 0 0 0 s h

/-- The effect of vperm. -/
def issueVperm (o : VPermute) (s : State) (j : Job) : Issue :=
  movement s j o.vd [o.vs1, o.vs2] o.k o.fmt fun x e =>
    if j.entry.elem.toNat ≤ e && x.on o.k e then
      let i := wholeElem (isWide o.fmt) x.v[o.vs2] e
      some (if i < vlmax (isWide o.fmt) then wholeElem (isWide o.fmt) x.v[o.vs1] i else 0)
    else none

/-- The elements from 0 to n − 1 that the selector selects, in order. -/
def selected (x : Slot) (k : KReg) (n : Nat) : List Nat := (List.range n).filter (x.on k)

/-- vcompress (R217): selected elements to the front. -/
def execVcompress (o : VUn) (s : State) : Host.Outcome State Fault Refusal := run (.vcompress o) s fun s h => commitVec (.vcompress o) 0 0 0 s h

/-- The effect of vcompress. -/
def issueVcompress (o : VUn) (s : State) (j : Job) : Issue :=
  moveWhole s j o.vd [o.vs1] o.k o.fmt fun x c =>
    ((selected x o.k (j.entry.count (isWide o.fmt)))[c]?).map fun e => wholeElem (isWide o.fmt) x.v[o.vs1] e

/-- vexpand (R217): elements from the front to the selected places. -/
def execVexpand (o : VUn) (s : State) : Host.Outcome State Fault Refusal := run (.vexpand o) s fun s h => commitVec (.vexpand o) 0 0 0 s h

/-- The effect of vexpand. -/
def issueVexpand (o : VUn) (s : State) (j : Job) : Issue :=
  moveWhole s j o.vd [o.vs1] o.k o.fmt fun x e =>
    if x.on o.k e then some (wholeElem (isWide o.fmt) x.v[o.vs1] (selected x o.k e).length) else none

/-! ### Reductions (R219) -/

/-- The result of a reduction goes to element 0 of `vd`; with n = 0 nothing happens. `g` maps element 0 of `vd`, element 0 of `vs2`
and, for each element from 0 to n − 1, its bits where it is active. -/
def reduction (o : VRed) (s : State) (j : Job) (g : Nat → Nat → List (Option Nat) → Nat × Flags) : Issue :=
  let s := s.pull j.slot j.hart [o.vd, o.vs1, o.vs2] [o.k]
  let x := s.slot j.slot
  let n := j.entry.count (isWide o.fmt)
  if n = 0 then .done s none
  else
    let l := (List.range n).map fun e => if x.on o.k e then some (elemBits o.fmt x.v[o.vs1] e) else none
    let r := g (elemBits o.fmt x.v[o.vd] 0) (elemBits o.fmt x.v[o.vs2] 0) l
    .done ((s.setV j.slot o.vd (putElems o.fmt x.v[o.vd] fun e => if e = 0 then some r.1 else none)).orVflags j.hart.key r.2) none

/-- A chain of steps over the active elements, with the union of the flags. -/
def chain (f : Nat → Nat → Nat × Flags) (acc : Nat) (l : List (Option Nat)) : Nat × Flags :=
  l.foldl (fun a x => match x with | some b => let r := f a.1 b; (r.1, a.2 ||| r.2) | none => a) (acc, 0)

/-- Integer sum (R219). -/
def intSum (f : Fmt) (a b : Nat) : Nat × Flags := ((a + b) % 2 ^ bitsW f, 0)

/-- The bits of −0. -/
def minusZero (f : Fmt) : Nat := signBit f true

/-- vredsum (R219): sum by the tree of R115. -/
def execVredsum (o : VRed) (s : State) : Host.Outcome State Fault Refusal := run (.vredsum o) s fun s h => commitVec (.vredsum o) 0 0 0 s h

/-- The effect of vredsum. -/
def issueVredsum (o : VRed) (s : State) (j : Job) : Issue :=
  reduction o s j fun _ s0 l =>
    if o.fmt.isInt then chain (intSum o.fmt) s0 l
    else fpTreeSum s0 (l.map fun x => x.getD (minusZero o.fmt)) o.fmt (j.hart.vrm o.rm) o.flush

/-- vredosum (R219): sum in element order (R114). -/
def execVredosum (o : VRed) (s : State) : Host.Outcome State Fault Refusal := run (.vredosum o) s fun s h => commitVec (.vredosum o) 0 0 0 s h

/-- The effect of vredosum: a lane cluster at a time, after which the partial sum stands in element 0 of `vd` (R220). -/
def issueVredosum (o : VRed) (s : State) (j : Job) : Issue :=
  let n := j.entry.count (isWide o.fmt)
  let start := j.entry.elem.toNat
  let stop := j.passEnd (isWide o.fmt) n
  match reduction o s j fun d s0 l =>
      chain (if o.fmt.isInt then intSum o.fmt else fpAddBits o.fmt (j.hart.vrm o.rm) o.flush) (if start = 0 then s0 else d) ((l.take stop).drop start) with
  | .done s _ => passed s j stop n
  | .stay s e => .stay s e
  | .wait s => .wait s
  | .trap s q => .trap s q

/-- A source element's bits under FLUSH (R99). -/
def flushBits (f : Fmt) (flush : Bool) (b : Nat) : Nat :=
  if flush && isSubnormal f (fpDecode f b) then signBit f (b.testBit (bitsW f - 1)) else b

/-- The extreme of s0 and the active elements; without any, s0 against itself. -/
def extreme (mx : Bool) (o : VRed) (s0 : Nat) (l : List (Option Nat)) : Nat × Flags :=
  if o.fmt.isInt then
    chain (fun a b => (if decide (intVal o.fmt b < intVal o.fmt a) != mx then b else a, 0)) s0 l
  else
    let s0 := flushBits o.fmt o.flush s0
    let l := l.map fun x => x.map (flushBits o.fmt o.flush)
    chain (fpMinMax mx o.fmt) s0 (if l.any Option.isSome then l else [some s0])

/-- vredmax (R219): extreme. -/
def execVredmax (o : VRed) (s : State) : Host.Outcome State Fault Refusal := run (.vredmax o) s fun s h => commitVec (.vredmax o) 0 0 0 s h

/-- The effect of vredmax. -/
def issueVredmax (o : VRed) (s : State) (j : Job) : Issue := reduction o s j fun _ s0 l => extreme true o s0 l

/-- vredmin (R219): extreme. -/
def execVredmin (o : VRed) (s : State) : Host.Outcome State Fault Refusal := run (.vredmin o) s fun s h => commitVec (.vredmin o) 0 0 0 s h

/-- The effect of vredmin. -/
def issueVredmin (o : VRed) (s : State) (j : Job) : Issue := reduction o s j fun _ s0 l => extreme false o s0 l

/-- vredand (R219): bitwise reduction. -/
def execVredand (o : VRed) (s : State) : Host.Outcome State Fault Refusal := run (.vredand o) s fun s h => commitVec (.vredand o) 0 0 0 s h

/-- The effect of vredand. -/
def issueVredand (o : VRed) (s : State) (j : Job) : Issue := reduction o s j fun _ s0 l => chain (fun a b => (a &&& b, 0)) s0 l

/-- vredor (R219): bitwise reduction. -/
def execVredor (o : VRed) (s : State) : Host.Outcome State Fault Refusal := run (.vredor o) s fun s h => commitVec (.vredor o) 0 0 0 s h

/-- The effect of vredor. -/
def issueVredor (o : VRed) (s : State) (j : Job) : Issue := reduction o s j fun _ s0 l => chain (fun a b => (a ||| b, 0)) s0 l

end Sys2Proof.Machine
end

