-- ==== Sys2Proof/Machine/Rx.lean ====
section
/-! DEFINITION. Receive queues: opening, messages that arrive, and their consumers rxpop and vredq (R221, R222, R269 to R273). -/

namespace Sys2Proof.Machine

/-- Bytes of a buffer. -/
def RxQueue.size (q : RxQueue) : Nat := 2 ^ q.sizeLog

/-- Address of a position in the buffer. -/
def RxQueue.at_ (q : RxQueue) (pos : Nat) : Word := q.base + BitVec.ofNat 64 (pos % q.size)

/-- The hart with a queue set. -/
def Hart.setRx (h : Hart) (n : Fin 16) (q : Option RxQueue) : Hart := { h with eng := { h.eng with rx := h.eng.rx.set n q } }

/-- Bytes that a message of payload length L takes (R271). -/
def msgBytes (l : Nat) : Nat := 16 + 16 * ((l + 15) / 16)

/-- The pieces of `n` bytes at a position of the buffer, which wraps at its end. -/
def RxQueue.pieces (q : RxQueue) (pos n : Nat) : List (Word × Nat) :=
  let first := min n (q.size - pos % q.size)
  chunksOf (q.at_ pos) first ++ chunksOf q.base (n - first)

/-! ### rxopen (R269, R270) -/

/-- A receive-queue descriptor is acceptable but for its buffer. -/
def rxDescGood (d : Nat) : Bool :=
  bitsOf d 511 73 == 0 && bitsOf d 71 70 == 0 && decide (12 ≤ bitsOf d 69 64) && decide (bitsOf d 69 64 ≤ 30) &&
  bitsOf d 63 0 % 2 ^ bitsOf d 69 64 == 0

/-- The queue that a descriptor opens: empty. -/
def RxQueue.ofDesc (d : Nat) : RxQueue :=
  { base := BitVec.ofNat 64 d, sizeLog := bitsOf d 69 64, notify := d.testBit 72, head := 0, tail := 0, off := 0 }

/-- The address is in host memory. -/
def inHost (pa : Nat) : Bool :=
  match placeOf pa with
  | .host _ => true
  | .hbm _ => false
  | .store _ _ => false
  | .homeStore _ => false
  | .homeWindow _ => false
  | .hole => false

/-- rxopen (R269). -/
def execRxopen (xd desc : Reg) (q : Fin 16) (hint : Hint) (s : State) : Host.Outcome State Fault Refusal :=
  run (.rxopen xd desc q hint) s fun s h => commitEngine (.rxopen xd desc q hint) (h.getX desc) 0 0 s h

/-- rxopen issues. -/
def issueRxopen (q : Fin 16) (s : State) (j : Job) (hint : Hint) : Issue :=
  let now := j.hart.eng.rx[q]
  if j.entry.opa = 0 then
    match now with
    | none => .done s (some 1)
    | some _ => .done (s.modHart j.hart.key fun h => h.setRx q none) (some 0)
  else
    match operand s j j.entry.opa 64 64 .load hint with
    | .trap i => i
    | .stay s => .stay s j.entry
    | .ready s l _ =>
      let (s, bs) := s.readPieces j (j.hart.slotMask j.entry.opa 64) hint l
      let d := leNat bs
      match now with
      | some _ => .done s (some 1)
      | none =>
        if !rxDescGood d then .done s (some 2)
        else
          let r := RxQueue.ofDesc d
          match translateAll s j.hart.ctx .store (chunksOf r.base r.size) with
          | .error _ => .done s (some 2)
          | .ok p =>
            if p.any fun x => inHost x.1.pa then .done s (some 2)
            else .done (s.modHart j.hart.key fun h => h.setRx q (some r)) (some 0)

/-! ### Messages at the head (R271, R273) -/

/-- What a consumer meets in the buffer: bytes, a wait with the place that it waits for, a page that no longer translates, or memory that cannot be
read. -/
inductive Take where
  | got (s : State) (bs : List Byte)
  | waits (x : Option Xlat) (va : Word)
  | denied (d : Deny) (va : Word)
  | bad (x : Xlat) (va : Word) (dead : Bool)

/-- A piece whose memory cannot be read: its completer is dead, or a sector holds an uncorrectable error. -/
def State.unreadable (s : State) (l : List (Xlat × Nat)) : Option (Xlat × Bool) :=
  l.findSome? fun x =>
    if (s.deadAt x.1.pa).isSome then some (x.1, true)
    else if (sectorsOf x.1.pa x.2).any s.corrupted then some (x.1, false)
    else none

/-- Reads `n` bytes at a position of the buffer. They wait for older stores of the hart, copies and collectives to the same bytes (R246, R288), and
for a region that is closing (R376). They ask for RD, though Table 18.2 lists the buffer under W alone (DESIGN CHOICE, log 108). -/
def rxRead (s : State) (j : Job) (hint : Hint) (q : RxQueue) (pos n : Nat) : Take :=
  match translateAll s j.hart.ctx .load (q.pieces pos n) with
  | .error (d, va) => .denied d va
  | .ok l =>
    match s.unreadable l with
    | some (x, dead) => .bad x (q.at_ pos) dead
    | none =>
      if (q.pieces pos n).any (fun (x : Word × Nat) => s.interlocked j.hart x.1 x.2 || s.behind j.hart x.1 x.2 false) ||
        l.any (fun (x : Xlat × Nat) => j.hart.pathHolds x.1.pa x.2 || s.readWaits x.1.pa (s.cacheDie (j.via x.1.vault) x.1.pa))
      then .waits (l.head?.map (·.1)) (q.at_ pos)
      else
        let mask := fun (m : BitVec 8) (x : Word × Nat) => m ||| j.hart.slotMask x.1 x.2
        let r := s.readPieces j ((q.pieces pos n).foldl mask 0) hint l
        .got r.1 r.2

/-- The message at the head is retired: VALID becomes 0 in its header, written under the hint of the instruction (R83), and H moves past it. Where
the page of the header allows no store any more the header keeps its VALID, and H moves all the same: the spec does not say (log 87). -/
def retireMsg (s : State) (j : Job) (hint : Hint) (n : Fin 16) (q : RxQueue) (len : Nat) : State :=
  let s := match translateAll s j.hart.ctx .store (q.pieces (q.head + 3) 1) with
    | .ok l => s.putPieces j.hart.key j.hart.ctx 0 (hintAlloc hint true) [] l (l.map fun (x : Xlat × Nat) => Mem.get s.mem x.1.pa &&& 0x7F)
    | .error _ => s
  s.modHart j.hart.key fun g => g.setRx n (some { q with head := q.head + msgBytes len, off := 0 })

/-- The queued fault of a consumer whose buffer no longer translates: that of a load at the failing place (log 27). -/
def bufferTrap (s : State) (j : Job) (d : Deny) (va : Word) : Issue := deniedTrap s j .load d va

/-- rxpop (R269). -/
def execRxpop (xd dst : Reg) (q : Fin 16) (hint : Hint) (s : State) : Host.Outcome State Fault Refusal :=
  run (.rxpop xd dst q hint) s fun s h => commitEngine (.rxpop xd dst q hint) (h.getX dst) 0 0 s h

/-- A read of the buffer by rxpop goes on with its bytes, waits, or traps. -/
def popTake (s : State) (j : Job) (t : Take) (k : State → List Byte → Issue) : Issue :=
  match t with
  | .got s bs => k s bs
  | .waits _ _ => .stay s j.entry
  | .denied d va => bufferTrap s j d va
  | .bad _ va dead => .trap s (engineTrap j.entry (if dead then 0x17 else 0x13) 0 va)

/-- rxpop issues: the rest of the head message goes to memory, and the message is retired. -/
def issueRxpop (n : Fin 16) (s : State) (j : Job) (hint : Hint) : Issue :=
  match j.hart.eng.rx[n] with
  | none => .done s (some (-2))
  | some q =>
    if q.tail ≤ q.head then .done s (some (-1))
    else
      popTake s j (rxRead s j hint q q.head 4) fun s hd =>
        let len := leNat hd % 2 ^ 17
        popTake s j (rxRead s j hint q (q.head + 16 + q.off) (len - q.off)) fun s bs =>
          match operand s j j.entry.opa bs.length 1 .store hint with
          | .trap i => i
          | .stay s => .stay s j.entry
          | .ready s l bad =>
            .done (retireMsg (s.writePieces j (j.hart.slotMask j.entry.opa bs.length) hint bad l bs) j hint n q len) (some (BitVec.ofNat 64 bs.length))

/-! ### vredq (R221, R222) -/

/-- vredq (R221). -/
def execVredq (o : VRedQ) (s : State) : Host.Outcome State Fault Refusal := run (.vredq o) s fun s h => commitVec (.vredq o) (h.getX o.xs) 0 0 s h

/-- Where the next element of a queue lies: at an address of the buffer, which can be read now or must wait, nowhere yet, or behind a page that no
longer translates. -/
inductive Next where
  | at_ (s : State) (x : Xlat) (va : Word)
  | waits (s : State) (x : Xlat) (va : Word)
  | empty (s : State)
  | denied (d : Deny) (va : Word)

/-- Finds the next element of `size` bytes; messages without one left are retired. `fuel` bounds the messages. -/
def nextElem (n : Fin 16) (size : Nat) (hint : Hint) (j : Job) : Nat → State → Next
  | 0, s => .empty s
  | fuel + 1, s =>
    match (s.hart? j.hart.key).bind fun h => h.eng.rx[n] with
    | none => .empty s
    | some q =>
      if q.tail ≤ q.head then .empty s
      else
        match rxRead s j hint q q.head 4 with
        | .denied d va => .denied d va
        | .waits (some x) va => .waits s x va
        | .waits none _ => .empty s
        | .bad x va _ => .at_ s x va
        | .got s hd =>
          if leNat hd % 2 ^ 17 < q.off + size then nextElem n size hint j fuel (retireMsg s j hint n q (leNat hd % 2 ^ 17))
          else
            match translateAll s j.hart.ctx .load (q.pieces (q.head + 16 + q.off) size) with
            | .error (d, va) => .denied d va
            | .ok [] => .empty s
            | .ok (x :: _) => .at_ s x.1 (q.at_ (q.head + 16 + q.off))

/-- Takes the next element at the head, and retires the message with its last one; none where it cannot be read now. -/
def takeElem (n : Fin 16) (size : Nat) (hint : Hint) (j : Job) (s : State) : Option (State × Nat) :=
  match (s.hart? j.hart.key).bind fun h => h.eng.rx[n] with
  | none => none
  | some q =>
    match rxRead s j hint q q.head 4 with
    | .got s hd =>
      (match rxRead s j hint q (q.head + 16 + q.off) size with
       | .got s bs =>
         let q' := { q with off := q.off + size }
         some (if leNat hd % 2 ^ 17 < q'.off + size then retireMsg s j hint n q' (leNat hd % 2 ^ 17) else s.modHart j.hart.key fun g => g.setRx n (some q'),
           leNat bs)
       | .waits _ _ => none
       | .denied _ _ => none
       | .bad _ _ _ => none)
    | .waits _ _ => none
    | .denied _ _ => none
    | .bad _ _ _ => none

/-- Takes up to `todo` elements: the sum, how many have been consumed in all, and the flags. It ends before an element that is not
there, or cannot be read. -/
def redqLoop (o : VRedQ) (n : Fin 16) (j : Job) : Nat → State → Nat → Nat → Flags → State × Nat × Nat × Flags
  | 0, s, acc, i, fl => (s, acc, i, fl)
  | todo + 1, s, acc, i, fl =>
    match nextElem n (bitsW o.fmt / 8) o.hint j 4096 s with
    | .at_ s _ _ =>
      (match takeElem n (bitsW o.fmt / 8) o.hint j s with
       | none => (s, acc, i, fl)
       | some (s, b) =>
         let r := if o.fmt.isInt then intSum o.fmt acc b else fpAddBits o.fmt (j.hart.vrm .dyn) o.flush acc b
         redqLoop o n j todo s r.1 (i + 1) (fl ||| r.2))
    | .empty s => (s, acc, i, fl)
    | .waits s _ _ => (s, acc, i, fl)
    | .denied _ _ => (s, acc, i, fl)

/-- The queue that vredq names (R221). -/
def Entry.rxNumber (e : Entry) : Fin 16 := Fin.ofNat 16 e.opa.toNat

/-- vredq issues: with an element in the queue it awaits the memory that holds it, and its timer runs (R211); with none it waits; with none to
take it is done (R221). -/
def issueVredq (o : VRedQ) (s : State) (j : Job) : Issue :=
  let wait := fun (s : State) (x : Xlat) =>
    Issue.stay (s.fillTlb x)
      { j.entry with issued := true, status := stActive, paddrs := [(j.entry.elem.toNat, x.vault, x.pa)], since := s.time, limit := j.hart.csr.eptlim }
  if (j.hart.eng.rx[j.entry.rxNumber]).isNone then .trap s (.illegal j.entry stFaulted)
  else if j.entry.count (isWide o.fmt) ≤ j.entry.elem.toNat then .done s none
  else if !j.entry.paddrs.isEmpty then .stay s j.entry
  else
    match nextElem j.entry.rxNumber (bitsW o.fmt / 8) o.hint j 4096 s with
    | .empty s => .stay s { j.entry with issued := true }
    | .denied d va => bufferTrap s j d va
    | .at_ s x _ => wait s x
    | .waits s x _ => wait s x

/-- The trap of an element that cannot be read (R209). -/
def redqTrap (o : VRedQ) (s : State) (j : Job) (dead : Bool) : Issue :=
  let va := match nextElem j.entry.rxNumber (bitsW o.fmt / 8) o.hint j 4096 s with
    | .at_ _ _ va => va
    | .waits _ _ va => va
    | .empty _ => 0
    | .denied _ va => va
  .trap s (errorTrap dead j.entry.elem.toNat j.entry.elem.toNat va)

/-- Memory answers vredq: it consumes what the queue holds, up to the end of the lane cluster, and keeps the partial sum in element 0 of vd (R222). -/
def replyVredq (o : VRedQ) (s : State) (j : Job) (r : Reply) : Issue :=
  match j.entry.paddrs with
  | [] => .stay s j.entry
  | p :: _ =>
    match s.failing [p] r false with
    | some (_, _, dead) => redqTrap o s j dead
    | none =>
      let s := s.pull j.slot j.hart [o.vd, o.vs2] []
      let x := s.slot j.slot
      let start := j.entry.elem.toNat
      let n := j.entry.count (isWide o.fmt)
      let acc := elemBits o.fmt x.v[if start = 0 then o.vs2 else o.vd] 0
      let (s, acc, i, fl) := redqLoop o j.entry.rxNumber j (j.passEnd (isWide o.fmt) n - start) s acc start 0
      if i = start then
        match nextElem j.entry.rxNumber (bitsW o.fmt / 8) o.hint j 4096 s with
        | .waits s _ _ => .stay s j.entry
        | .at_ s _ _ => .stay s j.entry
        | .empty s => .stay s { j.entry with paddrs := [] }
        | .denied _ _ => .stay s { j.entry with paddrs := [] }
      else
        let s := (s.setV j.slot o.vd (putElems o.fmt x.v[o.vd] fun e => if e = 0 then some acc else none)).orVflags j.hart.key fl
        if n ≤ i then .done s none else .stay s { j.entry with elem := BitVec.ofNat 16 i, issued := false, paddrs := [] }

end Sys2Proof.Machine
end

