-- ==== Sys2Proof/Machine/Coll.lean ====
section
/-! DEFINITION. Collectives: coll, collwait and the steps of the collective engine (R274 to R278, R405 to R408). -/

namespace Sys2Proof.Machine

/-- A handle that is neither 0 nor in use, from a seed on. `fuel` exceeds the number of handles in use. -/
def pickHandle (used : List Half) : Nat → Half → Half
  | 0, x => x
  | fuel + 1, x => if x = 0 ∨ used.contains x then pickHandle used fuel (x + 1) else x

/-- A fresh handle (log 9). -/
def State.newHandle (s : State) (used : List Half) : State × Half :=
  let (s, n) := s.draw
  (s, pickHandle used (used.length + 2) (Config.handleSeed n))

/-- The group of a partition. -/
def Part.group? (p : Part) (g : Nat) : Option Group := p.groups.find? fun x => x.id == g

/-- The member entry that names a hart of this package (Table 16.11). -/
def State.memberWord (s : State) (k : HartKey) : Word := BitVec.ofNat 64 (s.pkg.toNat * 2 ^ 48 + k.part.val * 2 ^ 32 + k.id % 2 ^ 32)

/-- Rank of a hart in a group. -/
def State.rankOf (s : State) (g : Group) (k : HartKey) : Option Nat := g.members.findIdx? (· == s.memberWord k)

/-- The k-th operation of a group of a partition. -/
def CollOpState.is (c : CollOpState) (p : Fin 17) (g k : Nat) : Bool := c.part == p && c.group == g && c.k == k

/-- The operation, where it is there. -/
def State.coll? (s : State) (p : Fin 17) (g k : Nat) : Option CollOpState := s.colls.find? fun c => c.is p g k

/-- An operation of which nothing is known yet. -/
def CollOpState.fresh (p : Fin 17) (g k : Nat) : CollOpState :=
  { part := p, group := g, k := k, members := [], records := [], values := [], results := [], sent := [], started := false, faulted := false,
    written := false, settled := none }

/-- The state with an operation changed, where it is there. -/
def State.modColl (s : State) (p : Fin 17) (g k : Nat) (f : CollOpState → CollOpState) : State :=
  { s with colls := s.colls.map fun c => if c.is p g k then f c else c }

/-- The operation is known. -/
def State.openColl (s : State) (p : Fin 17) (g k : Nat) : State :=
  if (s.coll? p g k).isSome then s else { s with colls := s.colls ++ [CollOpState.fresh p g k] }

/-- The k-th operation of a group with a member's coll added. -/
def State.addMember (s : State) (p : Fin 17) (g k : Nat) (m : CollMember) : State :=
  (s.openColl p g k).modColl p g k fun c => { c with members := c.members ++ [m] }

/-- Nothing of an operation is left, and what other packages still send of it comes too late (R406, R408). -/
def State.closeColl (s : State) (c : CollOpState) : State :=
  { s with colls := s.colls.filter fun x => !x.is c.part c.group c.k, collsOver := s.collsOver ++ [(c.part, c.group, c.k)] }

/-- Members of a group in this package. -/
def State.localMembers (s : State) (g : Group) : Nat := (g.members.filter fun m => m.toNat / 2 ^ 48 == s.pkg.toNat).length

/-- One more local member has issued its coll of an operation that is over: it learns the status, and with the last one nothing is left (R408). -/
def State.lateMember (s : State) (g : Group) (c : CollOpState) (n : Nat) : State :=
  if s.localMembers g ≤ n + 1 then s.closeColl c
  else s.modColl c.part c.group c.k fun x => { x with settled := x.settled.map fun y => (y.1, n + 1) }

/-- coll (R274). -/
def execColl (o : CollArgs) (s : State) : Host.Outcome State Fault Refusal :=
  run (.coll o) s fun s h => commitEngine (.coll o) (h.getX o.dst) (h.getX o.src) (h.getX o.count) s h

/-- coll issues: a release at its scope (R278), then a handle, and the operation goes to the engine; a hart that is no member
learns so alone (R277). The hart's older collectives are waited for before the operation reads (R278). -/
def issueColl (o : CollArgs) (s : State) (j : Job) : Issue :=
  let h := j.hart
  if 16 ≤ h.eng.colls.length then .done s (some 0)
  else if !h.path.isEmpty || s.copies.any (fun c => c.hart == h.key) || (match h.queue with | e :: _ => e.marks | [] => false) || s.unsettled h o.scope then
    .stay s j.entry
  else
    match release s h o.scope fun _ => true with
    | some s => .stay s j.entry
    | none =>
      let (s, hd) := (s.cover h o.scope fun _ => true).newHandle (h.eng.colls.map (·.1))
      let known := fun (st : Option Nat) (s : State) => s.modHart h.key fun g => { g with eng := { g.eng with colls := g.eng.colls ++ [(hd, st)] } }
      match (s.part h.key.part).group? o.group.val with
      | none => .done (known (some 3) s) (some (zext64 hd))
      | some g =>
        match s.rankOf g h.key with
        | none => .done (known (some 3) s) (some (zext64 hd))
        | some r =>
          let k := h.eng.collK[o.group]
          let n := bitsW o.fmt / 8 * j.entry.opc.toNat
          let s := s.modHart h.key fun g => { g with eng := { g.eng with collK := g.eng.collK.set o.group (k + 1) } }
          let s := if g.span = 2 then s.emit (.collIssued h.key.part.val o.group.val k r o.fmt o.op o.scope j.entry.opc g.record) else s
          match (s.coll? h.key.part o.group.val k).bind fun c => c.settled.map fun y => (c, y) with
          | some (c, st, cnt) => .done ((known (some st) s).lateMember g c cnt) (some (zext64 hd))
          | none =>
          let s := known none s
          let s := s.addMember h.key.part o.group.val k
            { rank := r, hart := some h.key, handle := hd, fmt := o.fmt, op := o.op, scope := o.scope, count := j.entry.opc, dst := j.entry.opa,
              src := j.entry.opb, asid := h.csr.asid, root := h.csr.root, level := h.level, core := h.core, home := h.sched.home, hint := o.hint,
              slots := h.slotMask j.entry.opa n ||| h.slotMask j.entry.opb n, put := [] }
          .done s (some (zext64 hd))

/-- collwait (R274). -/
def execCollwait (xd handle : Reg) (hint : Hint) (s : State) : Host.Outcome State Fault Refusal :=
  run (.collwait xd handle hint) s fun s h => commitEngine (.collwait xd handle hint) (h.getX handle) 0 0 s h

/-- collwait issues. -/
def issueCollwait (s : State) (j : Job) : Issue :=
  match j.hart.eng.colls.find? fun c => zext64 c.1 == j.entry.opa with
  | none => .done s (some 6)
  | some (_, none) => .wait s
  | some (hd, some st) =>
    .done (s.modHart j.hart.key fun h => { h with eng := { h.eng with colls := h.eng.colls.filter fun c => c.1 != hd } }) (some (BitVec.ofNat 64 st))

/-! ### The engine -/

/-- Local members that have issued. -/
def CollOpState.localIssued (c : CollOpState) : Nat := (c.members.filter fun m => m.hart.isSome).length

/-- A member of this package has issued. -/
def CollOpState.isLocal (c : CollOpState) (rank : Nat) : Bool := c.members.any fun m => m.rank == rank && m.hart.isSome

/-- A member learns the status of its operation. -/
def CollMember.learns (s : State) (m : CollMember) (status : Nat) : State :=
  match m.hart with
  | none => s
  | some k => s.modHart k fun h =>
      { h with stall := false, eng := { h.eng with colls := h.eng.colls.map fun x => if x.1 == m.handle && x.2.isNone then (x.1, some status) else x } }

/-- Every local member learns the status, and the operation is over; one that has still to issue learns it then. -/
def State.endColl (s : State) (c : CollOpState) (status : Nat) : State :=
  let t := c.members.foldl (fun s m => m.learns s status) s
  match (s.part c.part).group? c.group with
  | some g =>
    if c.localIssued < s.localMembers g then
      t.modColl c.part c.group c.k fun _ => { CollOpState.fresh c.part c.group c.k with settled := some (status, c.localIssued) }
    else t.closeColl c
  | none => t.closeColl c

/-- In whose name a member's memory is accessed. -/
def CollMember.ctx (m : CollMember) (p : Fin 17) : Ctx := { part := p, asid := m.asid, root := m.root, level := m.level, core := m.core, home := m.home }

/-- Members agree (R277). -/
def CollOpState.agree (c : CollOpState) : Bool :=
  match c.members with
  | [] => true
  | m :: l => l.all fun x => x.fmt == m.fmt && x.op == m.op && x.scope == m.scope && x.count == m.count

/-- SCOPE is at least the group's span (Table 10.15). -/
def spanOk (span : Nat) (sc : Scope) : Bool := decide (span + 3 ≤ sc.code.toNat)

/-- Home dies of the local members. -/
def CollOpState.oneDie (c : CollOpState) : Bool :=
  match c.members with
  | [] => true
  | m :: l => l.all fun x => dieOf x.home == dieOf m.home

/-- Packages hold different records of the group (R406). -/
def CollOpState.differs (c : CollOpState) (g : Group) : Bool := c.records.any fun r => r != g.record

/-- The status that precedes any translation, in the order of R277. -/
def CollOpState.early (c : CollOpState) (g : Group) : Option Nat :=
  if !c.agree || c.differs g || (g.span == 0 && !c.oneDie) then some 1
  else
    match c.members with
    | [] => none
    | m :: _ => if !spanOk g.span m.scope then some 2 else if 2 ^ 24 < m.count.toNat then some 5 else none

/-- What fails of a range (R275): for each failing page, or page that lies on a dead agent or holds an uncorrectable error, the page with its
address space, its address, the reason, the vault and the incarnation. `refused` lists the sectors for which the host reported an error. -/
def failedPages (s : State) (c : Ctx) (need : Need) (va : Word) (n : Nat) (refused : List Nat) : List ((BitVec 10 × Nat × Nat) × Word × Nat × Nat × Nat) :=
  (chunksOf va n).filterMap fun (x : Word × Nat) =>
    match s.access c x.1 need with
    | .ok t =>
      let here := fun r inc : Nat => some ((c.asid, 4096, x.1.toNat / 4096), x.1, r, 0, inc)
      match s.deadAt t.pa with
      | some (_, inc) => if need == .load then here 7 inc.toNat else none
      | none => if need == .load && (sectorsOf t.pa x.2).any (fun sec => s.corrupted sec || refused.contains sec) then here 6 0 else none
    | .error d =>
      let f := pageFault s c 0 x.1 need d
      some ((c.asid, f.page), x.1, f.reason, f.vault, 0)

/-- Everything that fails of the local members' ranges, one entry for each page. -/
def CollOpState.failures (c : CollOpState) (s : State) (refused : List Nat) : List (HartKey × Word × Nat × Nat × Nat) :=
  let all := c.members.flatMap fun m =>
    match m.hart with
    | none => []
    | some h =>
      ((failedPages s (m.ctx c.part) .load m.src m.bytes refused) ++ (failedPages s (m.ctx c.part) .store m.dst m.bytes [])).map fun x => (x.1, h, x.2)
  (all.foldl (fun (l : List ((BitVec 10 × Nat × Nat) × HartKey × Word × Nat × Nat × Nat)) x => if l.any fun y => y.1 == x.1 then l else l ++ [x]) []).map (·.2)

/-- The pieces of a member's range. -/
def CollMember.pieces (m : CollMember) (s : State) (p : Fin 17) (need : Need) (va : Word) : List (Xlat × Nat) :=
  match translateAll s (m.ctx p) need (chunksOf va m.bytes) with
  | .ok l => l
  | .error _ => []

/-- Whether a read of an engine takes lines: with hint code 1 only (R83, Table 14.3). -/
def engineAlloc (hint : Hint) : Option Bool := if hint == 1 then some true else none

/-- The source elements of a local member. -/
def readSource (a : State × List (Nat × Nat × Nat × List Word)) (p : Fin 17) (m : CollMember) : State × List (Nat × Nat × Nat × List Word) :=
  match m.hart with
  | none => a
  | some h =>
    let r := (m.pieces a.1 p .load m.src).foldl (fun (b : State × List Byte) x =>
      let v := (m.ctx p).via x.1.vault
      ((b.1.fillTlb x.1).readSpan h v m.slots x.1.pa x.2 (engineAlloc m.hint), b.2 ++ b.1.view v x.1.pa x.2)) (a.1, [])
    let w := bitsW m.fmt / 8
    (r.1, a.2 ++ [(m.rank, 0, 0, (List.range m.count.toNat).map fun i => BitVec.ofNat 64 (leNat ((r.2.drop (w * i)).take w)))])

/-- The pieces of the local members' sources, each with its member. -/
def CollOpState.sources (c : CollOpState) (s : State) : List (CollMember × Xlat × Nat) :=
  c.members.flatMap fun m => match m.hart with | none => [] | some _ => (m.pieces s c.part .load m.src).map fun x => (m, x)

/-- The local members' sources ask the host for what they need, and wait for regions that are closing (R376, R379): whether something is
still to come, and the sectors that the host refused. -/
def CollOpState.wantSources (c : CollOpState) (s : State) : State × Bool × List Nat :=
  let l := c.sources s
  let r := s.askReads (l.map fun x => ((x.1.ctx c.part).via x.2.1.vault, x.2.1.pa, x.2.2, engineAlloc x.1.hint))
  (r.1, r.2.1 || l.any fun x => s.readWaits x.2.1.pa (s.cacheDie ((x.1.ctx c.part).via x.2.1.vault) x.2.1.pa), r.2.2)

/-- An older collective of a local member is not finished: the release of its coll waits for it (R278). -/
def CollOpState.older (c : CollOpState) (s : State) : Bool :=
  c.members.any fun m =>
    match m.hart.bind s.hart? with
    | some h => (h.eng.colls.takeWhile fun x => x.1 != m.handle).any fun x => x.2.isNone
    | none => false

/-- Every member has issued, as far as this package can wait for them: where the records differ, every local one (R277, R406; log 98). -/
def State.collAll (s : State) (c : CollOpState) (g : Group) : Bool :=
  decide (g.members.length ≤ c.members.length) || (c.differs g && decide (s.localMembers g ≤ c.localIssued))

/-! ### The reduction (R276, R407) -/

/-- Two values of the rank tree become one (R276). -/
def combineRanks (f : Fmt) (op : CollOp) (a b : Nat) : Nat :=
  match op with
  | .sum => if f.isInt then (a + b) % 2 ^ bitsW f else (fpAddBits f .rne false a b).1
  | .min => if f.isInt then (if intVal f b < intVal f a then b else a) else (fpMinMax false f a b).1
  | .max => if f.isInt then (if intVal f a < intVal f b then b else a) else (fpMinMax true f a b).1

/-- The reduction of one element over the ranks (R276). -/
def reduceRanks (f : Fmt) (op : CollOp) (l : List Nat) : Nat :=
  match l with
  | [] => 0
  | a :: r =>
    match op with
    | .sum =>
      if f.isInt then r.foldl (combineRanks f .sum) a
      else if r.isEmpty then (if (fpDecode f a).isNan then canonNan f else a) else (treeLevels f .rne false 10 l).1
    | .min => if r.isEmpty && !f.isInt then (fpMinMax false f a a).1 else r.foldl (combineRanks f .min) a
    | .max => if r.isEmpty && !f.isInt then (fpMinMax true f a a).1 else r.foldl (combineRanks f .max) a

/-- Element `i` of the value of a rank at a level of the tree, once it is here. -/
def CollOpState.elem? (c : CollOpState) (rank level i : Nat) : Option Nat :=
  c.values.findSome? fun v => if v.1 == rank && v.2.1 == level && decide (v.2.2.1 ≤ i) then (v.2.2.2[i - v.2.2.1]?).map (·.toNat) else none

/-- The value of a rank at a level of the tree over `n` ranks: this package forms that of its own ranks, with those that others have sent (R407). -/
def CollOpState.partial? (c : CollOpState) (f : Fmt) (op : CollOp) (n : Nat) : Nat → Nat → Nat → Option Nat
  | 0, r, i => c.elem? r 0 i
  | l + 1, r, i =>
    if !c.isLocal r then c.elem? r (l + 1) i
    else if n ≤ r + 2 ^ l then c.partial? f op n l r i
    else
      match c.partial? f op n l r i, c.partial? f op n l (r + 2 ^ l) i with
      | some a, some b => some (combineRanks f op a b)
      | some _, none => none
      | none, _ => none

/-- Every rank is in this package. -/
def CollOpState.allLocal (c : CollOpState) (n : Nat) : Bool := (List.range n).all c.isLocal

/-- Element `i` of the result, once it is here: rank 0's package forms it, and the others receive it (R407). -/
def CollOpState.result? (c : CollOpState) (n i : Nat) : Option Nat :=
  match c.members with
  | [] => none
  | m :: _ =>
    if c.allLocal n then ((List.range n).mapM fun r => c.elem? r 0 i).map (reduceRanks m.fmt m.op)
    else if c.isLocal 0 then c.partial? m.fmt m.op n 10 0 i
    else c.results.findSome? fun v => if v.1 ≤ i then (v.2[i - v.1]?).map (·.toNat) else none

/-- Elements of a chunk, which is 64 KiB of source (R407). -/
def chunkElems (f : Fmt) : Nat := 65536 / (bitsW f / 8)

/-- What a package sends now (R407): of each chunk, the values of its ranks whose pair lies in another package, and, from the package of rank 0,
the result. By rank, level and first element; level 11 is the result. -/
def CollOpState.ready (c : CollOpState) (n : Nat) : List ((Nat × Nat × Nat) × List Word) :=
  match c.members with
  | [] => []
  | m :: _ =>
    let size := chunkElems m.fmt
    if !c.started || c.allLocal n then []
    else (List.range ((m.count.toNat + size - 1) / size)).flatMap fun j =>
      let span := (List.range (min size (m.count.toNat - size * j))).map (size * j + ·)
      let put := fun (key : Nat × Nat × Nat) (v : Nat → Option Nat) =>
        if c.sent.contains key then none else (span.mapM v).map fun l => (key, l.map (BitVec.ofNat 64))
      ((List.range n).flatMap fun r => (List.range 10).filterMap fun l =>
        if c.isLocal r && r % 2 ^ (l + 1) == 2 ^ l && !c.isLocal (r - 2 ^ l) then put (r, l, size * j) (c.partial? m.fmt m.op n l r) else none) ++
      (if c.isLocal 0 then (put (0, 11, size * j) (c.result? n)).toList else [])

/-- The engine sends what is ready. -/
def State.sendColl (s : State) (p : Fin 17) (g k n : Nat) : State :=
  match s.coll? p g k with
  | none => s
  | some c =>
    let l := c.ready n
    let s := l.foldl (fun s x =>
      s.emit (if x.1.2.1 = 11 then .collResult p.val g k x.1.2.2 x.2 else .collValue p.val g k x.1.1 x.1.2.1 x.1.2.2 x.2)) s
    if l.isEmpty then s else s.modColl p g k fun c => { c with sent := c.sent ++ l.map (·.1) }

/-- The uncorrectable errors of a page that a member's range names count against their banks (R501). -/
def State.noteBanks (s : State) (k : HartKey) (va : Word) : State :=
  match s.hart? k with
  | some h => (List.range 64).foldl (fun s i => s.noteBank h.ctx (BitVec.ofNat 64 (va.toNat / 4096 * 4096 + 64 * i))) s
  | none => s

/-- The ranges of an operation cannot all be accessed: one record for each failing page, and FAULT, of which the other packages are told
(R275, R277). -/
def State.faultColl (s : State) (c : CollOpState) (span : Nat) (bad : List (HartKey × Word × Nat × Nat × Nat)) : State :=
  let s := bad.foldl (fun s x =>
    (if x.2.2.1 = 6 then s.noteBanks x.1 x.2.1 else s).faultRecord c.part
                         { kind := 4, reason := x.2.2.1, vault := x.2.2.2.1, inc := x.2.2.2.2, hart := x.1.id, id := c.group,
                           aux := if x.2.2.1 = 7 then s.pkg.toNat else 0, addr := x.2.1.toNat / 4096 * 4096 }) s
  (if span = 2 && !bad.isEmpty then s.emit (.collFault c.part.val c.group c.k) else s).endColl c 4

/-- COLL_OPERATION_START (R275): once every member has issued, the statuses before translation, then FAULT with one record for
each failing page, else every local source is read. -/
def execCollOperationStart (p : Fin 17) (g : Fin 64) (k : Nat) (s : State) : Host.Outcome State Fault Refusal :=
  match s.coll? p g.val k, (s.part p).group? g.val with
  | some c, some gr =>
    if c.settled.isSome || c.started || !s.collAll c gr || c.older s then .next s
    else
      match c.early gr with
      | some st => .next (s.endColl c st)
      | none =>
        let bad := c.failures s []
        if !bad.isEmpty || c.faulted then .next (s.faultColl c gr.span bad)
        else
          match c.wantSources s with
          | (s, true, _) => .next s
          | (s, false, refused) =>
            match c.failures s refused with
            | x :: l => .next (s.faultColl c gr.span (x :: l))
            | [] =>
              let ms := c.members.map fun m => { m with put := (match m.hart with | none => [] | some _ => (m.pieces s p .store m.dst).map fun x => (x.1.pa, x.1.vault, x.2)) }
              let (s, vals) := c.members.foldl (fun a m => readSource a p m) (s, [])
              .next ((s.modColl p g.val k fun x => { x with started := true, members := ms, values := x.values ++ vals }).sendColl p g.val k gr.members.length)
  | some _, none => .next s
  | none, _ => .next s

/-- The place of another package's member in an operation. -/
def remoteMember (r : Nat) (f : Fmt) (op : CollOp) (sc : Scope) (n : Word) : CollMember :=
  { rank := r, hart := none, handle := 0, fmt := f, op := op, scope := sc, count := n, dst := 0, src := 0, asid := 0, root := 0, level := .t,
    core := 0, home := 0, hint := 0, slots := 0, put := [] }

/-- COLL_PARTIAL_TRANSFER (R406, R407): what another package's engine sends: a member's coll with its record, a value of the rank tree, a chunk of the
result, or that its translation has failed, which ends the operation here with the same status (R277). A record that differs counts even where
its rank has no place here. Of an operation that is over nothing counts any more. -/
def execCollPartialTransfer (p : Fin 17) (g : Fin 64) (k : Nat) (news : CollNews) (s : State) : Host.Outcome State Fault Refusal :=
  match (s.part p).group? g.val with
  | none => .next s
  | some gr =>
    let n := gr.members.length
    if gr.span ≠ 2 || s.collsOver.contains (p, g.val, k) || ((s.coll? p g.val k).any fun c => c.settled.isSome) then .next s
    else
      match news with
      | .issued r f op sc count rec =>
        .next ((s.openColl p g.val k).modColl p g.val k fun c =>
          { c with
            records := c.records ++ [rec]
            members := if r < n && !c.members.any (fun m => m.rank == r) then c.members ++ [remoteMember r f op sc count] else c.members })
      | .value r l first elems =>
        .next (((s.openColl p g.val k).modColl p g.val k fun c =>
          if c.isLocal r || c.values.contains (r, l, first, elems) then c else { c with values := c.values ++ [(r, l, first, elems)] }).sendColl p g.val k n)
      | .result first elems =>
        .next ((s.openColl p g.val k).modColl p g.val k fun c => { c with results := c.results ++ [(first, elems)] })
      | .fault =>
        let s := (s.openColl p g.val k).modColl p g.val k fun c => { c with faulted := true }
        match s.coll? p g.val k with
        | none => .next s
        | some c => .next (if c.started then s.endColl c 4 else s)

/-- Every element of the result is here. -/
def CollOpState.complete (c : CollOpState) (n : Nat) : Bool :=
  match c.members with
  | [] => false
  | m :: _ => c.started && (List.range m.count.toNat).all fun i => (c.result? n i).isSome

/-- The destination of a local member, as the start of the operation translated it, with the way to it through the caches. -/
def CollMember.puts (m : CollMember) (p : Fin 17) : List (HartKey × Via × Nat × Nat) :=
  match m.hart with
  | none => []
  | some h => m.put.map fun x => (h, (m.ctx p).via x.2.1, x.1, x.2.2)

/-- Writes a member's destination; the sectors listed were refused by the host. -/
def CollMember.write (m : CollMember) (p : Fin 17) (bad : List Nat) (out : List Byte) (s : State) : State :=
  ((m.puts p).foldl (fun (a : State × List Byte) x =>
    (a.1.writeSpan x.1 x.2.1 m.slots (hintAlloc m.hint false) false bad x.2.2.1 (a.2.take x.2.2.2), a.2.drop x.2.2.2)) (s, out)).1

/-- The bytes of the result. -/
def CollOpState.outBytes (c : CollOpState) (n : Nat) : List Byte :=
  match c.members with
  | [] => []
  | m :: _ => (List.range m.count.toNat).flatMap fun i => leBytes (bitsW m.fmt / 8) ((c.result? n i).getD 0)

/-- The members' destinations that are not performed at SCOPE yet (R278): the state in which they are waited for, or none. -/
def CollOpState.settling (c : CollOpState) (s : State) : Option State :=
  c.members.findSome? fun m =>
    match m.hart.bind s.hart? with
    | some h => release s h m.scope fun o => o.slots == m.slots
    | none => none

/-- The members' destinations are released at SCOPE. -/
def CollOpState.coverAll (c : CollOpState) (s : State) : State :=
  c.members.foldl (fun s m =>
    match m.hart.bind s.hart? with
    | some h => s.cover h m.scope fun o => o.slots == m.slots
    | none => s) s

/-- DONE, once the destinations are performed at SCOPE. -/
def State.finishColl (s : State) (c : CollOpState) : State :=
  match c.settling s with
  | some s => s
  | none => (c.coverAll s).endColl c 0

/-- COLL_OPERATION_END (R275, R277): every local destination receives the reductions, and once they are performed at SCOPE the operation is DONE
(R278). Destinations in the memory of a host are asked for first (R379). -/
def execCollOperationEnd (p : Fin 17) (g : Fin 64) (k : Nat) (s : State) : Host.Outcome State Fault Refusal :=
  match s.coll? p g.val k, (s.part p).group? g.val with
  | some c, some gr =>
    if c.settled.isSome || !c.complete gr.members.length then .next s
    else if c.written then .next (s.finishColl c)
    else
      let cuts : List (Via × Hint × Nat × Nat) := c.members.flatMap fun m => (m.puts p).flatMap fun x =>
        (sectorsOf x.2.2.1 x.2.2.2).map fun sec =>
          (x.2.1, m.hint, max sec x.2.2.1, min (sec + 64) (x.2.2.1 + x.2.2.2) - max sec x.2.2.1)
      match s.wantEach cuts (fun x => x.2.2.1) fun s x => s.wantWrite x.1 x.2.2.1 x.2.2.2 (hintAlloc x.2.1 false) with
      | (s, true, _) => .next s
      | (s, false, bad) =>
        let out := c.outBytes gr.members.length
        .next (((c.members.foldl (fun s m => m.write p bad out s) s).modColl p g.val k fun x => { x with written := true }).finishColl { c with written := true })
  | some _, none => .next s
  | none, _ => .next s

/-- COLL_PACKAGE_UNREACHABLE (R408): every operation with a member in the package ends FAULT, with one record for its partition; a member that issues
its coll of such an operation later learns the same. -/
def execCollPackageUnreachable (pkg : BitVec 16) (s : State) : Host.Outcome State Fault Refusal :=
  let hit := s.colls.filter fun c => c.settled.isNone &&
    match (s.part c.part).group? c.group with
    | some g => g.members.any fun m => m.toNat / 2 ^ 48 == pkg.toNat && pkg != s.pkg
    | none => false
  .next (hit.foldl (fun s c => (s.faultRecord c.part { kind := 4, reason := 7, aux := pkg.toNat, id := c.group }).endColl c 4) s)

end Sys2Proof.Machine
end

