-- ==== Sys2Proof/Machine/CopyEv.lean ====
section
/-! DEFINITION. What Husky and the receive queues do on their own: copy transfer and completion, stream fetches, and messages
that arrive (R251 to R256, R263, R271, R272). -/

namespace Sys2Proof.Machine

/-! ### Bytes of a copy (R259) -/

/-- Address of byte `i` of a box in packed order. -/
def Desc.addr (d : Desc) (off : Word) (i : Nat) : Word :=
  let rec go : Nat → List Nat → List Int → Int
    | _, [], _ => 0
    | e, x :: xs, st => (match st with | s :: _ => (e % max x 1 : Nat) * s | [] => 0) + go (e / max x 1) xs st.tail
  d.base + off + BitVec.ofInt 64 (go (i / d.esz) d.ext ((d.esz : Int) :: d.strides)) + BitVec.ofNat 64 (i % d.esz)

/-- Address from which byte `i` comes. -/
def CopyArgs.srcAddr (a : CopyArgs) (i : Nat) : Word :=
  match a.box with
  | some (d, false) => d.addr a.src i
  | some (_, true) => a.src + BitVec.ofNat 64 i
  | none => a.src + BitVec.ofNat 64 i

/-- Address to which byte `i` goes. -/
def CopyArgs.dstAddr (a : CopyArgs) (i : Nat) : Word :=
  match a.box with
  | some (d, true) => d.addr a.dst i
  | some (_, false) => a.dst + BitVec.ofNat 64 i
  | none => a.dst + BitVec.ofNat 64 i

/-- The indices that stand at places `k` to `k + n − 1` of a list of runs. -/
def runSlice : List (Nat × Nat) → Nat → Nat → List Nat
  | [], _, _ => []
  | (a, len) :: l, k, n =>
    if len ≤ k then runSlice l (k - len) n
    else (List.range (min n (len - k))).map (fun i => a + k + i) ++ runSlice l 0 (n - (len - k))

/-- Length of a list of runs. -/
def runTotal (l : List (Nat × Nat)) : Nat := (l.map (·.2)).sum

/-- A list of runs with one index added at its end. -/
def addRun (l : List (Nat × Nat)) (i : Nat) : List (Nat × Nat) :=
  match l.getLast? with
  | some (a, n) => if a + n = i then l.dropLast ++ [(a, n + 1)] else l ++ [(i, 1)]
  | none => [(i, 1)]

/-! ### COPY_TRANSFER (R251) -/

/-- In whose name a copy accesses memory. -/
def Copy.ctx (c : Copy) : Ctx := { part := c.hart.part, asid := c.asid, root := c.root, level := c.level, core := c.core, home := c.home }

/-- The incarnation of the agent of an address, which a report of its death gives (R446). -/
def State.incarnationAt (s : State) (pa : Nat) : Nat :=
  match (agentOf pa).bind fun a => s.agents.lookup a with
  | some a => a.incarnation.toNat
  | none => 0

/-- The sector of an address, where the copy has given it up: with its sector, or with its page (R251). -/
def Copy.lostAt (c : Copy) (dst : Bool) (va : Word) : Option LostSector :=
  (c.lost.find? fun x => x.dst == dst && (x.addr == sectorOf va.toNat || (decide (x.reason ≤ 5) && x.addr / 4096 == va.toNat / 4096))).map fun x =>
    { x with addr := sectorOf va.toNat }

/-- Why a byte of one side cannot be transferred: the sector given up; or the translation of the byte. -/
def Copy.byteAt (c : Copy) (s : State) (dst : Bool) (va : Word) (bad : List SectorError) : Except LostSector Xlat :=
  let sec := sectorOf va.toNat
  let lost := fun reason vault inc : Nat => Except.error { dst := dst, addr := sec, reason := reason, vault := vault, inc := inc }
  match c.lostAt dst va with
  | some x => .error x
  | none =>
    match s.access c.ctx va (if dst then .store else .load) with
    | .error (.page r _) => lost r 0 0
    | .error (.vault r i) => lost (r + 3) i.toNat 0
    | .ok x =>
      match s.deadAt x.pa with
      | some (_, inc) => lost 7 0 inc.toNat
      | none =>
        if s.corrupted x.pa && !dst then lost 6 0 0
        else
          match bad.find? fun b => b.src != dst && sectorOf b.addr.toNat == sec with
          | some b => if b.dead then lost 7 0 (s.incarnationAt x.pa) else lost 6 0 0
          | none => .ok x

/-- The copy with a sector given up, once. -/
def Copy.giveUp (c : Copy) (x : LostSector) : Copy := if c.lost.contains x then c else { c with lost := c.lost ++ [x] }

/-- Bytes that were read before their sector or their page failed are given up with it (R251). -/
def Copy.dropLost (c : Copy) : Copy :=
  { (c.buf.filterMap fun x => c.lostAt false (c.args.srcAddr x.1)).foldl Copy.giveUp c with
    buf := c.buf.filter fun x => (c.lostAt false (c.args.srcAddr x.1)).isNone }

/-- The last byte that a copy has accessed: its vault and its address. -/
abbrev LastByte := Option (BitVec 8 × Nat)

/-- The access before went to the same line (`line`), or to the same sector. -/
def State.follows (s : State) (c : Ctx) (b : LastByte) (vault : BitVec 8) (pa : Nat) (line : Bool) : Bool :=
  let size := match line, s.vaultOf (c.via vault) with | true, some v => v.lineBytes | true, none => 64 | false, _ => 64
  match b with
  | some y => y.1 == vault && y.2 / size == pa / size
  | none => false

/-- One byte is read, or its sector is given up. -/
def readCopyByte (bad : List SectorError) (refused : List Nat) (a : State × Copy × LastByte) (i : Nat) : State × Copy × LastByte :=
  let (s, c, b) := a
  let va := c.args.srcAddr i
  match c.byteAt s false va bad with
  | .error x => (s, c.giveUp x, b)
  | .ok x =>
    if refused.contains (sectorOf x.pa) then (s, c.giveUp { dst := false, addr := sectorOf va.toNat, reason := 6, vault := 0, inc := 0 }, b)
    else
      let v := c.ctx.via x.vault
      let s := if s.follows c.ctx b x.vault x.pa false then s
        else (((s.fillTlb x).correct x.pa).readTouch v x.pa (engineAlloc c.hint) false).noteRead c.hart c.slots x.pa
      (s, { c with buf := c.buf ++ (s.view v x.pa 1).map fun y => (i, y) }, some (x.vault, x.pa))

/-- Bytes of one sector that are to be written together: their vault, their address and their values. -/
abbrev CopyPiece := Option (BitVec 8 × Nat × List Byte)

/-- A piece of a copy is written. -/
def writeCopyPiece (a : State × Copy × LastByte × CopyPiece) : State × Copy × LastByte × CopyPiece :=
  let (s, c, last, piece) := a
  match piece with
  | none => a
  | some (vault, pa, bs) =>
    (s.writeOne c.hart (c.ctx.via vault) c.slots pa bs (hintAlloc c.hint false) false (s.follows c.ctx last vault pa true),
      { c with done := c.done + bs.length }, some (vault, pa), none)

/-- One byte joins the piece that is to be written, or begins the next; it is left out where its own sector or its source's is missing, or where the
host refuses its sector (R251). -/
def writeCopyByte (bad : List SectorError) (refused : List Nat) (a : State × Copy × LastByte × CopyPiece) (i : Nat) :
    State × Copy × LastByte × CopyPiece :=
  let (s, c, last, piece) := a
  match c.buf.lookup i with
  | none => (s, { c with missing := addRun c.missing i }, last, piece)
  | some b =>
    let va := c.args.dstAddr i
    match c.byteAt s true va bad with
    | .error x => (s, { c.giveUp x with missing := addRun c.missing i }, last, piece)
    | .ok x =>
      if refused.contains (sectorOf x.pa) then
        (s, { c.giveUp { dst := true, addr := sectorOf va.toNat, reason := 6, vault := 0, inc := 0 } with missing := addRun c.missing i }, last, piece)
      else
        let fresh := fun (a : State × Copy × LastByte × CopyPiece) => (a.1.fillTlb x, a.2.1, a.2.2.1, some (x.vault, x.pa, [b]))
        match piece with
        | none => fresh a
        | some (vault, pa, bs) =>
          if vault == x.vault && x.pa == pa + bs.length && sectorOf x.pa == sectorOf pa then (s, c, last, some (vault, pa, bs ++ [b]))
          else fresh (writeCopyPiece a)

/-- The bytes of one side that can be accessed, with their translations. -/
def Copy.reached (c : Copy) (s : State) (dst : Bool) (bad : List SectorError) (ids : List Nat) : List Xlat :=
  ids.filterMap fun i =>
    if dst && (c.buf.lookup i).isNone then none
    else match c.byteAt s dst (if dst then c.args.dstAddr i else c.args.srcAddr i) bad with | .ok x => some x | .error _ => none

/-- Source bytes ask the host for what they need, and wait for regions that are closing (R376, R379): whether something is still to come,
and the sectors that the host refused. -/
def Copy.wantSource (c : Copy) (s : State) (l : List Xlat) : State × Bool × List Nat :=
  let r := s.askReads (l.map fun x => (c.ctx.via x.vault, x.pa, 1, engineAlloc c.hint))
  (r.1, r.2.1 || l.any fun x => s.readWaits x.pa (s.cacheDie (c.ctx.via x.vault) x.pa), r.2.2)

/-- Destination sectors ask for ownership, without data where every byte of the sector is written (Table 15.6), and wait for an agent that has fallen
silent (R382). -/
def Copy.wantDest (c : Copy) (s : State) (l : List Xlat) : State × Bool × List Nat :=
  let l := l.filter fun x => s.inCxl x.pa || s.silentAt x.pa
  s.wantEach (dedup (l.map fun x => (x.vault, sectorOf x.pa))) (·.2) fun s x =>
    s.wantWrite (c.ctx.via x.1) x.2 (l.filter fun y => sectorOf y.pa == x.2).length (hintAlloc c.hint false)

/-- The failing blocks of a copy: side, block, and the sectors lost in it. -/
def Copy.blocks (c : Copy) : List (Bool × Nat) := dedup (c.lost.map fun x => (x.dst, x.addr / 4096 * 4096))

/-- The sectors missing from a failing block, as a bitmap (R252). -/
def Copy.bitmap (c : Copy) (b : Bool × Nat) : Nat :=
  (dedup ((c.lost.filter fun x => x.dst == b.1 && x.addr / 4096 * 4096 == b.2).map fun x => x.addr % 4096 / 64)).foldl (fun m k => m + 2 ^ k) 0

/-- The fault-queue record of a failing block (R252): where its sectors failed for different reasons, the reason is that of the first that
failed (log 28). -/
def Copy.blockRecord (c : Copy) (b : Bool × Nat) : FaultRecord :=
  let here := c.lost.filter fun x => x.dst == b.1 && x.addr / 4096 * 4096 == b.2
  let first := here.headD { dst := false, addr := 0, reason := 0, vault := 0, inc := 0 }
  { kind := 1, reason := first.reason, side := if b.1 then 1 else 0, vault := first.vault, inc := first.inc, hart := c.hart.id, id := c.id.toNat,
    addr := b.2, bitmap := c.bitmap b }

/-- The state with a copy replaced. -/
def State.putCopy (s : State) (c : Copy) : State :=
  { s with copies := s.copies.map fun x => if x.hart == c.hart && x.id == c.id then c else x }

/-- Nothing is left to transfer: the records of the failing blocks, and the status (R252, R253). The records stand in the order in which the blocks
failed, of the orders that R486 allows (DESIGN CHOICE, log 104). -/
def endTransfer (s : State) (c : Copy) : State :=
  let bl := c.blocks
  let s := (c.lost.filter fun x => !x.dst && x.reason == 6).foldl (fun s x => s.noteBank c.ctx (BitVec.ofNat 64 x.addr)) s
  let s := bl.foldl (fun s b => s.faultRecord c.hart.part (c.blockRecord b)) s
  let status : BitVec 8 := if c.missing.isEmpty then 0x00 else if 1024 < bl.length + 1 then 0x02 else 0x01
  s.putCopy { c with finished := some status, buf := [] }

/-- COPY_TRANSFER (R251): the next bytes of a copy, at most a page of them, are read; once all are read they are written.
`bad` names the sectors whose access found an error. Nothing happens while the host, or a region that is closing, keeps them waiting. -/
def execCopyTransfer (k : HartKey) (id : Half) (bad : List SectorError) (s : State) : Host.Outcome State Fault Refusal :=
  match s.copies.find? fun c => c.hart == k && c.id == id && c.finished.isNone with
  | none => .next s
  | some c =>
    let total := runTotal c.todo
    if c.rd < total then
      let ids := runSlice c.todo c.rd 4096
      match c.wantSource s (c.reached s false bad ids) with
      | (s, true, _) => .next s
      | (s, false, refused) =>
        let (s, c, _) := ids.foldl (readCopyByte bad refused) (s, c, none)
        .next (s.putCopy { c.dropLost with rd := c.rd + ids.length })
    else
      let ids := runSlice c.todo c.wr 4096
      let reached := c.reached s true bad ids
      match c.wantDest s reached with
      | (s, true, _) => .next s
      | (s, false, refused) =>
        let (s, c, _) := writeCopyPiece (ids.foldl (writeCopyByte bad refused) (s, c, none, none))
        let s := s.landAll (reached.map (·.pa))
        let c := { c with wr := c.wr + ids.length }
        .next (if total ≤ c.wr then endTransfer s c else s.putCopy c)

/-! ### COPY_COMPLETION (R253, R255, R256) -/

/-- The replay records with the oldest dropped until `n` lines are free of 1,024. -/
def evict (n : Nat) : List Replay → List Replay
  | [] => []
  | r :: l => if n + ((r :: l).map fun x => x.lines.length).sum ≤ 1024 then r :: l else evict n l

/-- The state with the replay record of a partial copy: one line for itself, one for each failing block. -/
def State.keepReplay (s : State) (h : Hart) (c : Copy) : State :=
  if c.finished == some 0x01 then
    let bl := c.blocks
    let kept := evict (bl.length + 1) h.eng.replays
    let used := kept.flatMap (·.lines)
    let r : Replay :=
      { id := c.id, args := c.args, missing := c.missing, blocks := bl.map fun b => (b.1, b.2, c.bitmap b),
        lines := ((List.range 1024).filter fun n => !used.contains n).take (bl.length + 1) }
    (s.modHart h.key fun h => { h with eng := { h.eng with replays := kept ++ [r] } }).writeReplay h r
  else s

/-- The completion message (Table 10.4). -/
def Copy.message (c : Copy) (st : BitVec 8) : Mail :=
  { lo := BitVec.ofNat 64 (0x01 + 256 * st.toNat + 2 ^ 32 * c.id.toNat), hi := BitVec.ofNat 64 (c.done % 2 ^ 48) }

/-- COPY_COMPLETION (R256): a copy whose transfer is over delivers to its barrier or to the mailbox; while the mailbox is full it
stays in flight. -/
def execCopyCompletion (k : HartKey) (id : Half) (s : State) : Host.Outcome State Fault Refusal :=
  match s.copies.find? fun c => c.hart == k && c.id == id with
  | none => .next s
  | some c =>
    match c.finished with
    | none => .next s
    | some st =>
      let gone := { s with copies := s.copies.filter fun x => !(x.hart == k && x.id == id) }
      match s.hart? k, c.dlv with
      | none, _ => .next gone
      | some h, .barrier b =>
        .next ((gone.keepReplay h c).modHart k fun h =>
          { h.modCb b fun cb => { cb with count := cb.count + c.done, infl := cb.infl - 1 } with stall := false })
      | some h, .mailbox => if h.mailFull then .next s else .next ((gone.keepReplay h c).deliver k (c.message st))

/-! ### STREAM_FETCH (R263) -/

/-- What becomes of the fetch of an element: its bytes, a wait, or a failure: the bytes and the first address of what failed, with the address
that a record gives, the reason, the vault and the incarnation. -/
inductive Fetch where
  | got (s : State) (pa : Nat) (bs : List Byte)
  | waits (s : State)
  | fails (s : State) (size lo addr reason vault inc : Nat)

/-- One element is fetched, as a read of the vector stream: it returns a store of the hart that such reads see (R283, R285), and is counted in no slot
until a vld.st pops it (R301). -/
def fetchElem (s : State) (h : Hart) (t : StreamState) (p : Nat) (bad : List SectorError) : Fetch :=
  let va := t.addr p
  let n := t.elemSize
  match s.access h.ctx va .load with
  | .error d =>
    let f := pageFault s h.ctx p va .load d
    .fails s f.page.1 (f.page.1 * f.page.2) (va.toNat / 4096 * 4096) f.reason f.vault 0
  | .ok x =>
    let sec := sectorOf va.toNat
    if s.interlocked h va n || s.behind h va n false || s.readWaits x.pa (s.cacheDie (h.via x) x.pa) then .waits s
    else
      match s.deadAt x.pa with
      | some (_, inc) => .fails s 64 sec sec 7 0 inc.toNat
      | none =>
        match bad.find? fun b => b.src && sectorOf b.addr.toNat == sec with
        | some b => if b.dead then .fails s 64 sec sec 7 0 (s.incarnationAt x.pa) else .fails s 64 sec sec 6 0 0
        | none =>
          if s.corrupted x.pa then .fails s 64 sec sec 6 0 0
          else
            match s.askReads [(h.via x, x.pa, n, none)] with
            | (s, true, _) => .waits s
            | (s, false, _ :: _) => .fails s 64 sec sec 6 0 0
            | (s, false, []) => .got ((s.fillTlb x).readSpan h.key (h.via x) 0 x.pa n none) x.pa (s.viewVector h.key (h.via x) x.pa n)

/-- HEAD of a partition's fault queue has moved past a record (R445). -/
def State.consumed (s : State) (p : Fin 17) (n : Nat) : Bool :=
  let head := s.readNat ((s.part p).fq.addr + 8) 4
  decide ((head + 2 ^ 32 - n - 1) % 2 ^ 32 < 2 ^ 31)

/-- The element is withheld. -/
def StreamState.held (t : StreamState) (p : Nat) : Bool :=
  t.withheld.any fun x => decide (x.1 ≤ (t.addr p).toNat) && decide ((t.addr p).toNat < x.1 + x.2.1)

/-- How many elements Husky reads ahead: four strips of the current vl (R263), or what a vld.st in the queue still needs (log 29). -/
def Hart.ahead (h : Hart) (st : Stream) : Nat :=
  h.queue.foldl (fun m e =>
    match e.instr? with
    | some (.vld_st o) => if o.st == st then max m (e.count (isWide o.fmt)) else m
    | some _ => m
    | none => m) (4 * h.csr.vl.toNat)

/-- STREAM_FETCH (R263): up to `count` elements that lie ahead of the position and are neither held nor withheld are
fetched; a failure writes one record for its page or sector and withholds the elements there, until HEAD has moved past the record. -/
def execStreamFetch (k : HartKey) (st : Stream) (count : Nat) (bad : List SectorError) (s : State) : Host.Outcome State Fault Refusal :=
  match s.hart? k with
  | none => .next s
  | some h =>
    match h.eng.streams[st] with
    | none => .next s
    | some t =>
      let t := { t with withheld := t.withheld.filter fun x => !(match x.2.2 with | some n => s.consumed k.part n | none => false) }
      let want := (((List.range (h.ahead st)).map (t.first.foldl min t.pos + ·)).filter fun p =>
        decide (p < t.length) && (t.buf.lookup p).isNone && !t.held p).take count
      let step := fun (a : State × StreamState) (p : Nat) =>
        let (s, t) := a
        if t.held p then (s, t)
        else
          match fetchElem s h t p bad with
          | .got s pa bs => (s, { t with buf := t.buf ++ [(p, pa, bs)] })
          | .waits s => (s, t)
          | .fails s size lo at_ r v inc =>
            let before := s.faultTail k.part
            let s := s.faultRecord k.part { kind := 2, reason := r, vault := v, inc := inc, hart := k.id, id := st.val, addr := at_, aux := p }
            let num := if s.faultTail k.part = before then none else some before
            (s, { t with withheld := t.withheld ++ [(lo, size, num)] })
      let (s, t) := want.foldl step (s, t)
      .next (s.modHart k fun h => { h with stall := false, eng := { h.eng with streams := h.eng.streams.set st (some t) } })

/-! ### RX_MESSAGE_ARRIVAL (R271, R272, R404) -/

/-- Outcomes of an arrival: 0 delivered, 1 RX_CLOSED, 2 RX_TOOLONG, 3 RX_FULL, 4 RX_FAULT. -/
def rxOutcome (s : State) (h : Hart) (q : RxQueue) (l : Nat) : Nat × Option (Word × Deny) :=
  let r := msgBytes l
  if q.size < r then (2, none)
  else if q.size - (q.tail - q.head) < r then (3, none)
  else
    match translateAll s h.ctx .store (q.pieces q.tail 16 ++ q.pieces (q.tail + 16) l) with
    | .error (d, va) => (4, some (va, d))
    | .ok _ => (0, none)

/-- The header of a message (Table 10.12). -/
def rxHeader (q : RxQueue) (srcHart : Half) (srcPkg tag : BitVec 16) (l : Nat) : List Byte :=
  let wrap := decide (q.size < (q.tail + 16) % q.size + l)
  leBytes 16 (packFields [(31, l), (1, 1), (1, if wrap then 1 else 0), (31, 0), (16, tag.toNat), (16, srcPkg.toNat), (32, srcHart.toNat)])

/-- Writes bytes at a position of the buffer; a line that this fills has low priority (log 95). -/
def rxWrite (s : State) (h : Hart) (q : RxQueue) (pos : Nat) (bs : List Byte) : State :=
  match translateAll s h.ctx .store (q.pieces pos bs.length) with
  | .error _ => s
  | .ok l => s.putPieces h.key h.ctx 0 (some false) [] l bs

/-- RX_MESSAGE_ARRIVAL (R272): the outcome is decided when the space is claimed; a delivered message is written payload first, and a
message into an empty queue with NOTIFY posts a notice. -/
def execRxMessageArrival (k : HartKey) (n : Fin 16) (srcHart : Half) (srcPkg tag : BitVec 16) (payload : List Byte) (s : State) :
    Host.Outcome State Fault Refusal :=
  let answer := fun (s : State) (o : Nat) => s.emit (.message k.part.val (BitVec.ofNat 32 k.id) o)
  let l := payload.length
  if l % 4 ≠ 0 || l = 0 || decide (65536 < l) then .next s
  else
    match s.hart? k with
    | none => .next (answer s 1)
    | some h =>
      match h.eng.rx[n] with
      | none => .next (answer s 1)
      | some q =>
        match rxOutcome s h q l with
        | (4, some (va, d)) =>
          let (r, v) := match d with | .page r _ => (r, 0) | .vault r i => (r + 3, i.toNat)
          .next (answer (s.faultRecord k.part { kind := 3, reason := r, vault := v, hart := k.id, id := n.val, addr := va.toNat / 4096 * 4096 }) 4)
        | (0, _) =>
          let s := rxWrite s h q (q.tail + 16) payload
          let s := rxWrite s h q q.tail (rxHeader q srcHart srcPkg tag l)
          let s := s.modHart k fun h => { h.setRx n (some { q with tail := q.tail + msgBytes l }) with stall := false }
          let s := if q.notify && q.head == q.tail then s.post k { lo := BitVec.ofNat 64 (0x04 + 256 * n.val), hi := 0 } else s
          .next (answer s 0)
        | (o, _) => .next (answer s o)

end Sys2Proof.Machine
end

