-- ==== Sys2Proof/Machine/Tensor.lean ====
section
/-! DEFINITION. Tensor instructions and tiles (R225 to R242). -/

namespace Sys2Proof.Machine

/-! ### Matrix mode (R228, R229) -/

/-- mvlmax of a tile format (Table 9.1). -/
def mvlMax (f : Fmt) : Nat := if isWide f then 64 else 128

/-- msetvl (R228). -/
def execMsetvl (o : SetLen) (s : State) : Host.Outcome State Fault Refusal :=
  run (.msetvl o) s fun s h =>
    let grant := match h.sched.slot with | some i => (s.slot i).matrix | none => 0
    let mvl := min (h.getX o.req).toNat (min (mvlMax o.fmt) grant)
    .ok (s.modHart h.key fun g => ({ g with csr := { g.csr with mvl := BitVec.ofNat 8 mvl, mm := true, tfmt := o.fmt.code } }).setX o.xd (BitVec.ofNat 64 mvl))

/-- A tile of zeros. -/
def zeroTile : Vector (Vector Half 128) 128 := Vector.replicate 128 (Vector.replicate 128 0)

/-- mexit (R229): once the hart's own tensor entries are done, both tiles and mtype and mvl become zero. -/
def execMexit (hint : Hint) (s : State) : Host.Outcome State Fault Refusal :=
  run (.mexit hint) s fun s h =>
    if !h.csr.mm then .ok s
    else if !s.owns h then .trap s (.scalar 0x14 0 0)
    else if h.queue.any fun e => match e.instr? with | some i => isTensor i | none => false then .stall s
    else
      let s := match h.sched.slot with
        | some i => s.putSlot { s.slot i with m := Vector.replicate 2 zeroTile, mValid := 3, mDirty := 0 }
        | none => s
      .ok (s.modHart h.key fun g => { g with tilesAway := 0, csr := { g.csr with mm := false, tfmt := 0, mvl := 0 } })

/-- Commits a tensor instruction (R230): matrix mode and pairing, then ownership. -/
def commitTensor (i : Instr) (pairs : BitVec 4 → Bool) (a b c : Word) (s : State) (h : Hart) : Effect :=
  if !h.csr.mm || !pairs h.csr.tfmt then .trap s (.illegal i) else commitVec i a b c s h

/-- Every tile format pairs. -/
def anyTfmt : BitVec 4 → Bool := fun _ => true

/-- Operand formats that accumulate into a tile format (Table 9.1). -/
def pairsWith (f : Fmt) (t : BitVec 4) : Bool :=
  match f with
  | .i8 => t == 0x4 | .n8 => t == 0x4
  | .f16 => t == 0xA | .bf16 => t == 0xA | .f32 => t == 0xA
  | .e4m3 => t == 0xA | .e5m2 => t == 0xA | .e2m1 => t == 0xA
  | .f64 => t == 0xB
  | .n16 => false | .i16 => false | .i32 => false | .n32 => false | .i64 => false | .n64 => false | .e8m0 => false

/-! ### Tiles (R19, R225) -/

/-- The captured tile format of an entry: bits 3 and 0 of MTYPE alone decide, also where an altered image gives a format that no pair lists
(log 92). -/
def Entry.tileFmt (e : Entry) : Fmt := if e.mtype.getLsbD 3 then (if e.mtype.getLsbD 0 then .f64 else .f32) else .i32

/-- A container of a tile. -/
def tileContainer (t : Vector (Vector Half 128) 128) (i c : Nat) : Nat :=
  match t[i]? with
  | some r => (r[c]?.getD 0).toNat
  | none => 0

/-- Tile element (i, j). -/
def tileElem (wide : Bool) (t : Vector (Vector Half 128) 128) (i j : Nat) : Nat :=
  if wide then tileContainer t i (2 * j) + 2 ^ 32 * tileContainer t i (2 * j + 1) else tileContainer t i j

/-- A tile with the elements that `r` gives written. -/
def putTile (wide : Bool) (old : Vector (Vector Half 128) 128) (r : Nat → Nat → Option Nat) : Vector (Vector Half 128) 128 :=
  Vector.ofFn fun i => Vector.ofFn fun c =>
    match r i.val (if wide then c.val / 2 else c.val) with
    | some b => BitVec.ofNat 32 (if wide then b / 2 ^ (32 * (c.val % 2)) else b)
    | none => (old[i])[c]

/-- Writes a tile of the hart's slot. While matrix mode is closed both tiles hold zero, also where a held entry is released after an mexit
(R227, R240, R513). -/
def State.setM (s : State) (j : Job) (t : Tile) (v : Vector (Vector Half 128) 128) : State :=
  let x := s.slot j.slot
  if j.hart.csr.mm then
    s.putSlot { x with m := x.m.set t v, mValid := x.mValid ||| BitVec.twoPow 2 t.val, mDirty := x.mDirty ||| BitVec.twoPow 2 t.val }
  else s.putSlot { x with m := x.m.set t (Vector.replicate 128 (Vector.replicate 128 0)), mValid := x.mValid ||| BitVec.twoPow 2 t.val }

/-! ### Outer products (R235) -/

/-- Every element of the square of a tile, which an altered MVL does not carry beyond the tile (log 92), becomes `g i j acc`, with the flags ORed into vfcsr. -/
def accumulate (s : State) (j : Job) (md : Tile) (vs : List Reg) (g : Slot → Nat → Nat → Nat → Nat × Flags) : Issue :=
  let s := (s.pull j.slot j.hart vs []).pullM j.slot j.hart md
  let x := s.slot j.slot
  let wide := isWide j.entry.tileFmt
  let m := min j.entry.mvl.toNat (mvlMax j.entry.tileFmt)
  let r : Vector (Vector (Option (Nat × Flags)) 128) 128 := Vector.ofFn fun i => Vector.ofFn fun k =>
    if i.val < m && decide (k.val < m) then some (g x i.val k.val (tileElem wide x.m[md] i.val k.val)) else none
  let fl : Flags := r.toList.foldl (fun fl row => row.toList.foldl (fun (fl : Flags) y => match y with | some (_, z) => fl ||| z | none => fl) fl) 0
  .done ((s.setM j md (putTile wide x.m[md] fun i k => match r[i]? with
      | some row => ((row[k]?).getD none).map (·.1)
      | none => none)).orVflags j.hart.key fl) none

/-- The four products of mopa4 and mopas for element (i, k). -/
def fourProducts (f : Fmt) (a b : Vector Half 512) (i k : Nat) : List FVal :=
  (List.range 4).map fun q => (fpDecode f (elemBits f a (4 * i + q))).times (fpDecode f (elemBits f b (4 * k + q)))

/-- mopa (R235): one product. -/
def execMopa (o : TOuter) (s : State) : Host.Outcome State Fault Refusal := run (.mopa o) s fun s h => commitTensor (.mopa o) (pairsWith o.fmt) 0 0 0 s h

/-- The effect of mopa (R111). -/
def issueMopa (o : TOuter) (s : State) (j : Job) : Issue :=
  accumulate s j o.md [o.vs1, o.vs2] fun x i k acc =>
    let t := j.entry.tileFmt
    fpSum [fpDecode t acc, (fpDecode o.fmt (elemBits o.fmt x.v[o.vs1] i)).times (fpDecode o.fmt (elemBits o.fmt x.v[o.vs2] k))] t (j.hart.vrm o.rm) false

/-- mopa4 (R235): four products. -/
def execMopa4 (o : TOuter) (s : State) : Host.Outcome State Fault Refusal :=
  run (.mopa4 o) s fun s h => commitTensor (.mopa4 o) (pairsWith o.fmt) 0 0 0 s h

/-- The effect of mopa4 (R112). -/
def issueMopa4 (o : TOuter) (s : State) (j : Job) : Issue :=
  accumulate s j o.md [o.vs1, o.vs2] fun x i k acc =>
    if o.fmt.isInt then
      let z := (List.range 4).foldl (fun z q =>
        z + intVal o.fmt (elemBits o.fmt x.v[o.vs1] (4 * i + q)) * intVal o.fmt (elemBits o.fmt x.v[o.vs2] (4 * k + q))) (acc : Int)
      (intBits .i32 z, 0)
    else
      let t := j.entry.tileFmt
      fpSum (fpDecode t acc :: fourProducts o.fmt x.v[o.vs1] x.v[o.vs2] i k) t (j.hart.vrm o.rm) false

/-- mopas (R235): four products with block scales. -/
def execMopas (o : TScaled) (s : State) : Host.Outcome State Fault Refusal :=
  run (.mopas o) s fun s h => commitTensor (.mopas o) (pairsWith o.fmt) 0 0 0 s h

/-- The effect of mopas (R113): each exact product is scaled, and is a term of the sum, so that four products of −0 beside an accumulator of −0 give −0
(log 25); a scale of 0xFF gives the canonical NaN with NV. -/
def issueMopas (o : TScaled) (s : State) (j : Job) : Issue :=
  accumulate s j o.md [o.vs1, o.vs2, o.sa, o.sb] fun x i k acc =>
    let t := j.entry.tileFmt
    let sa := container x.v[o.sa] i % 256
    let sb := container x.v[o.sb] k % 256
    if sa = 255 ∨ sb = 255 then fpNan t true
    else
      let scale : FVal := .fin false 1 ((sa : Int) + sb - 254)
      fpSum (fpDecode t acc :: (fourProducts o.fmt x.v[o.vs1] x.v[o.vs2] i k).map fun p => p.times scale) t (j.hart.vrm o.rm) false

/-- mzero (R236). -/
def execMzero (md : Tile) (hint : Hint) (s : State) : Host.Outcome State Fault Refusal :=
  run (.mzero md hint) s fun s h => commitTensor (.mzero md hint) anyTfmt 0 0 0 s h

/-- The effect of mzero: all 128 rows. -/
def issueMzero (md : Tile) (s : State) (j : Job) : Issue := .done ((s.pullM j.slot j.hart md).setM j md zeroTile) none

/-! ### Tile memory (R237, R238) -/

/-- Bytes of a tile element in memory. -/
def Entry.tileSize (e : Entry) : Nat := if isWide e.tileFmt then 8 else 4

/-- Address of element (i, k): base, pitch and element size. -/
def Entry.tileAddr (e : Entry) (i k : Nat) : Word := e.opa + BitVec.ofNat 64 i * e.opb + BitVec.ofNat 64 (k * e.tileSize)

/-- The rows that remain, element by element: by row, then by column, which also orders the records of pages that one row touches first (log 24). -/
def Entry.tileAddrs (e : Entry) : List (Nat × Word) :=
  ((List.range e.mvl.toNat).filter fun i => decide (e.elem.toNat ≤ i)).flatMap fun i => (List.range e.mvl.toNat).map fun k => (i, e.tileAddr i k)

/-- Footprint of a tile load (R237). -/
def Entry.tileFootprint (e : Entry) : Nat := e.mvl.toNat * max (e.mvl.toNat * e.tileSize) e.opb.toInt.natAbs

/-- mld (R237). -/
def execMld (o : TMem) (s : State) : Host.Outcome State Fault Refusal :=
  run (.mld o) s fun s h => commitTensor (.mld o) anyTfmt (h.getX o.base) (h.getX o.pitch) 0 s h

/-- mld issues. -/
def issueMld (o : TMem) (s : State) (j : Job) : Issue :=
  if j.entry.issued then .stay s j.entry else runAhead (s.pullM j.slot j.hart o.md) j true j.entry.tileAddrs j.entry.tileSize .load

/-- A row of mld. -/
def replyMld (o : TMem) (s : State) (j : Job) (r : Reply) : Issue :=
  respond s j r 1 j.entry.mvl.toNat (.load j.entry.tileSize o.hint j.entry.tileFootprint) (fun i k => j.entry.tileAddr i k) fun s _ l =>
    let (s, got) := l.zipIdx.foldl (fun a y =>
      let (s, b) := a.1.readVector j y.1.2 (j.entry.tileAddr y.1.1 y.2) j.entry.tileSize o.hint j.entry.tileFootprint
      (s, a.2 ++ [b])) (s, [])
    let row := match l with | x :: _ => x.1 | [] => 0
    s.setM j o.md (putTile (isWide j.entry.tileFmt) (s.slot j.slot).m[o.md] fun i k => if i = row then got[k]? else none)

/-- mst (R237). -/
def execMst (o : TMem) (s : State) : Host.Outcome State Fault Refusal :=
  run (.mst o) s fun s h => commitTensor (.mst o) anyTfmt (h.getX o.base) (h.getX o.pitch) 0 s h

/-- mst issues. -/
def issueMst (o : TMem) (s : State) (j : Job) : Issue :=
  if j.entry.issued then .stay s j.entry else runAhead (s.pullM j.slot j.hart o.md) j true j.entry.tileAddrs j.entry.tileSize .store

/-- A row of mst. -/
def replyMst (o : TMem) (s : State) (j : Job) (r : Reply) : Issue :=
  respond s j r 1 j.entry.mvl.toNat (.store j.entry.tileSize o.hint true) (fun i k => j.entry.tileAddr i k) fun s bad l =>
    l.zipIdx.foldl (fun s y =>
      s.writeVector j bad y.1.2 (j.entry.tileAddr y.1.1 y.2) j.entry.tileSize o.hint (tileElem (isWide j.entry.tileFmt) (s.slot j.slot).m[o.md] y.1.1 y.2)) s

/-! ### Rows and columns (R239) -/

/-- Moves a line between a tile and a vector; `at_ i k` is the tile element for index `i` and place `k`. -/
def moveLine (o : TLine) (at_ : Nat → Nat → Nat × Nat) (s : State) (j : Job) : Issue :=
  let s := (s.pull j.slot j.hart [o.v] []).pullM j.slot j.hart o.tile
  let x := s.slot j.slot
  let wide := isWide j.entry.tileFmt
  let m := j.entry.mvl.toNat
  let i := j.entry.opa.toNat
  if o.toTile then
    .done (s.setM j o.tile (putTile wide x.m[o.tile] fun r c =>
      ((List.range m).find? fun k => i < m && at_ i k == (r, c)).map fun k => wholeElem wide x.v[o.v] k)) none
  else
    .done (s.setV j.slot o.v (putContainers wide x.v[o.v] fun k =>
      if k < m then some (if i < m then tileElem wide x.m[o.tile] (at_ i k).1 (at_ i k).2 else 0) else none)) none

/-- mrow (R239). -/
def execMrow (o : TLine) (s : State) : Host.Outcome State Fault Refusal := run (.mrow o) s fun s h => commitTensor (.mrow o) anyTfmt (h.getX o.xs) 0 0 s h

/-- The effect of mrow. -/
def issueMrow (o : TLine) (s : State) (j : Job) : Issue := moveLine o (fun i k => (i, k)) s j

/-- mcol (R239). -/
def execMcol (o : TLine) (s : State) : Host.Outcome State Fault Refusal := run (.mcol o) s fun s h => commitTensor (.mcol o) anyTfmt (h.getX o.xs) 0 0 s h

/-- The effect of mcol. -/
def issueMcol (o : TLine) (s : State) (j : Job) : Issue := moveLine o (fun i k => (k, i)) s j

end Sys2Proof.Machine
end

