-- ==== Sys2Proof/Machine/Path.lean ====
section
/-! DEFINITION. What the queued entries of a hart touch, and its store path: scalar stores that have retired and are not performed yet
(R150, R285, R286, R301). -/

namespace Sys2Proof.Machine

/-! ### What an entry touches (Table 11.4) -/

/-- Bytes that an entry is still to access: whether they are written, the first address, and their number. -/
abbrev Touch := Bool × Int × Nat

/-- Touches of `n` bytes at each of a list of addresses. -/
def touchesAt (write : Bool) (n : Nat) (l : List Word) : List Touch := l.map fun a => (write, (a.toNat : Int), n)

/-- The mask that an instruction writes, if it writes one. -/
def writtenMask : Instr → Option KReg
  | .vcmp o => some o.kd
  | .vfcmp o => some o.kd
  | .kand kd _ _ _ => some kd
  | .kor kd _ _ _ => some kd
  | .kxor kd _ _ _ => some kd
  | .knot kd _ _ => some kd
  | .kset kd _ _ => some kd
  | _ => none

/-- The instruction writes no vector register: a mask, a store, or an x register is its result. -/
def keepsVectors : Instr → Bool
  | .kpopc _ _ _ => true
  | .kfirst _ _ _ => true
  | .vmvx _ => true
  | .vst _ => true
  | .vsts _ => true
  | .vstx _ => true
  | i => (writtenMask i).isSome

/-- The tensor instruction writes the vector register: a row or a column that leaves its tile. The others of major 0x3C name a tile in its place. -/
def tileToVector (v : Reg) : Instr → Bool
  | .mrow o => !o.toTile && o.v == v
  | .mcol o => !o.toTile && o.v == v
  | _ => false

/-- The entry may still write the vector register: one of the majors 0x38 to 0x3B with it in its bits 25:21, or a tensor instruction that writes it. -/
def Entry.mayWrite (e : Entry) (v : Reg) : Bool :=
  if e.major = 0x3C then e.isInsn (tileToVector v)
  else decide (0x38 ≤ e.major) && decide (e.major ≤ 0x3B) && bitsOf e.insn.toNat 25 21 == v.val && !e.isInsn keepsVectors

/-- The entry may still write one of the registers that a younger one needs. -/
def Entry.unsettles (e : Entry) (vs : List Reg) (k : KReg) : Bool :=
  !e.marks && ((e.isInsn fun i => writtenMask i == some k) || vs.any e.mayWrite)

/-- The slot of a hart with registers that an entry needs, where no older entry can still write them. -/
def State.settledSlot (s : State) (h : Hart) (older : List Entry) (vs : List Reg) (k : KReg) : Option Slot :=
  if older.all fun e => !e.unsettles vs k then h.sched.slot.map fun i => (s.pull i h vs [k]).slot i else none

/-- The elements that an entry is still to access: the active ones, or all where its mask is not known yet (log 13). -/
def Entry.elems (e : Entry) (x : Option Slot) (k : KReg) (f : Fmt) : List Nat :=
  (List.range (e.count (isWide f))).filter fun el => decide (e.elem.toNat ≤ el) && (match x with | some y => y.on k el | none => true)

/-- A vector access with addresses that are known from the entry. -/
def Entry.vecTouches (e : Entry) (s : State) (h : Hart) (older : List Entry) (write : Bool) (k : KReg) (f : Fmt) (addr : Nat → Word) : List Touch :=
  touchesAt write (memSize f) ((e.elems (s.settledSlot h older [] k) k f).map addr)

/-- An indexed access: its addresses are known once no older entry can write the index vector. -/
def Entry.indexTouches (e : Entry) (s : State) (h : Hart) (older : List Entry) (write : Bool) (o : VMemIx) : Option (List Touch) :=
  (s.settledSlot h older [o.ix] o.k).map fun x =>
    touchesAt write (memSize o.fmt) ((e.elems (some x) o.k o.fmt).map (indexAddr e o.fmt o.off x.v[o.ix]))

/-- The ranges of a copy: its destination, then its source. -/
def CopyArgs.touches (a : CopyArgs) : List Touch :=
  match a.ranges with
  | d :: l => (true, d) :: l.map fun r => (false, r)
  | [] => []

/-- The entry may still take messages of a queue, or open or close it. -/
def Entry.consumes (e : Entry) (n : Fin 16) : Bool :=
  e.isInsn fun i =>
    match i with
    | .vredq _ => Fin.ofNat 16 e.opa.toNat == n
    | .rxpop _ _ q _ => q == n
    | .rxopen _ _ q _ => q == n
    | _ => false

/-- The payload that an rxpop writes at most: that of the message at the head where no older entry takes it, else the longest there is. -/
def popBytes (s : State) (h : Hart) (older : List Entry) (n : Fin 16) : Nat :=
  match h.eng.rx[n] with
  | none => 0
  | some q =>
    if older.all (fun e => !e.consumes n) && q.head < q.tail then
      (match translateAll s h.ctx .load (q.pieces q.head 4) with
       | .ok l => leNat (l.flatMap fun x => Mem.bytes s.mem x.1.pa x.2) % 2 ^ 17 - q.off
       | .error _ => 65536)
    else 65536

/-- Elements that the vld.sts of a list pop from a stream. -/
def popsBefore (st : Stream) (l : List Entry) : Nat :=
  (l.map fun e =>
    match e.instr? with
    | some (.vld_st p) => if p.st == st then e.count (isWide p.fmt) else 0
    | some _ => 0
    | none => 0).sum

/-- The bytes that an entry behind `older` is still to access; none where that is not known before older entries are done (log 13). -/
def Entry.touches (e : Entry) (older : List Entry) (s : State) (h : Hart) : Option (List Touch) :=
  match e.instr? with
  | none => some []
  | some i =>
    match i with
    | .vld o => some (e.vecTouches s h older false o.k o.fmt (unitAddr e o.fmt o.off))
    | .vst o => some (e.vecTouches s h older true o.k o.fmt (unitAddr e o.fmt o.off))
    | .vlds o => some (e.vecTouches s h older false o.k o.fmt (strideAddr e o.off))
    | .vsts o => some (e.vecTouches s h older true o.k o.fmt (strideAddr e o.off))
    | .vldx o => e.indexTouches s h older false o
    | .vstx o => e.indexTouches s h older true o
    | .mld _ => some (touchesAt false e.tileSize (e.tileAddrs.map (·.2)))
    | .mst _ => some (touchesAt true e.tileSize (e.tileAddrs.map (·.2)))
    | .vld_st o =>
      if older.any fun y => y.isInsn fun i => match i with | .sopen _ st _ => st == o.st | .sclose st _ => st == o.st | _ => false then none
      else
        match h.eng.streams[o.st] with
        | none => some []
        | some t =>
          let base := (e.firstPos t).getD (t.pos + popsBefore o.st older)
          some (touchesAt false t.elemSize (((List.range (e.count (isWide o.fmt))).filter fun el =>
            decide (e.elem.toNat ≤ el) && decide (base + el < t.length)).map fun el => t.addr (base + el)))
    | .cpy _ => some (CopyArgs.touches { dst := e.opa, src := e.opb, len := e.opc.toNat, box := none })
    | .cpyt o =>
      (match s.handle h e.opc with
       | .ok d => some (CopyArgs.touches { dst := e.opa, src := e.opb, len := d.bytes, box := some (d, o.boxDst) })
       | .error _ => some [])
    | .cpyr _ _ _ _ =>
      (match h.eng.replays.find? fun r => zext64 r.id == e.opa with
       | some r => some r.args.touches
       | none => some [])
    | .sopen _ _ _ => some (touchesAt false 64 [e.opa])
    | .rxopen _ _ _ _ => some (if e.opa = 0 then [] else touchesAt false 64 [e.opa])
    | .msgsend _ _ _ _ => some (touchesAt false 8 [e.opb])
    | .mbxpop _ _ _ => some (touchesAt true 16 [e.opa])
    | .rxpop _ _ q _ => some (touchesAt true (popBytes s h older q) [e.opa])
    | .coll o => some (touchesAt true (bitsW o.fmt / 8 * e.opc.toNat) [e.opa] ++ touchesAt false (bitsW o.fmt / 8 * e.opc.toNat) [e.opb])
    | .barArrive _ _ => some (touchesAt true 64 [e.opa] ++ touchesAt false 64 [e.opa])
    | _ => some []

/-- The entries of a queue, each with the older ones. -/
def withOlder : List Entry → List Entry → List (Entry × List Entry)
  | _, [] => []
  | older, e :: l => (e, older) :: withOlder (older ++ [e]) l

/-- The slots in which the accesses of an entry are counted (R301): by its bytes, and for cpyt by its handle. -/
def Entry.slots (e : Entry) (older : List Entry) (s : State) (h : Hart) : BitVec 8 :=
  let named := match e.instr? with | some (.cpyt _) => h.handleSlots (e.opc.setWidth 16) | some _ => 0 | none => 0
  match e.touches older s h with
  | none => BitVec.allOnes 8
  | some l => l.foldl (fun m t => m ||| h.rangeSlots t.2) named

/-- An access counted in a masked slot is not performed: it stands in the store path or in the queue, or belongs to a copy or a collective
(R303); `reads` asks for reads only. -/
def State.slotsPending (s : State) (h : Hart) (mask : BitVec 8) (reads : Bool) : Bool :=
  (!reads && h.path.any fun p => p.slots &&& mask != 0) ||
  ((withOlder [] h.queue).any fun x => x.1.slots x.2 s h &&& mask != 0 && !(reads && x.1.isInsn isMarker)) ||
  (s.copies.any fun c => c.hart == h.key && c.slots &&& mask != 0) ||
  s.collBusy h.key reads fun m => m.slots &&& mask != 0

/-! ### The store path (R150, R286) -/

/-- A queued entry, or a collective, may still read bytes that a younger store writes: the store waits, because no read returns a write
of its own hart that follows it (R286). -/
def State.storeWaits (s : State) (h : Hart) (va : Word) (n : Nat) : Bool :=
  (withOlder [] h.queue).any (fun x =>
    match x.1.touches x.2 s h with
    | none => true
    | some l => l.any fun t => !t.1 && rangesMeet va.toNat n t.2.1 t.2.2) ||
  s.colls.any fun c => !c.started && c.members.any fun m => m.hart == some h.key && rangesMeet va.toNat n m.src.toNat m.bytes

/-- The store at a place of a hart's path is performed, unless it still stays, an older one to a byte of it is not performed (R285), or
the host has not given its sector yet. One that the host refuses is lost (R154). -/
def State.performStore (s : State) (k : HartKey) (x : PathStore) : State :=
  match s.hart? k with
  | none => s
  | some h =>
    if x.stay ≠ 0 || !h.path.contains x || (h.path.takeWhile (· != x)).any fun y => rangesMeet x.pa x.bytes.length y.pa y.bytes.length then s
    else
      let v : Via := { core := x.core, home := x.home, part := k.part, vault := x.vault }
      let gone := fun s : State => s.modHart k fun h => { h with path := h.path.erase x }
      match s.wantWrite v x.pa x.bytes.length (some true) with
      | .waits s => s
      | .failed s => (gone s).refused k x.vault x.pa
      | .granted s => (gone s).writeOne k v x.slots x.pa x.bytes (some true) true false

/-- Every store of the part that can be performed now is, those of one hart in their order; stalled instructions look again. -/
def State.drainPaths (s : State) : State :=
  let l := s.harts.flatMap fun h => h.path.map fun x => (h.key, { x with stay := x.stay - 1 })
  if l.isEmpty then s
  else
    let s := { s with harts := s.harts.map fun (h : Hart) => { h with path := h.path.map fun (x : PathStore) => { x with stay := x.stay - 1 } } }
    (l.foldl (fun s x => s.performStore x.1 x.2) s).unstall

/-- A scalar write of `n` bytes (R147, R150): its checks, then it retires into the store path, where it is performed at once or stays for
as long as `delays` says (log 20). -/
def storeScalar (s : State) (h : Hart) (va : Word) (n v : Nat) : Effect :=
  if va.toNat % n ≠ 0 then .trap s (.scalar 0x04 0 va)
  else
    match s.access h.ctx va .store with
    | .error d => .trap s (.denied d .store va)
    | .ok x =>
      if s.scalarLocked h va n || s.storeWaits h va n then .stall s
      else
        let d := s.delays.headD (0, false)
        let p : PathStore :=
          { va := va, pa := x.pa, core := h.core, home := h.sched.home, vault := x.vault, bytes := leBytes n v, slots := h.slotMask va n,
            stay := d.1, seen := d.2 }
        .ok ((({ s.fillTlb x with delays := s.delays.drop 1 }).modHart h.key fun g => { g with path := g.path ++ [p] }).performStore h.key p)

end Sys2Proof.Machine
end

