-- ==== Sys2Proof/Machine/Atomics.lean ====
section
/-! DEFINITION. Atomics, load-reserve and store-conditional (R156 to R166). -/

namespace Sys2Proof.Machine

/-- A value of `n` bytes, sign-extended for 4 and whole for 8 (R157). -/
def sextBytes (n v : Nat) : Word := if n = 4 then (BitVec.ofNat 32 v).signExtend 64 else BitVec.ofNat 64 v

/-- The order carries a release half. -/
def orderReleases : Order → Bool
  | .release => true
  | .acqRel => true
  | .relaxed => false
  | .acquire => false

/-- The trap of an atomic to host memory (R165, R166). -/
def atomicTrap (i : Instr) (cause : BitVec 8) (reason : Nat) (va : Word) : Trap := .scalar cause (errorInfo i reason) va

/-- A PCIe AtomicOp: its kind and its operands (Table 6.6); a swap and a fetch-and-add have one. -/
abbrev AtomicOp := AtomicKind × Nat × Nat

/-- What the host stores for an AtomicOp of `n` bytes. -/
def atomicResult (kind : AtomicKind) (n a b old : Nat) : Nat :=
  match kind with
  | .fetchAdd => (old + a) % 256 ^ n
  | .swap => a
  | .cas => if old = a then b else old

/-- An atomic to host memory in PCIe mode is refused here, before anything is sent (R165). -/
def localRefusal (i : Instr) (s : State) (x : Xlat) (va : Word) (op : Option AtomicOp) : Option Trap :=
  match placeOf x.pa with
  | .host port =>
    if s.ports[port].cxl then none
    else if op.isNone then some (atomicTrap i 0x10 0x20 va)
    else if !s.ports[port].atomicEnable then some (atomicTrap i 0x10 0x21 va)
    else none
  | .hbm _ => none
  | .store _ _ => none
  | .homeStore _ => none
  | .homeWindow _ => none
  | .hole => none

/-- The words of an instruction at the hart's pc are not fetched again: its AtomicOp is out, and nothing may come between (R164). -/
def Hart.keepWords (h : Hart) (i : Instr) : Hart :=
  { h with checked := (encode i).zipIdx.map fun x => (h.pc + BitVec.ofNat 64 (4 * x.2), x.1) }

/-- The atomic goes to a PCIe port as an AtomicOp (R164, R165); to a port that has fallen silent it waits (R382). -/
def rmwPcie (i : Instr) (s : State) (h : Hart) (x : Xlat) (va : Word) (n : Nat) (port : Fin 2) (op : AtomicOp) : Got :=
  match s.deadAt x.pa with
  | some (_, inc) => .trap (.scalar 0x17 (zext64 inc) va)
  | none =>
    let send := Got.stall (if s.silentAt x.pa then s
      else (s.sendReq h.key (.atomicOp x.pa port n op.1 op.2.1 op.2.2) (.pcieAtomic port.val x.pa n op.1 op.2.1 op.2.2)).modHart h.key fun g => g.keepWords i)
    match h.req with
    | .flush _ => .stall s
    | .none => send
    | .atomicOp _ _ _ _ _ _ => send
    | .atomicDone _ _ => send
    | .timedOut _ _ => send
    | .read _ _ => send
    | .readDone _ _ => send
    | .cxl _ _ => send
    | .cxlError _ => send

/-- An atomic whose AtomicOp has been sent waits for its completion, and takes it (R164, R165): no check is made again, since host memory may have
changed. Where the port dies before the completion it traps REMOTE_DEAD (R154). None where nothing has been sent. -/
def takeAtomic (i : Instr) (s : State) (h : Hart) (va : Word) (n : Nat) : Option Got :=
  match h.req with
  | .atomicOp pa _ _ _ _ _ => some (match s.deadAt pa with | some (_, inc) => .trap (.scalar 0x17 (zext64 inc) va) | none => .stall s)
  | .atomicDone pa r =>
    some (match r with
      | .ok w => .value (s.endReq h.key) (w.toNat % 256 ^ n) pa
      | .unsupported => .trap (atomicTrap i 0x10 0x01 va)
      | .abort => .trap (atomicTrap i 0x11 0x04 va)
      | .poisoned => .trap (atomicTrap i 0x11 0x08 va))
  | .timedOut _ atomic => if atomic then some (.trap (atomicTrap i 0x11 0x10 va)) else none
  | .none => none
  | .read _ _ => none
  | .readDone _ _ => none
  | .flush _ => none
  | .cxl _ _ => none
  | .cxlError _ => none

/-- The indivisible step inside the device (R156, R163): it reads the newest bytes, and writes what `f` makes of them, if anything; where it writes
nothing, no L1D takes a copy (Table 6.1). -/
def rmwInside (i : Instr) (s : State) (h : Hart) (x : Xlat) (va : Word) (n : Nat) (f : Nat → Option Nat) : Got :=
  let v := h.via x
  match bring i s h v va x.pa n true (s.atomicAlloc v) with
  | .trap t => .trap t
  | .stall s => .stall s
  | .value s _ _ =>
    let s := s.renew v x.pa
    let old := leNat (s.view v x.pa n)
    match f old with
    | some w => .value (s.writeOne h.key v (h.slotMask va n) x.pa (leBytes n w) (some true) true false) old x.pa
    | none => .value ((s.readTouch v x.pa (s.atomicAlloc v) false).noteRead h.key (h.slotMask va n) x.pa) old x.pa

/-- What the indivisible step of an atomic meets: the old value and the state after it, a trap, or a wait. `op` is the PCIe AtomicOp that
expresses the instruction, if one does; `f` gives the value written, if one is. -/
def rmw (i : Instr) (s : State) (h : Hart) (x : Xlat) (va : Word) (n : Nat) (op : Option AtomicOp) (f : Nat → Option Nat) : Got :=
  match placeOf x.pa, op with
  | .host port, some o => if s.ports[port].cxl then rmwInside i s h x va n f else rmwPcie i s h x va n port o
  | .host _, none => rmwInside i s h x va n f
  | .hbm _, _ => rmwInside i s h x va n f
  | .store _ _, _ => rmwInside i s h x va n f
  | .homeStore _, _ => rmwInside i s h x va n f
  | .homeWindow _, _ => rmwInside i s h x va n f
  | .hole, _ => rmwInside i s h x va n f

/-- An access of the scalar stream that reads and writes waits for a copy (R288), for a store of its own in the path (R285), and, as it
writes, for older reads of the vector stream (R286). -/
def State.rmwWaits (s : State) (h : Hart) (va : Word) (pa n : Nat) : Bool :=
  s.scalarLocked h va n || h.pathHolds pa n || s.storeWaits h va n

/-- What the release half of an atomic leaves once it is done. -/
def State.covered (s : State) (o : Order) (h : Hart) (sc : Scope) : State := if orderReleases o then s.cover h sc fun _ => true else s

/-- Checks of an atomic, its release half, and its indivisible step, once nothing of it has been sent yet (R147, R157, R165). -/
def atomic (i : Instr) (s : State) (h : Hart) (va : Word) (n : Nat) (o : Order) (sc : Scope) (op : Option AtomicOp)
    (f : Nat → Option Nat) : Got :=
  match takeAtomic i s h va n with
  | some g => g
  | none =>
    if va.toNat % n ≠ 0 then .trap (.scalar 0x04 0 va)
    else
      match s.access h.ctx va .atomic with
      | .error d => .trap (.denied d .atomic va)
      | .ok x =>
        match localRefusal i s x va op with
        | some t => .trap t
        | none =>
          if s.rmwWaits h va x.pa n then .stall s
          else
            match (if orderReleases o then ordRelease s h sc else none) with
            | some w => .stall w
            | none => rmw i ((s.covered o h sc).fillTlb x) h x va n op f

/-- Body of an atomic that writes what `f` makes of memory. -/
def amoBody (i : Instr) (d a : Reg) (n : Nat) (o : Order) (sc : Scope) (op : Hart → Option AtomicOp) (f : Hart → Nat → Option Nat) (s : State)
    (h : Hart) : Effect :=
  match atomic i s h (h.getX a) n o sc (op h) (f h) with
  | .value s old _ => .ok (s.modHart h.key fun g => g.setX d (sextBytes n old))
  | .trap t => .trap s t
  | .stall s => .stall s

/-- No PCIe AtomicOp expresses the instruction (Table 6.6). -/
def noAtomicOp (_ : Hart) : Option AtomicOp := none

/-- The low `n` bytes of a register. -/
def lowBytes (n : Nat) (w : Word) : Nat := w.toNat % 256 ^ n

/-- The AtomicOp of one operand, that of a register. -/
def oneOperand (kind : AtomicKind) (n : Nat) (b : Reg) (h : Hart) : Option AtomicOp := some (kind, lowBytes n (h.getX b), 0)

/-- CAS: compare c and swap v (Table 6.6). -/
def casOperands (n : Nat) (d b : Reg) (h : Hart) : Option AtomicOp := some (.cas, lowBytes n (h.getX d), lowBytes n (h.getX b))

/-- A value of `n` bytes as a signed number. -/
def signedBytes (n v : Nat) : Int := if v < 256 ^ n / 2 then v else (v : Int) - 256 ^ n

/-- amoadd.w (R157). -/
def execAmoaddW (d a b : Reg) (o : Order) (sc : Scope) (s : State) : Host.Outcome State Fault Refusal :=
  run (.amoadd_w d a b o sc) s (amoBody (.amoadd_w d a b o sc) d a 4 o sc (oneOperand .fetchAdd 4 b) fun h m => let v := lowBytes 4 (h.getX b); some ((m + v) % 256 ^ 4))

/-- amoand.w (R157). -/
def execAmoandW (d a b : Reg) (o : Order) (sc : Scope) (s : State) : Host.Outcome State Fault Refusal :=
  run (.amoand_w d a b o sc) s (amoBody (.amoand_w d a b o sc) d a 4 o sc noAtomicOp fun h m => let v := lowBytes 4 (h.getX b); some (m &&& v))

/-- amoor.w (R157). -/
def execAmoorW (d a b : Reg) (o : Order) (sc : Scope) (s : State) : Host.Outcome State Fault Refusal :=
  run (.amoor_w d a b o sc) s (amoBody (.amoor_w d a b o sc) d a 4 o sc noAtomicOp fun h m => let v := lowBytes 4 (h.getX b); some (m ||| v))

/-- amoxor.w (R157). -/
def execAmoxorW (d a b : Reg) (o : Order) (sc : Scope) (s : State) : Host.Outcome State Fault Refusal :=
  run (.amoxor_w d a b o sc) s (amoBody (.amoxor_w d a b o sc) d a 4 o sc noAtomicOp fun h m => let v := lowBytes 4 (h.getX b); some (m ^^^ v))

/-- amomin.w (R157). -/
def execAmominW (d a b : Reg) (o : Order) (sc : Scope) (s : State) : Host.Outcome State Fault Refusal :=
  run (.amomin_w d a b o sc) s (amoBody (.amomin_w d a b o sc) d a 4 o sc noAtomicOp fun h m => let v := lowBytes 4 (h.getX b); some (if signedBytes 4 v < signedBytes 4 m then v else m))

/-- amomax.w (R157). -/
def execAmomaxW (d a b : Reg) (o : Order) (sc : Scope) (s : State) : Host.Outcome State Fault Refusal :=
  run (.amomax_w d a b o sc) s (amoBody (.amomax_w d a b o sc) d a 4 o sc noAtomicOp fun h m => let v := lowBytes 4 (h.getX b); some (if signedBytes 4 m < signedBytes 4 v then v else m))

/-- amominn.w (R157). -/
def execAmominnW (d a b : Reg) (o : Order) (sc : Scope) (s : State) : Host.Outcome State Fault Refusal :=
  run (.amominn_w d a b o sc) s (amoBody (.amominn_w d a b o sc) d a 4 o sc noAtomicOp fun h m => let v := lowBytes 4 (h.getX b); some (min m v))

/-- amomaxn.w (R157). -/
def execAmomaxnW (d a b : Reg) (o : Order) (sc : Scope) (s : State) : Host.Outcome State Fault Refusal :=
  run (.amomaxn_w d a b o sc) s (amoBody (.amomaxn_w d a b o sc) d a 4 o sc noAtomicOp fun h m => let v := lowBytes 4 (h.getX b); some (max m v))

/-- amoswp.w (R157). -/
def execAmoswpW (d a b : Reg) (o : Order) (sc : Scope) (s : State) : Host.Outcome State Fault Refusal :=
  run (.amoswp_w d a b o sc) s (amoBody (.amoswp_w d a b o sc) d a 4 o sc (oneOperand .swap 4 b) fun h _ => let v := lowBytes 4 (h.getX b); some (v))

/-- amoadd.d (R157). -/
def execAmoaddD (d a b : Reg) (o : Order) (sc : Scope) (s : State) : Host.Outcome State Fault Refusal :=
  run (.amoadd_d d a b o sc) s (amoBody (.amoadd_d d a b o sc) d a 8 o sc (oneOperand .fetchAdd 8 b) fun h m => let v := lowBytes 8 (h.getX b); some ((m + v) % 256 ^ 8))

/-- amoand.d (R157). -/
def execAmoandD (d a b : Reg) (o : Order) (sc : Scope) (s : State) : Host.Outcome State Fault Refusal :=
  run (.amoand_d d a b o sc) s (amoBody (.amoand_d d a b o sc) d a 8 o sc noAtomicOp fun h m => let v := lowBytes 8 (h.getX b); some (m &&& v))

/-- amoor.d (R157). -/
def execAmoorD (d a b : Reg) (o : Order) (sc : Scope) (s : State) : Host.Outcome State Fault Refusal :=
  run (.amoor_d d a b o sc) s (amoBody (.amoor_d d a b o sc) d a 8 o sc noAtomicOp fun h m => let v := lowBytes 8 (h.getX b); some (m ||| v))

/-- amoxor.d (R157). -/
def execAmoxorD (d a b : Reg) (o : Order) (sc : Scope) (s : State) : Host.Outcome State Fault Refusal :=
  run (.amoxor_d d a b o sc) s (amoBody (.amoxor_d d a b o sc) d a 8 o sc noAtomicOp fun h m => let v := lowBytes 8 (h.getX b); some (m ^^^ v))

/-- amomin.d (R157). -/
def execAmominD (d a b : Reg) (o : Order) (sc : Scope) (s : State) : Host.Outcome State Fault Refusal :=
  run (.amomin_d d a b o sc) s (amoBody (.amomin_d d a b o sc) d a 8 o sc noAtomicOp fun h m => let v := lowBytes 8 (h.getX b); some (if signedBytes 8 v < signedBytes 8 m then v else m))

/-- amomax.d (R157). -/
def execAmomaxD (d a b : Reg) (o : Order) (sc : Scope) (s : State) : Host.Outcome State Fault Refusal :=
  run (.amomax_d d a b o sc) s (amoBody (.amomax_d d a b o sc) d a 8 o sc noAtomicOp fun h m => let v := lowBytes 8 (h.getX b); some (if signedBytes 8 m < signedBytes 8 v then v else m))

/-- amominn.d (R157). -/
def execAmominnD (d a b : Reg) (o : Order) (sc : Scope) (s : State) : Host.Outcome State Fault Refusal :=
  run (.amominn_d d a b o sc) s (amoBody (.amominn_d d a b o sc) d a 8 o sc noAtomicOp fun h m => let v := lowBytes 8 (h.getX b); some (min m v))

/-- amomaxn.d (R157). -/
def execAmomaxnD (d a b : Reg) (o : Order) (sc : Scope) (s : State) : Host.Outcome State Fault Refusal :=
  run (.amomaxn_d d a b o sc) s (amoBody (.amomaxn_d d a b o sc) d a 8 o sc noAtomicOp fun h m => let v := lowBytes 8 (h.getX b); some (max m v))

/-- amoswp.d (R157). -/
def execAmoswpD (d a b : Reg) (o : Order) (sc : Scope) (s : State) : Host.Outcome State Fault Refusal :=
  run (.amoswp_d d a b o sc) s (amoBody (.amoswp_d d a b o sc) d a 8 o sc (oneOperand .swap 8 b) fun h _ => let v := lowBytes 8 (h.getX b); some (v))

/-- amocas.w (R158): x[d] holds the compared value. -/
def execAmocasW (d a b : Reg) (o : Order) (sc : Scope) (s : State) : Host.Outcome State Fault Refusal :=
  run (.amocas_w d a b o sc) s (amoBody (.amocas_w d a b o sc) d a 4 o sc (casOperands 4 d b) fun h m =>
    if m = lowBytes 4 (h.getX d) then some (lowBytes 4 (h.getX b)) else none)

/-- amocas.d (R158): x[d] holds the compared value. -/
def execAmocasD (d a b : Reg) (o : Order) (sc : Scope) (s : State) : Host.Outcome State Fault Refusal :=
  run (.amocas_d d a b o sc) s (amoBody (.amocas_d d a b o sc) d a 8 o sc (casOperands 8 d b) fun h m =>
    if m = lowBytes 8 (h.getX d) then some (lowBytes 8 (h.getX b)) else none)

/-- ldres (R159): a load of the newest bytes that reserves its sector; in CXL mode it takes host lines in E or M (R163). -/
def ldresBody (i : Instr) (d a : Reg) (n : Nat) (s : State) (h : Hart) : Effect :=
  let va := h.getX a
  if va.toNat % n ≠ 0 then .trap s (.scalar 0x04 0 va)
  else
    match s.access h.ctx va .load with
    | .error dn => .trap s (.denied dn .load va)
    | .ok x =>
      if s.onPcie x.pa then .trap s (atomicTrap i 0x10 0x20 va)
      else if s.scalarLocked h va n || h.pathHolds x.pa n then .stall s
      else
        let v := h.via x
        match bring i (s.fillTlb x) h v va x.pa n true (s.scalarAlloc v) with
        | .trap t => .trap s t
        | .stall s => .stall s
        | .value s _ _ =>
          let s := s.renew v x.pa
          let w := leNat (s.view v x.pa n)
          .ok (((s.readTouch v x.pa (s.scalarAlloc v) true).noteRead h.key (h.slotMask va n) x.pa).modHart h.key fun g =>
            { g.setX d (sextBytes n w) with resv := some (sectorOf x.pa), resvSeq := some 0, resvLost := false })

/-- The hart's reservation on a sector stands: outside a constrained sequence the loss of the sector from the L1D has ended it (R161, R162). -/
def Hart.reserves (h : Hart) (sec : Nat) : Bool := h.resv == some sec && (!h.resvLost || h.resvSeq.isSome)

/-- stcond (R160): writes only under a reservation on the sector, and holds none afterwards. -/
def stcondBody (i : Instr) (d a b : Reg) (n : Nat) (o : Order) (sc : Scope) (s : State) (h : Hart) : Effect :=
  let va := h.getX a
  if va.toNat % n ≠ 0 then .trap s (.scalar 0x04 0 va)
  else
    match s.access h.ctx va .store with
    | .error dn => .trap s (.denied dn .store va)
    | .ok x =>
      if s.onPcie x.pa then .trap s (atomicTrap i 0x10 0x20 va)
      else if s.rmwWaits h va x.pa n then .stall s
      else
        match (if orderReleases o then ordRelease s h sc else none) with
        | some w => .stall w
        | none =>
          let s := s.covered o h sc
          if h.reserves (sectorOf x.pa) then
            let v := h.via x
            match bring i (s.fillTlb x) h v va x.pa n true (s.atomicAlloc v) with
            | .trap t => .trap s t
            | .stall s => .stall s
            | .value s _ _ =>
              .ok (((s.renew v x.pa).writeOne h.key v (h.slotMask va n) x.pa (leBytes n (h.getX b).toNat) (some true) true false).modHart h.key fun g =>
                { g.setX d 0 with resv := none })
          else .ok ((s.fillTlb x).modHart h.key fun g => { g.setX d 1 with resv := none })

/-- ldres.w (R159). -/
def execLdresW (d a : Reg) (o : Order) (sc : Scope) (s : State) : Host.Outcome State Fault Refusal :=
  run (.ldres_w d a o sc) s (ldresBody (.ldres_w d a o sc) d a 4)

/-- stcond.w (R160). -/
def execStcondW (d a b : Reg) (o : Order) (sc : Scope) (s : State) : Host.Outcome State Fault Refusal :=
  run (.stcond_w d a b o sc) s (stcondBody (.stcond_w d a b o sc) d a b 4 o sc)

/-- ldres.d (R159). -/
def execLdresD (d a : Reg) (o : Order) (sc : Scope) (s : State) : Host.Outcome State Fault Refusal :=
  run (.ldres_d d a o sc) s (ldresBody (.ldres_d d a o sc) d a 8)

/-- stcond.d (R160). -/
def execStcondD (d a b : Reg) (o : Order) (sc : Scope) (s : State) : Host.Outcome State Fault Refusal :=
  run (.stcond_d d a b o sc) s (stcondBody (.stcond_d d a b o sc) d a b 8 o sc)

end Sys2Proof.Machine
end

