-- ==== Sys2Proof/Machine/Control.lean ====
section
/-! DEFINITION. Branches, jumps, calls, returns and land (R127 to R132, R450). -/

namespace Sys2Proof.Machine

/-- beq (R128): branches where the registers compare equal. -/
def execBeq (a b : Reg) (off : BitVec 16) (s : State) : Host.Outcome State Fault Refusal :=
  run (.beq a b off) s (branch off fun h => h.getX a == h.getX b)

/-- bne (R128): branches where the registers compare not equal. -/
def execBne (a b : Reg) (off : BitVec 16) (s : State) : Host.Outcome State Fault Refusal :=
  run (.bne a b off) s (branch off fun h => h.getX a != h.getX b)

/-- blt (R128): branches where the registers compare less, signed. -/
def execBlt (a b : Reg) (off : BitVec 16) (s : State) : Host.Outcome State Fault Refusal :=
  run (.blt a b off) s (branch off fun h => (h.getX a).slt (h.getX b))

/-- bge (R128): branches where the registers compare not less, signed. -/
def execBge (a b : Reg) (off : BitVec 16) (s : State) : Host.Outcome State Fault Refusal :=
  run (.bge a b off) s (branch off fun h => !(h.getX a).slt (h.getX b))

/-- bltn (R128): branches where the registers compare less, unsigned. -/
def execBltn (a b : Reg) (off : BitVec 16) (s : State) : Host.Outcome State Fault Refusal :=
  run (.bltn a b off) s (branch off fun h => (h.getX a).ult (h.getX b))

/-- bgen (R128): branches where the registers compare not less, unsigned. -/
def execBgen (a b : Reg) (off : BitVec 16) (s : State) : Host.Outcome State Fault Refusal :=
  run (.bgen a b off) s (branch off fun h => !(h.getX a).ult (h.getX b))

/-- j (R129). -/
def execJ (off : BitVec 26) (s : State) : Host.Outcome State Fault Refusal :=
  run (.j off) s fun s h => .jump s (h.pc + sext64 off * 4)

/-- call (R129): x1 takes the address of the next instruction. -/
def execCall (off : BitVec 26) (s : State) : Host.Outcome State Fault Refusal :=
  run (.call off) s fun s h => .jump (s.modHart h.key fun g => g.setX 1 (h.pc + 4)) (h.pc + sext64 off * 4)

/-- The word of land (R132). -/
def landWord : Half := 0x34000003

/-- What the checks of an indirect jump come to. -/
inductive Landing where
  | pass (s : State)
  | trap (s : State) (t : Trap)
  | wait (s : State)

/-- The checks of an indirect jump to `t` (R130, R131, R134): alignment, then at T with landing checks on, the word at the
target, which is the next one that the hart executes. -/
def jumpChecks (t : Word) (s : State) (h : Hart) : Landing :=
  if t &&& 3 ≠ 0 then .trap s (.scalar 0x04 0 t)
  else if h.csr.cfien && h.level == .t then
    match s.fetchGet h t with
    | .trap s tr => .trap s { tr with addr := t }
    | .wait s => .wait s
    | .word s w =>
      if w ≠ landWord then .trap s (.scalar 0x0B (zext64 w) t)
      else .pass (s.modHart h.key fun g => { g with checked := (t, w) :: g.checked })
  else .pass s

/-- jx (R130). -/
def execJx (a : Reg) (s : State) : Host.Outcome State Fault Refusal :=
  run (.jx a) s fun s h =>
    match jumpChecks (h.getX a) s h with
    | .trap s t => .trap s t
    | .wait s => .stall s
    | .pass s => .jump s (h.getX a)

/-- callx (R130): the target is read before the link register is written. -/
def execCallx (d a : Reg) (s : State) : Host.Outcome State Fault Refusal :=
  run (.callx d a) s fun s h =>
    match jumpChecks (h.getX a) s h with
    | .trap s t => .trap s t
    | .wait s => .stall s
    | .pass s => .jump (s.modHart h.key fun g => g.setX d (h.pc + 4)) (h.getX a)

/-- The held entries of a delegated trap go back into the queue in their order, at its positions (R450). -/
def Hart.release (h : Hart) (held : List Entry) : Hart :=
  { h with
    queue := h.queue ++ held.zipIdx.map fun (x : Entry × Nat) => { x.1 with place := h.queue.length + x.2 }
    held := .none
    imgHeld := 0 }

/-- ret (R130, R450): the first one after a delegated trap of a queued instruction waits for the handler's entries, moves the
hart to the class that held the others, and releases them. With migctl.PIN 1 the move traps CLASS_ABSENT, as at eret (log 97). -/
def execRet (a : Reg) (s : State) : Host.Outcome State Fault Refusal :=
  run (.ret a) s fun s h =>
    if h.getX a &&& 3 ≠ 0 then .trap s (.scalar 0x04 0 (h.getX a))
    else if h.held == .none || h.level != .t then .jump s (h.getX a)
    else if !h.queue.isEmpty then .stall s
    else if h.cls.code ≠ h.heldCls.toNat && !(s.heldEntries h).isEmpty then
      if h.csr.pin then .trap s (.scalar 0x02 0 0)
      else .gone (s.missMove h.key (fun c => (clsOf c).code == h.heldCls.toNat) none .image)
    else
      let s' := match h.held, h.area with | .area, some p => s.clearImage p | .area, none => s | .queue _, _ => s | .none, _ => s
      .jump (s'.modHart h.key fun g => g.release (s.heldEntries h)) (h.getX a)

/-- land (R132). -/
def execLand (s : State) : Host.Outcome State Fault Refusal := run .land s fun s _ => .ok s

end Sys2Proof.Machine
end

