-- ==== Sys2Proof/Machine/Sync.lean ====
section
/-! DEFINITION. Fences, range slots and barriers (R298 to R309). What waits here waits without effect. -/

namespace Sys2Proof.Machine

/-! ### Fences -/

/-- fence (R298). -/
def execFence (o : Order) (sc : Scope) (s : State) : Host.Outcome State Fault Refusal :=
  run (.fence o sc) s fun s h =>
    match o with
    | .relaxed => .trap s (.illegal (.fence o sc))
    | .acquire => if s.readsPending h then .stall s else .ok s
    | .release => match ordRelease s h sc with | some w => .stall w | none => .ok (s.cover h sc fun _ => true)
    | .acqRel => match ordRelease s h sc with | some w => .stall w | none => .ok (s.cover h sc fun _ => true)

/-- xfence (R299): the hart's own accesses are performed; accepted copies are not waited for, and arithmetic is not ordered (R182). -/
def execXfence (s : State) : Host.Outcome State Fault Refusal :=
  run .xfence s fun s h =>
    if s.streamsPending h then .stall s else .ok s

/-- The slots of a mask that contribute: an empty slot does not (R303). -/
def Hart.fullSlots (h : Hart) (mask : BitVec 8) : BitVec 8 :=
  (List.finRange 8).foldl (fun m i =>
    if (h.slots[i]).len = 0 && (h.slots[i]).handle.isNone then m &&& ~~~ BitVec.twoPow 8 i.val else m) mask

/-- rfence (R303): only what the masked slots count. -/
def execRfence (o : Order) (sc : Scope) (mask : BitVec 8) (s : State) : Host.Outcome State Fault Refusal :=
  run (.rfence o sc mask) s fun s h =>
    let m := h.fullSlots mask
    let sel := fun a : Outstanding => a.slots &&& m != 0
    let rel := match release s h sc sel with | some w => Effect.stall w | none => .ok (s.cover h sc sel)
    match o with
    | .relaxed => .trap s (.illegal (.rfence o sc mask))
    | .acquire => if s.slotsPending h m true then .stall s else .ok s
    | .release => if s.slotsPending h m false then .stall s else rel
    | .acqRel => if s.slotsPending h m false then .stall s else rel

/-! ### Range slots -/

/-- Nothing is counted in slot `n` any more: what only it counted is untagged (R302). -/
def State.clearSlot (s : State) (k : HartKey) (n : Fin 8) : State :=
  let off := fun m : BitVec 8 => m &&& ~~~ BitVec.twoPow 8 n.val
  let s :=
    { s with
      copies := s.copies.map fun (c : Copy) => if c.hart == k then { c with slots := off c.slots } else c
      colls := s.colls.map fun (c : CollOpState) =>
        { c with members := c.members.map fun (m : CollMember) => if m.hart == some k then { m with slots := off m.slots } else m } }
  s.modHart k fun h =>
    { h with
      outst := h.outst.map fun o => { o with slots := off o.slots }
      path := h.path.map fun x => { x with slots := off x.slots } }

/-- Sets a range slot. -/
def State.setSlot (s : State) (k : HartKey) (n : Fin 8) (r : RangeSlot) : State :=
  (s.clearSlot k n).modHart k fun h => { h with slots := h.slots.set n r }

/-- RANGE_SLOT (R300). -/
def slotTrap (reason : Nat) (n : Fin 8) (a : Word) : Trap := .scalar 0x15 (BitVec.ofNat 64 (reason + 256 * n.val)) a

/-- Older entries that access memory have left the queue (R300). -/
def Hart.memoryDone (h : Hart) : Bool := !(h.queue.any fun e => e.isInsn accessesMemory)

/-- rslot (R300). -/
def execRslot (n : Fin 8) (a b : Reg) (s : State) : Host.Outcome State Fault Refusal :=
  run (.rslot n a b) s fun s h =>
    let base := h.getX a
    let len := (h.getX b).toNat
    if !h.memoryDone then .stall s
    else if len = 0 then .ok (s.setSlot h.key n RangeSlot.empty)
    else if 2 ^ 48 < len then .trap s (slotTrap 0 n base)
    else if 2 ^ 64 < base.toNat + len then .trap s (slotTrap 1 n base)
    else if !canonical base || !canonical (base + BitVec.ofNat 64 (len - 1)) then .trap s (slotTrap 2 n base)
    else .ok (s.setSlot h.key n { base := base, len := len, handle := none })

/-- rslott (R300): the range of a descriptor's box, and its handle. -/
def execRslott (n : Fin 8) (a : Reg) (s : State) : Host.Outcome State Fault Refusal :=
  run (.rslott n a) s fun s h =>
    let x := h.getX a
    if !h.memoryDone then .stall s
    else
      match s.handle h x with
      | .error r => .trap s (.scalar 0x09 (handleInfo x r) 0)
      | .ok d =>
        let (start, len) := d.range 0
        if start < 0 || (2 ^ 64 : Nat) < start + len then .trap s (slotTrap 1 n d.base)
        else .ok (s.setSlot h.key n { base := BitVec.ofInt 64 start, len := len, handle := some (x.setWidth 16) })

/-! ### Barriers -/

/-- Why check(a) of a barrier block fails (R308). -/
inductive BlockError where
  | misaligned
  | denied (d : Deny)
  | host

/-- check(a) of a barrier block (R308), whose page needs RD and W (Table 18.2). -/
def barrierCheck (s : State) (c : Ctx) (a : Word) : Except BlockError Xlat :=
  if a.toNat % 64 ≠ 0 then .error .misaligned
  else
    match s.access c a .atomic with
    | .error d => .error (.denied d)
    | .ok x =>
      match placeOf x.pa with
      | .host _ => .error .host
      | .hbm _ => .ok x
      | .store _ _ => .ok x
      | .homeStore _ => .ok x
      | .homeWindow _ => .ok x
      | .hole => .ok x

/-- The trap of a scalar barrier instruction whose check fails. -/
def barrierTrap (i : Instr) (e : BlockError) (a : Word) : Trap :=
  match e with
  | .misaligned => .scalar 0x04 0 a
  | .denied d => .denied d .atomic a
  | .host => .scalar 0x10 (errorInfo i 0x22) a

/-- The home of a block can perform a step on it: its agent lives, and its memory is whole (R154). -/
def blockReady (i : Instr) (s : State) (va : Word) (pa : Nat) : Except Trap State :=
  match s.deadAt pa with
  | some (_, inc) => .error (.scalar 0x17 (zext64 inc) va)
  | none => if s.corrupted pa then .error (memError i 0x40 va) else .ok (s.correct pa)

/-- A barrier arrival of the hart on a block is still queued. -/
def Hart.arriving (h : Hart) (a : Word) : Bool := h.queue.any fun e => e.isInsn isMarker && e.opa == a

/-- PHASE of a block. -/
def State.phase (s : State) (pa : Nat) : Half := BitVec.ofNat 32 (s.readNat (pa + 12) 4)

/-- A write of a block at a scope would have to wait (R294, R380): the state in which its leases are being recalled, or the host's
copy is being invalidated. -/
def State.writeWaits (s : State) (pa : Nat) (sc : Scope) : Option State :=
  let leased := (sc == .package || sc == .system) &&
    (match placeOf pa, (s.region (regionOf pa)).state with
     | .hbm _, .r ls => ls.any fun l => decide (s.time < l.2)
     | _, _ => false)
  if leased then some (if (s.region (regionOf pa)).closing.isSome then s else s.close (regionOf pa) [] false)
  else if sc == .system && s.hostHeld.any fun x => x.sector == sectorOf pa then some (s.backInvalidate (sectorOf pa))
  else none

/-- The 16 bytes of VALID, COUNT, ARRIVED and PHASE; reserved bits keep what the block holds. -/
def barrierBytes (old : Nat) (valid : Bool) (count arrived phase : Half) : List Byte :=
  leBytes 4 (old % 2 ^ 32 / 2 * 2 + (if valid then 1 else 0)) ++ leBytes 4 count.toNat ++ leBytes 4 arrived.toNat ++ leBytes 4 phase.toNat

/-- bar.init (R306). -/
def execBarInit (a b : Reg) (sc : Scope) (s : State) : Host.Outcome State Fault Refusal :=
  run (.barInit a b sc) s fun s h =>
    let va := h.getX a
    match barrierCheck s h.ctx va with
    | .error e => .trap s (barrierTrap (.barInit a b sc) e va)
    | .ok x =>
      if h.arriving va || s.rmwWaits h va x.pa 64 || s.silentAt x.pa then .stall s
      else
        match blockReady (.barInit a b sc) (s.fillTlb x) va x.pa with
        | .error t => .trap s t
        | .ok s =>
          match s.writeWaits x.pa sc with
          | some w => .stall w
          | none =>
            let count : Half := (h.getX b).setWidth 32
            .ok (s.writeOne h.key (h.via x) (h.slotMask va 64) x.pa
              (barrierBytes (s.readNat x.pa 4) (count != 0) count 0 (s.phase x.pa + 1)) none true false)

/-- bar.arrive (R306) enters the queue with its block captured. -/
def execBarArrive (a : Reg) (sc : Scope) (s : State) : Host.Outcome State Fault Refusal :=
  run (.barArrive a sc) s fun s h => commit (.barArrive a sc) (h.getX a) 0 0 stWaiting s h

/-- The queued trap of a barrier arrival whose check fails (Table 8.4). For a block in host memory einfo holds word 0 in bits 63:32 as R166
says, and the reason in bits 15:8, above the position (log 30). -/
def arriveTrap (s : State) (j : Job) (e : BlockError) : Issue :=
  match e with
  | .misaligned => .trap s (engineTrap j.entry 0x04 0 j.entry.opa)
  | .denied d => deniedTrap s j .atomic d j.entry.opa
  | .host => .trap s (engineTrap j.entry 0x10 (app 32 32 (lo 32 32 j.entry.insn) 0x2200) j.entry.opa)

/-- bar.arrive issues: its block is checked, and it stays in the queue as a marker, which keeps the translation of its block and the id of the
next copy: older copies have lower ones. -/
def issueBarArrive (s : State) (j : Job) : Issue :=
  match barrierCheck s j.hart.ctx j.entry.opa with
  | .error e => arriveTrap s j e
  | .ok x =>
    if s.interlocked j.hart j.entry.opa 64 then .stay s j.entry
    else .stay (s.fillTlb x) { j.entry with status := stMarker, paddrs := [(0, x.vault, x.pa)], pos := some j.hart.eng.copyNext.toNat }

/-- The records of arrivals with one more (R307): it replaces the record of its block, and a ninth discards the oldest. -/
def addArrival (l : List (Word × Half)) (a : Word) (p : Half) : List (Word × Half) :=
  let l := l.filter (fun x => x.1 != a) ++ [(a, p)]
  if 8 < l.length then l.drop 1 else l

/-- The indivisible step of an arrival at the home of its block (R306). -/
def fireMarker (s : State) (j : Job) (vault : BitVec 8) (pa : Nat) : Issue :=
  let a := j.entry.opa
  if (s.readNat pa 4) % 2 = 0 then .trap s (QueueTrap.illegal j.entry stFaulted)
  else
    let count := BitVec.ofNat 32 (s.readNat (pa + 4) 4)
    let arrived := BitVec.ofNat 32 (s.readNat (pa + 8) 4) + 1
    let p := s.phase pa
    let full := decide (count.toNat ≤ arrived.toNat)
    let s := (s.noteRead j.hart.key (j.hart.slotMask a 64) pa).writeOne j.hart.key (j.via vault) (j.hart.slotMask a 64) pa
      (barrierBytes (s.readNat pa 4) true count (if full then 0 else arrived) (if full then p + 1 else p)) none true false
    .done (s.modHart j.hart.key fun h => { h with eng := { h.eng with arrivals := addArrival h.eng.arrivals a p } }) none

/-- A copy is older than a marker that was issued when `next` was the id of the next one. -/
def Copy.olderThan (c : Copy) (next : Option Nat) : Bool :=
  match next with
  | some n => decide ((n + 2 ^ 32 - c.id.toNat) % 2 ^ 32 < 2 ^ 31)
  | none => true

/-- An older access of the hart than the marker at a position is not done (R306): an entry, a copy, a collective, or a store in the path. -/
def State.beforeMarker (s : State) (h : Hart) (pos : Nat) (e : Entry) : Bool :=
  !h.path.isEmpty || ((h.queue.take pos).any fun x => x.isInsn accessesMemory) || s.collBusy h.key false (fun _ => true) ||
  s.copies.any fun c => c.hart == h.key && c.olderThan e.pos

/-- The block of a marker: as its issue translated it, or, after a restore, as it translates now. -/
def markerBlock (s : State) (h : Hart) (e : Entry) : Except BlockError (BitVec 8 × Nat) :=
  match e.paddrs with
  | p :: _ => .ok p.2
  | [] => match barrierCheck s h.ctx e.opa with | .ok x => .ok (x.vault, x.pa) | .error c => .error c

/-- What the marker does once it may fire: it waits for an agent that has fallen silent (R382). -/
def fireTurn (i : Instr) (s : State) (j : Job) : Issue :=
  match markerBlock s j.hart j.entry with
  | .error c => arriveTrap s j c
  | .ok (vault, pa) =>
    if s.silentAt pa then .stay s j.entry else
    match blockReady i s j.entry.opa pa with
    | .error t => .trap s (engineTrap j.entry t.cause 0 t.addr)
    | .ok s => fireMarker s j vault pa

/-- BAR_ARRIVE_FIRE (R306): the marker at a position fires once every older access of its hart is performed at its scope. -/
def execBarArriveFire (k : HartKey) (pos : Nat) (s : State) : Host.Outcome State Fault Refusal :=
  match s.hart? k with
  | none => .next s
  | some h =>
    match h.queue[pos]?, h.sched.slot with
    | some e, some slot =>
      match e.check with
      | some (.barArrive a sc) =>
        if e.status != stMarker || s.beforeMarker h pos e || s.unsettled h sc then .next s
        else
          match release s h sc fun _ => true with
          | some w => .next w
          | none => .next (settleEntry k pos (.barArrive a sc) (fireTurn (.barArrive a sc) (s.cover h sc fun _ => true) { hart := h, slot := slot, entry := e }))
      | _ => .next s
    | _, _ => .next s

/-- bar.wait (R306): it waits while an arrival of the hart is queued, and until the phase of its record has ended. -/
def execBarWait (a : Reg) (sc : Scope) (s : State) : Host.Outcome State Fault Refusal :=
  run (.barWait a sc) s fun s h =>
    let va := h.getX a
    match barrierCheck s h.ctx va with
    | .error e => .trap s (barrierTrap (.barWait a sc) e va)
    | .ok x =>
      if h.arriving va || s.scalarLocked h va 64 || h.pathHolds x.pa 64 then .waiting s
      else if s.silentAt x.pa then .stall s
      else
        match blockReady (.barWait a sc) (s.fillTlb x) va x.pa with
        | .error t => .trap s t
        | .ok s =>
          match h.eng.arrivals.lookup va with
          | none => .ok s
          | some p =>
            if s.phase x.pa = p then .waiting s
            else
              .ok (((s.renew (h.via x) x.pa).noteRead h.key (h.slotMask va 64) x.pa).modHart h.key fun g =>
                { g with eng := { g.eng with arrivals := g.eng.arrivals.filter fun r => r.1 != va } })

end Sys2Proof.Machine
end

