-- ==== Sys2Proof/Machine/Tasks.lean ====
section
/-! DEFINITION. Tasks and strip farms (R311 to R322, R411, R412, R431, R432). -/

namespace Sys2Proof.Machine

/-! ### Entries of the entry table (Table 12.1, R312) -/

/-- The entry may be launched. -/
def EntryRec.valid (e : EntryRec) : Bool := e.word.getLsbD 32
/-- Network launch packets may name the entry. -/
def EntryRec.remote (e : EntryRec) : Bool := e.word.getLsbD 33
/-- Run-to-completion handler. -/
def EntryRec.rtc (e : EntryRec) : Bool := e.word.getLsbD 34
/-- HARTS. -/
def EntryRec.harts (e : EntryRec) : Nat := bitsOf e.word.toNat 15 0
/-- CLASS; 3 is any. -/
def EntryRec.cls (e : EntryRec) : Nat := bitsOf e.word.toNat 17 16
/-- PRIO. -/
def EntryRec.prio (e : EntryRec) : Nat := bitsOf e.word.toNat 22 20
/-- DEPTH. -/
def EntryRec.depth (e : EntryRec) : Nat := bitsOf e.word.toNat 28 24
/-- ASID. -/
def EntryRec.asid (e : EntryRec) : BitVec 10 := BitVec.ofNat 10 (bitsOf e.word.toNat 47 38)
/-- No reserved bit is set. -/
def EntryRec.reservedClear (e : EntryRec) : Bool :=
  bitsOf e.word.toNat 19 18 == 0 && bitsOf e.word.toNat 23 23 == 0 && bitsOf e.word.toNat 31 29 == 0 && bitsOf e.word.toNat 37 35 == 0 &&
  bitsOf e.word.toNat 63 48 == 0 && e.rsv0 == 0 && e.rsv1 == 0

/-- An entry of a partition that may be launched, or none where it is invalid (R312). -/
def Part.entry? (p : Part) (i : Nat) : Option EntryRec :=
  if 4096 ≤ i then none
  else
    match p.entries.lookup i with
    | none => none
    | some e =>
      if e.valid && e.reservedClear && e.harts != 0 && decide (e.depth ≤ 24) && e.code &&& 3 == 0 && p.ownsAsid e.asid then some e else none

/-- The allowed set holds a core of a class (R313). -/
def PartCtl.holdsClass (c : PartCtl) (cls : Nat) : Bool :=
  (List.range 848).any fun k => c.clusters.getLsbD (clusterOf k) && (cls == 3 || (clsOf k).code == cls)

/-! ### Creating tasks and harts (R314, R315, R411, R412) -/

/-- The next hartid from a value on: not 0, and of no live hart. `fuel` exceeds the number of live harts. -/
def nextId (used : List Nat) : Nat → Half → Half
  | 0, x => x
  | fuel + 1, x => if x = 0 ∨ used.contains x.toNat then nextId used fuel (x + 1) else x

/-- A hart of a task at its start (R20, R315). -/
def Hart.start (k : HartKey) (t : Task) (index : Nat) (ctx : Word × Word) (time : Nat) : Hart :=
  { key := k, pc := t.code, level := .t,
    x := (((Vector.replicate 32 (0 : Word)).set 8 t.arg).set 9 (BitVec.ofNat 64 index)).set 10 (BitVec.ofNat 64 t.harts),
    f := Vector.replicate 32 0,
    csr := { Csrs.reset with asid := t.asid, root := BitVec.ofNat 44 (ctx.1.toNat / 4096), evec := ctx.2 &&& ~~~ (3 : Word) },
    task := t.handle, entry := t.entry, index := index, rtc := t.rtc, retired := 0, sched := Sched.start t.launcherCore time, queue := [],
    held := .none, heldCls := 0, imgHeld := 0, imgOuter := none, xpend := 0, fpend := 0, slots := Vector.replicate 8 RangeSlot.empty, outst := [], path := [],
    eng := Engine.start, resv := none, resvSeq := none, resvLost := false, checked := [], irqs := [], req := .none, fwcall := none, stall := false, waitFor := none, area := none,
    tilesAway := 0 }

/-- Creates one hart of a task: it takes the next hartid, and a context area where one is free. -/
def State.createHart (s : State) (p : Fin 17) (t : Task) (index : Nat) : State :=
  let q := s.part p
  let used := (s.harts.filter fun h => h.key.part == p).map fun h => h.key.id
  let id := nextId used (used.length + 2) q.nextHart
  let ctx := (q.ctxs.lookup t.asid).getD (0, 0)
  let s := s.modPart p fun q => { q with nextHart := if id = BitVec.allOnes 32 then 1 else id + 1 }
  State.assignAreas { s with harts := s.harts ++ [Hart.start { part := p, id := id.toNat } t index ctx s.time] } p

/-- Creates the harts of a task, in ascending index (R411). -/
def State.createHarts (s : State) (p : Fin 17) (t : Task) : State :=
  (List.range t.harts).foldl (fun s i => s.createHart p t i)
    (s.modPart p fun q => q.modTask t.handle fun t => { t with pending := false, live := t.harts })

/-- Takes a pool record for an entry and gives the task to Collie: its harts start at once in a running partition, and at
switch-in in another (R411). -/
def State.newTask (s : State) (p : Fin 17) (src : Source) (i : Nat) (e : EntryRec) (depth : Nat) (arg : Word) (core : Nat) : State × Half :=
  let (s, hd) := s.newHandle ((s.part p).tasks.map fun t => t.handle)
  let t : Task :=
    { handle := hd, source := src, entry := i, depth := depth, prio := e.prio, cls := e.cls, harts := e.harts, code := e.code, asid := e.asid,
      arg := arg, rtc := e.rtc, live := 0, pending := true, terminated := false, launcherCore := core }
  let s := s.modPart p fun q => { q with tasks := q.tasks ++ [t] }
  (if (s.part p).state == .running then s.createHarts p t else s, hd)

/-- The checks of a launch (R313): the entry, or the negative status. `depth` is that of the new task. -/
def Part.launchCheck (p : Part) (i depth : Nat) (anyDepth : Bool) : Except Int EntryRec :=
  match p.entry? i with
  | none => .error (-3)
  | some e =>
    if !anyDepth && decide (e.depth < depth) then .error (-2)
    else if !p.ctl.holdsClass e.cls then .error (-4)
    else if 8192 ≤ p.tasks.length then .error (-1)
    else .ok e

/-- A task ends (R314, R320): its farms close, its children's records are freed as they end, and its own goes at once where no
task can join it. -/
def State.endTask (s : State) (p : Fin 17) (hd : Half) : State :=
  s.modPart p fun q =>
    { q with
      farms := q.farms.filter fun f => f.task != hd
      tasks := q.tasks.filterMap fun t =>
        if t.handle == hd then (if t.source == .outside then none else some t)
        else if t.source == .hart hd then (if t.live = 0 && !t.pending then none else some { t with source := .outside })
        else some t }

/-- A hart ends (R317, R428): the last one ends its task. -/
def State.endHart (s : State) (k : HartKey) : State :=
  match s.hart? k with
  | none => s
  | some h =>
    let s := s.modPart k.part fun q => q.modTask h.task fun t => { t with live := t.live - 1 }
    let last := match (s.part k.part).task? h.task with | some t => t.live == 0 | none => false
    (if last then s.endTask k.part h.task else s).removeHart k

/-! ### Instructions -/

/-- launch (R313). -/
def execLaunch (d a b : Reg) (s : State) : Host.Outcome State Fault Refusal :=
  run (.launch d a b) s fun s h =>
    let p := s.part h.key.part
    let depth := (match s.taskOf h with | some t => t.depth | none => 0) + 1
    match p.launchCheck (h.getX a).toNat depth false with
    | .error z => .ok (s.modHart h.key fun g => g.setX d (wordOf z))
    | .ok e =>
      match ordRelease s h .package with
      | some w => .stall w
      | none =>
        let (s, hd) := s.newTask h.key.part (.hart h.task) (h.getX a).toNat e depth (h.getX b) h.core
        .ok (s.modHart h.key fun g => g.setX d (zext64 hd))

/-- join (R316). -/
def execJoin (d a : Reg) (s : State) : Host.Outcome State Fault Refusal :=
  run (.join d a) s fun s h =>
    let p := s.part h.key.part
    match p.tasks.find? fun t => zext64 t.handle == h.getX a && t.source == .hart h.task && t.handle != h.task with
    | none => .ok (s.modHart h.key fun g => g.setX d (wordOf (-5)))
    | some t =>
      if t.pending || t.live ≠ 0 then .waiting s
      else
        .ok ((s.modPart h.key.part fun q => { q with tasks := q.tasks.filter fun u => u.handle != t.handle }).modHart h.key fun g =>
          g.setX d (if t.terminated then wordOf (-6) else 0))

/-- exit (R317, R513): every entry of the hart's own queue is done first; entries that a delegated trap holds are discarded. -/
def execExit (s : State) : Host.Outcome State Fault Refusal :=
  run .exit s fun s h =>
    if !h.queue.isEmpty then .stall s else
    match ordRelease s h .package with
    | some w => .stall w
    | none => .gone (s.endHart h.key)

/-- yield (R317, R417): the end of a quantum within the hart's own partition. -/
def execYield (s : State) : Host.Outcome State Fault Refusal :=
  run .yield s fun s h => .gone ((s.modHart h.key fun g => g.retire h .yield (h.pc + 4)).endQuantum h.key fun p => partNo p == h.key.part)

/-! ### Farms -/

/-- The handle of a farm (R320). -/
def Farm.handle (f : Farm) : Word := BitVec.ofNat 64 (f.slot + 65536 * f.gen.toNat)

/-- A live farm of a partition. -/
def Part.farm? (p : Part) (h : Word) : Option Farm := p.farms.find? fun f => f.handle == h

/-- The partition with a farm replaced. -/
def Part.putFarm (p : Part) (f : Farm) : Part := { p with farms := p.farms.map fun g => if g.slot = f.slot then f else g }

/-- Elements of a strip (R319). -/
def Farm.len (f : Farm) (s : Nat) : Nat := min f.strip (f.total - s * f.strip)

/-- A slot for a new farm from a seed on: the first free one of 1 to 256. `fuel` bounds the search. -/
def freeFarm (used : List Nat) : Nat → Nat → Nat
  | 0, n => n % 256 + 1
  | fuel + 1, n => if used.contains (n % 256 + 1) then freeFarm used fuel (n + 1) else n % 256 + 1

/-- A farm opens in a slot and with a generation that hardware chooses, unlike that of the slot's last farm (R320, log 9). -/
def State.openFarm (s : State) (p : Fin 17) (task : Half) (total strip : Nat) (up : Word) : State × Word :=
  let (s, n) := s.draw
  let q := s.part p
  let seed := Config.handleSeed n
  let slot := freeFarm (q.farms.map (·.slot)) 256 seed.toNat
  let g : BitVec 16 := hi 16 16 seed
  let gen := if q.farmGen.lookup slot = some g then g + 1 else g
  let f : Farm := { slot := slot, gen := gen, task := task, total := total, strip := strip, upstream := up, claim := 0, mark := 0, done := [] }
  (s.modPart p fun q => { q with farms := q.farms ++ [f], farmGen := (slot, gen) :: q.farmGen.filter fun x => x.1 != slot }, f.handle)

/-- farm (R321). -/
def execFarm (d a : Reg) (s : State) : Host.Outcome State Fault Refusal :=
  run (.farm d a) s fun s h =>
    match loadScalar (.farm d a) s h (h.getX a) 64 with
    | .trap t => .trap s t
    | .stall w => .stall w
    | .value s v _ =>
      let p := s.part h.key.part
      let up : Word := BitVec.ofNat 64 (bitsOf v 191 128)
      if bitsOf v 511 192 ≠ 0 || bitsOf v 127 96 ≠ 0 || bitsOf v 95 64 = 0 || decide (2 ^ 48 ≤ bitsOf v 63 0) || (up != 0 && (p.farm? up).isNone) then
        .ok (s.modHart h.key fun g => g.setX d (wordOf (-3)))
      else if 256 ≤ p.farms.length then .ok (s.modHart h.key fun g => g.setX d (wordOf (-1)))
      else
        let (s, w) := s.openFarm h.key.part h.task (bitsOf v 63 0) (bitsOf v 95 64) up
        .ok (s.modHart h.key fun g => g.setX d w)

/-- The hart's open strips with one more (R320): a claim from a ninth farm discards the oldest record. -/
def addStrip (l : List (Word × Nat)) (h : Word) (n : Nat) : List (Word × Nat) :=
  let l := l.filter (fun x => x.1 != h) ++ [(h, n)]
  if 8 < l.length then l.drop 1 else l

/-- The hart with its open strips changed. -/
def Hart.modStrips (h : Hart) (f : List (Word × Nat) → List (Word × Nat)) : Hart := { h with eng := { h.eng with strips := f h.eng.strips } }

/-- The upstream farm lets the next claim go (R322). -/
def Part.upstreamReady (p : Part) (f : Farm) : Bool :=
  match p.farm? f.upstream with
  | some u => decide (min u.total ((f.claim + 1) * f.strip) ≤ u.mark)
  | none => true

/-- fclaim (R322). -/
def execFclaim (d a : Reg) (s : State) : Host.Outcome State Fault Refusal :=
  run (.fclaim d a) s fun s h =>
    let p := s.part h.key.part
    match p.farm? (h.getX a) with
    | none => .ok (s.modHart h.key fun g => g.setX d (wordOf (-2)))
    | some f =>
      if f.total ≤ f.claim * f.strip then .ok (s.modHart h.key fun g => g.setX d (wordOf (-1)))
      else if decide (f.mark / f.strip + 4096 ≤ f.claim) || !p.upstreamReady f then .waiting s
      else
        .ok ((s.modPart h.key.part fun q => q.putFarm { f with claim := f.claim + 1 }).modHart h.key fun g =>
          (g.modStrips fun l => addStrip l f.handle f.claim).setX d (BitVec.ofNat 64 f.claim))

/-- The watermark from strip `n` on: the elements of the longest prefix of complete strips (R320). `fuel` bounds the strips. -/
def Farm.prefixFrom (f : Farm) : Nat → Nat → Nat
  | 0, n => min f.total (n * f.strip)
  | fuel + 1, n =>
    if f.total ≤ n * f.strip then f.total
    else if (f.done.lookup n).getD 0 = f.len n then f.prefixFrom fuel (n + 1)
    else n * f.strip

/-- The farm after `n` elements of a strip have been published, with W recomputed. -/
def Farm.publish (f : Farm) (strip n : Nat) : Farm :=
  let done := min (f.len strip) ((f.done.lookup strip).getD 0 + n)
  let f := { f with done := (strip, done) :: f.done.filter fun x => x.1 != strip }
  { f with mark := f.prefixFrom (f.done.length + 1) 0 }

/-- wmpub (R322). -/
def execWmpub (a b : Reg) (s : State) : Host.Outcome State Fault Refusal :=
  run (.wmpub a b) s fun s h =>
    match (s.part h.key.part).farm? (h.getX a) with
    | none => .ok s
    | some f =>
      match ordRelease s h .package with
      | some w => .stall w
      | none =>
        match h.eng.strips.lookup f.handle with
        | none => .ok s
        | some n =>
          let f := f.publish n (h.getX b).toNat
          let s := s.modPart h.key.part fun q => q.putFarm f
          .ok (if (f.done.lookup n).getD 0 = f.len n then s.modHart h.key fun g => g.modStrips fun l => l.filter fun x => x.1 != f.handle else s)

/-- wmwait (R322). -/
def execWmwait (a b : Reg) (s : State) : Host.Outcome State Fault Refusal :=
  run (.wmwait a b) s fun s h =>
    match (s.part h.key.part).farm? (h.getX a) with
    | none => .ok s
    | some f => if f.mark < min (h.getX b).toNat f.total then .waiting s else .ok s

/-- TASK_TERMINATED (R316): the partition kernel has ended a task, whose harts end with it, so that a join reports −6. -/
def execTaskTerminated (p : Fin 16) (hd : Half) (s : State) : Host.Outcome State Fault Refusal :=
  let q := partNo p
  match (s.part q).task? hd with
  | none => .next s
  | some t =>
    if t.live = 0 && !t.pending then .next s
    else
      let s := s.modPart q fun x => x.modTask hd fun t => { t with terminated := true }
      let keys := (s.harts.filter fun h => h.key.part == q && h.task == hd).map (·.key)
      if keys.isEmpty then .next ((s.modPart q fun x => x.modTask hd fun t => { t with pending := false, live := 0 }).endTask q hd)
      else .next (keys.foldl State.endHart s)

end Sys2Proof.Machine
end

