-- ==== Sys2Proof/Machine/System.lean ====
section
/-! DEFINITION. CSRs, traps asked for, the return from a trap, and the instruction fence (R22 to R30, R323 to R326, R449,
R453, R454, R507). -/

namespace Sys2Proof.Machine

/-! ### Reading CSRs -/

/-- coreid (Table 1.5). -/
def coreid (core : Nat) : Word := BitVec.ofNat 64 (core + 65536 * dieOf core + 2 ^ 20 * clusterInDie core)

/-- class (Table 1.6). -/
def classWord (core : Nat) : Word := BitVec.ofNat 64 ((clsOf core).code + 256 * passes (clsOf core))

/-- mbxstat (Table 10.9). -/
def Hart.mbxstat (h : Hart) : Word :=
  BitVec.ofNat 64 (h.eng.mbx.length + (if h.eng.ovf then 256 else 0) + 65536 * h.eng.spill.length)

/-- isafeat1 (R462). -/
def isafeat1 : Word := 0x1000E

/-- vown of a slot (Table 1.9). -/
def Slot.vown (x : Slot) : Word := BitVec.ofNat 64 (x.asid.toNat + (if x.valid then 65536 else 0) + 2 ^ 32 * x.hart.toNat)

/-- fqctl (Table 18.6). -/
def FaultQueue.word (q : FaultQueue) : Word :=
  BitVec.ofNat 64 (q.base.toNat * 4096 + q.sizeLog.toNat * 256 + (if q.ovf then 4 else 0) + (if q.irq then 2 else 0) + (if q.en then 1 else 0))

/-- partctl (Table 17.2). -/
def PartCtl.word (c : PartCtl) : Word := BitVec.ofNat 64 (c.clusters.toNat + c.weight.toNat * 2 ^ 16 + c.quantum.toNat * 2 ^ 32)

/-- vown of the slot that a hart occupies. -/
def State.vownOf (s : State) (h : Hart) : Word := match h.sched.slot with | some i => (s.slot i).vown | none => 0

/-- Frequency of the island that misland selects. -/
def State.mfreq (s : State) : Nat := ((s.islands[s.misland.toNat]?).map Island.freq).getD 0

/-- Corrected errors of a die (R500). -/
def State.meccOf (s : State) (die : Nat) : Word := (s.mecc[die]?).getD 0

/-- mlimit (Table 22.4). -/
def LimitUnit.word (l : LimitUnit) : Word := BitVec.ofNat 64 ((if l.locked then 1 else 0) + 65536 * l.violations.toNat)

/-- The value that a CSR reads as (Tables 1.3, 1.4 and 22.4), or none for an unassigned number. -/
def csrRead (s : State) (h : Hart) (n : BitVec 12) : Option Word :=
  match n.toNat with
  | 0x000 => some (zext64 h.csr.fcsr)
  | 0x001 => some (zext64 h.csr.vl)
  | 0x002 => some (zext64 h.csr.vtype)
  | 0x003 => some (zext64 h.csr.vstart)
  | 0x004 => some (zext64 h.csr.mvl)
  | 0x005 => some (zext64 h.csr.mtypeWord)
  | 0x006 => some (BitVec.ofNat 64 h.queue.length)
  | 0x007 => some (BitVec.ofNat 64 (lcsize h.cls))
  | 0x008 => some (zext64 h.csr.vfcsr)
  | 0x010 => some h.csr.tick
  | 0x011 => some (BitVec.ofNat 64 s.time)
  | 0x012 => some (BitVec.ofNat 64 h.key.id)
  | 0x013 => some (coreid h.core)
  | 0x014 => some (classWord h.core)
  | 0x015 => some h.taskWord
  | 0x016 => some (BitVec.ofNat 64 h.key.part.val)
  | 0x020 => some h.csr.uvec
  | 0x021 => some (zext64 h.csr.ucause)
  | 0x022 => some h.csr.uepc
  | 0x023 => some h.csr.uinfo
  | 0x024 => some h.csr.uaddr
  | 0x025 => some h.csr.stklim
  | 0x026 => some h.csr.eptlim
  | 0x027 => some (flagWord h.csr.cfien)
  | 0x028 => some h.csr.udeleg
  | 0x029 => some h.mbxstat
  | 0x02A => some h.csr.migcount
  | 0x030 => some (zext64 s.isafeat0)
  | 0x031 => some isafeat1
  | 0x100 => some h.estatus
  | 0x101 => some h.csr.evec
  | 0x102 => some (zext64 h.csr.ecause)
  | 0x103 => some h.csr.epc
  | 0x104 => some h.csr.einfo
  | 0x105 => some h.csr.eaddr
  | 0x106 => some h.csr.escratch
  | 0x107 => some (zext64 h.csr.asid)
  | 0x108 => some (BitVec.ofNat 64 (h.csr.root.toNat * 4096))
  | 0x109 => some (s.vownOf h)
  | 0x10A => some (zext64 (BitVec.ofBool h.csr.fix ++ BitVec.ofBool h.csr.pin))
  | 0x10B => some (flagWord h.csr.step)
  | 0x10C => some (s.part h.key.part).fq.word
  | 0x10D => some (s.part h.key.part).ctl.word
  | 0x200 => some s.misland
  | 0x201 => some (BitVec.ofNat 64 s.mfreq)
  | 0x202 => some (BitVec.ofNat 64 s.power)
  | 0x203 => some (s.meccOf (dieOf h.core))
  | 0x204 => some s.limit.word
  | _ => none

/-- Reads that wait for older queued instructions (R34). -/
def csrReadWaits (n : BitVec 12) : Bool := n == 0x003 || n == 0x008

/-- Writes that wait for older queued instructions (R34, R323). -/
def csrWriteWaits (n : BitVec 12) : Bool := csrReadWaits n || n == 0x107 || n == 0x108 || n == 0x109 || n == 0x10B

/-! ### Writing CSRs -/

/-- FRM and the flags of fcsr or vfcsr (Table 4.4): a write of 6 or 7 leaves the mode unchanged. -/
def fcsrWrite (old : BitVec 9) (w : Word) : BitVec 9 :=
  let flags : BitVec 9 := w.setWidth 9 &&& 0x1F0
  flags ||| (if 6 ≤ w.toNat % 8 then old &&& 7 else w.setWidth 9 &&& 7)

/-- A write of vown (R453). -/
def State.writeVown (s : State) (h : Hart) (w : Word) : State :=
  match h.sched.slot with
  | none => s
  | some i =>
    let id := bitsOf w.toNat 63 32
    let asid : BitVec 10 := BitVec.ofNat 10 w.toNat
    if w.getLsbD 16 then
      if id = h.key.id && asid == h.csr.asid then (s.writeBack i).claim i h else s
    else (s.writeBack i).putSlot { (s.writeBack i).slot i with valid := false, hart := BitVec.ofNat 32 id, asid := asid, owner := h.key.part }

/-- Stream elements whose record was dropped are fetched again (R263). -/
def Hart.refetchDropped (h : Hart) : Hart :=
  { h with eng := { h.eng with
      streams := h.eng.streams.map fun t => t.map fun (u : StreamState) => { u with withheld := u.withheld.filter fun x => x.2.2.isSome } } }

/-- A write of fqctl (R444); `clear` is the value for its W1C bit. -/
def State.writeFqctl (s : State) (p : Fin 17) (w clear : Word) : State :=
  let s := s.modPart p fun q =>
    { q with fq :=
        { base := BitVec.ofNat 44 (w.toNat / 4096), sizeLog := BitVec.ofNat 4 (max 4 (bitsOf w.toNat 11 8)),
          ovf := q.fq.ovf && !clear.getLsbD 2, irq := w.getLsbD 1, en := w.getLsbD 0 } }
  { s with harts := s.harts.map fun g => if g.key.part == p then g.refetchDropped else g }

/-- A write of mfreq (R507, R506): rounded down to a step, and bounded by the clamp. -/
def State.writeMfreq (s : State) (w : Word) : State :=
  if h : s.misland.toNat < 24 then
    let i := s.islands[s.misland.toNat]
    let top := if i.clamped then 800 else 3300
    let v := max 800 (w.toNat / 100 * 100)
    { s with islands := s.islands.set s.misland.toNat { i with mhz := min top v } }
  else s

/-- A write of a CSR, field by field (R7, R323): `w` for its RW fields, `clear` for its W1C fields. -/
def csrWrite (s : State) (h : Hart) (n : BitVec 12) (w clear : Word) : State :=
  let put := fun (f : Csrs → Csrs) => s.modHart h.key fun g => { g with csr := f g.csr }
  match n.toNat with
  | 0x000 => put fun c => { c with fcsr := fcsrWrite c.fcsr w }
  | 0x003 => put fun c => { c with vstart := BitVec.ofNat 10 (min 512 w.toNat) }
  | 0x008 => put fun c => { c with vfcsr := fcsrWrite c.vfcsr w }
  | 0x020 => put fun c => { c with uvec := w &&& ~~~ (3 : Word) }
  | 0x021 => put fun c => { c with ucause := w.setWidth 8 }
  | 0x022 => put fun c => { c with uepc := w }
  | 0x023 => put fun c => { c with uinfo := w }
  | 0x024 => put fun c => { c with uaddr := w }
  | 0x025 => put fun c => { c with stklim := w }
  | 0x026 => put fun c => { c with eptlim := w }
  | 0x027 => put fun c => { c with cfien := w.getLsbD 0 }
  | 0x028 => put fun c => { c with udeleg := w &&& 0x38C00 }
  | 0x100 => put fun c =>
      { c with
        qtrap := w.getLsbD 7
        pp := if bitsOf w.toNat 5 4 = 3 then c.pp else BitVec.ofNat 2 (bitsOf w.toNat 5 4)
        pie := w.getLsbD 3
        ie := w.getLsbD 2 }
  | 0x101 => put fun c => { c with evec := w &&& ~~~ (3 : Word) }
  | 0x102 => put fun c => { c with ecause := w.setWidth 8 }
  | 0x103 => put fun c => { c with epc := w }
  | 0x104 => put fun c => { c with einfo := w }
  | 0x105 => put fun c => { c with eaddr := w }
  | 0x106 => put fun c => { c with escratch := w }
  | 0x107 => put fun c => { c with asid := w.setWidth 10 }
  | 0x108 => put fun c => { c with root := BitVec.ofNat 44 (w.toNat / 4096) }
  | 0x109 => s.writeVown h w
  | 0x10A => put fun c => { c with pin := w.getLsbD 0, fix := w.getLsbD 1 }
  | 0x10B => put fun c => { c with step := w.getLsbD 0 }
  | 0x10C => s.writeFqctl h.key.part w clear
  | 0x200 => if w.toNat < 24 then { s with misland := w } else s
  | 0x201 => s.writeMfreq w
  | _ => s

/-! ### The CSR instructions (R323) -/

/-- A CSR instruction: `f` gives the value for RW fields from the old value, `clear` that for W1C fields. -/
def csrBody (i : Instr) (d : Reg) (n : BitVec 12) (write : Option ((Hart → Word → Word) × (Hart → Word))) (s : State) (h : Hart) : Effect :=
  match csrRead s h n with
  | none => .trap s (.illegal i)
  | some old =>
    match write with
    | none => if csrReadWaits n && !h.queue.isEmpty then .stall s else .ok (s.modHart h.key fun g => g.setX d old)
    | some (f, clear) =>
      if csrWriteWaits n && !h.queue.isEmpty then .stall s
      else .ok ((csrWrite s h n (f h old) (clear h)).modHart h.key fun g => g.setX d old)

/-- csrrd. -/
def execCsrrd (d : Reg) (csr : BitVec 12) (s : State) : Host.Outcome State Fault Refusal :=
  run (.csrrd d csr) s (csrBody (.csrrd d csr) d csr none)

/-- csrwr. -/
def execCsrwr (d a : Reg) (csr : BitVec 12) (s : State) : Host.Outcome State Fault Refusal :=
  run (.csrwr d a csr) s (csrBody (.csrwr d a csr) d csr (some (fun h _ => h.getX a, fun h => h.getX a)))

/-- csrset. -/
def execCsrset (d a : Reg) (csr : BitVec 12) (s : State) : Host.Outcome State Fault Refusal :=
  run (.csrset d a csr) s (csrBody (.csrset d a csr) d csr (some (fun h old => old ||| h.getX a, fun h => h.getX a)))

/-- csrclr. -/
def execCsrclr (d a : Reg) (csr : BitVec 12) (s : State) : Host.Outcome State Fault Refusal :=
  run (.csrclr d a csr) s (csrBody (.csrclr d a csr) d csr (some (fun h old => old &&& ~~~ h.getX a, fun _ => 0)))

/-! ### Re-issue of a saved image (R37, R449, R451, R454) -/

/-- A trap as if at the pc, which saves no image (R37, R454). -/
def State.trapBack (s : State) (k : HartKey) (t : Trap) : State :=
  match s.hart? k with
  | none => s
  | some h => if h.csr.evec = 0 then s.terminatePart k.part t.cause h.pc else s.modHart k fun h => h.enterS t

/-- Position of the oldest entry of majors 0x38 to 0x3C, whatever else its word holds (R454). -/
def firstVector (es : List Entry) : Option Nat := es.findIdx? fun e => decide (0x38 ≤ e.major) && decide (e.major ≤ 0x3C)

/-- An image of another class carries its hart there first; its `resume` then re-issues it (R37, R424). -/
def State.followImage (s : State) (k : HartKey) (code : Nat) : State :=
  (s.modHart k fun g => { g with heldCls := BitVec.ofNat 2 code, sched := { g.sched with resume := true } }).missMove k
    (fun c => (clsOf c).code == code) none .image

/-- The saved image goes back into the queue of a hart whose level and pc are those at which it resumes: what a delegated trap held
is held again, or stays held in the area where it is of another class, and COUNT reads 0. An image with entries of the hart's own of another
class carries the hart there first (R37). Without vown naming the hart, or with COUNT above 32, it traps and the image stays. -/
def State.restoreImage (s : State) (k : HartKey) : State :=
  match s.hart? k with
  | none => s
  | some h =>
    match h.area with
    | none => s
    | some a =>
      let n := s.imageCount a
      let es := s.imageEntries a
      let trap := fun (c : BitVec 8) (pos : Nat) => s.trapBack k { cause := c, info := BitVec.ofNat 64 pos, addr := 0, queued := true }
      if n = 0 then s.modHart k fun h => { h with imgHeld := if h.held == .none then 0 else h.imgHeld }
      else if 32 < n then trap 0x01 32
      else if s.imageCls a ≠ h.cls.code && decide (n ≤ h.imgHeld) then
        s.modHart k fun h => { h with held := .area, heldCls := BitVec.ofNat 2 (s.imageCls a), xpend := s.imageXpend a, fpend := s.imageFpend a }
      else if s.imageCls a ≠ h.cls.code then s.followImage k (s.imageCls a)
      else
        match (if s.owns h then none else firstVector es) with
        | some pos => trap 0x14 pos
        | none =>
          let held := es.take h.imgHeld
          let s := s.modHart k fun h =>
            { h with
              queue := es.drop h.imgHeld
              held := if held.isEmpty then .none else .queue held
              heldCls := if held.isEmpty then BitVec.ofNat 2 h.cls.code else h.heldCls
              imgHeld := 0
              xpend := s.imageXpend a
              fpend := s.imageFpend a }
          s.clearImage a

/-- The entries of a handler at S that its image area holds behind those of the trap it handles go back into its queue, and the image is again
that of the trap; a CLS of another class carries the hart there first (R37); with COUNT above 32 it traps ILLEGAL_INSN, without vown naming the
hart VECTOR_OWNER, and they stay there (R37, R451, R454, log 10). -/
def State.restoreOwnImage (s : State) (k : HartKey) : State :=
  match s.hart? k with
  | none => s
  | some h =>
    match h.area, h.imgOuter with
    | some a, some (n, header) =>
      let own := (s.imageEntries a).drop n
      let trap := fun (c : BitVec 8) (pos : Nat) => s.trapBack k { cause := c, info := BitVec.ofNat 64 pos, addr := 0, queued := true }
      if 32 < s.imageCount a then trap 0x01 32
      else if s.imageCls a ≠ h.cls.code && !own.isEmpty then s.followImage k (s.imageCls a)
      else
      match (if s.owns h then none else firstVector own) with
      | some pos => trap 0x14 (n + pos)
      | none =>
        (s.modHart k fun g =>
          { g with queue := g.queue ++ own.zipIdx.map (fun (x : Entry × Nat) => { x.1 with place := g.queue.length + x.2 }), imgOuter := none }).writeOwn
            (imageBase a) header
    | some _, none => s
    | none, _ => s

/-! ### ecall, ebreak, eret, ifence -/

/-- The firmware calls of Table 22.5. -/
def firmwareCalls : List Nat := [0x100, 0x101, 0x102, 0x103, 0x104, 0x105, 0x106, 0x107]

/-- ecall (R324): ECALL_T at T. At S a call of Table 22.5 goes to device firmware, whose event completes the ecall (R508); any other
number gives −1. -/
def execEcall (s : State) : Host.Outcome State Fault Refusal :=
  run .ecall s fun s h =>
    if h.level == .t then .trap s (.scalar 0x0E 0 0)
    else if firmwareCalls.contains (h.getX 8).toNat then .stall (s.modHart h.key fun g => { g with fwcall := some (h.getX 8).toNat })
    else .ok (s.modHart h.key fun g => g.setX 8 (wordOf (-1)))

/-- ebreak (R324). -/
def execEbreak (s : State) : Host.Outcome State Fault Refusal := run .ebreak s fun s _ => .trap s (.scalar 0x0C 0xB4000001 0)

/-- The hart after eret: the level before the trap, IE from PIE, the pc from epc, whose bits 1:0 a pc does not have (R48, log 19). -/
def Hart.leaveS (h : Hart) : Hart :=
  { h with
    pc := h.csr.epc &&& ~~~ (3 : Word)
    level := Level.ofCode h.csr.pp
    csr := { h.csr with ie := h.csr.pie, qtrap := false }
    stall := false
    waitFor := none
    resvSeq := none }

/-- A class code that the hart's core does not have, of the image that an eret would re-issue. -/
def State.imageElsewhere (s : State) (h : Hart) : Option Nat :=
  match h.area with
  | none => none
  | some a => if s.imageCount a ≠ 0 && s.imageCls a ≠ h.cls.code then some (s.imageCls a) else none

/-- eret (R324, R449, R454): to T it waits for the handler's entries, moves to the class of the image, and re-issues it. Entries
that were kept back when the hart resumed at S go on (log 10). -/
def execEret (s : State) : Host.Outcome State Fault Refusal :=
  run .eret s fun s h =>
    if h.level == .t || h.csr.pp == 2 then .trap s (.scalar 0x03 (instrWords .eret) 0)
    else if h.csr.pp == 1 then
      let back := s.heldEntries h
      .gone ((s.modHart h.key fun g => ((if g.held == .none then g else (g.release back).repend back).counted .eret).migrated h |>.leaveS).restoreOwnImage h.key)
    else if !h.queue.isEmpty then .stall s
    else
      match s.imageElsewhere h with
      | some c =>
        if h.csr.pin then .trap s (.scalar 0x02 0 0)
        else .gone ((s.modHart h.key fun g => { g with heldCls := BitVec.ofNat 2 c }).missMove h.key (fun k => (clsOf k).code == c) none .image)
      | none => .gone ((s.modHart h.key fun g => (g.counted .eret).migrated h |>.leaveS).restoreImage h.key)

/-- ifence (R326): it orders as xfence does; every later fetch reads memory as it then is, so that neither a line of the core, nor a word that has
been fetched, nor bytes that a PCIe read has brought before, whatever stream asked for them, serve it (R51). -/
def execIfence (s : State) : Host.Outcome State Fault Refusal :=
  run .ifence s fun s h =>
    if s.streamsPending h then .stall s
    else
      .ok (State.modHart { s with l1i := s.l1i.filter fun e => e.core != h.core, asked := s.asked.filter fun a => !a.here } h.key fun g =>
        { g with checked := [] })

end Sys2Proof.Machine
end

