-- ==== Sys2Proof/Machine/Vaults.lean ====
section
/-! DEFINITION. Vault definitions and their walks, tensor descriptors, and tlbinv (R328 to R334, R355 to R361, R440). -/

namespace Sys2Proof.Machine

/-! ### The vault definition record (Tables 12.6 and 12.7) -/

/-- A share word. -/
def shareWord (v : Nat) (k : Nat) : Nat := bitsOf v (256 + 32 * k + 31) (256 + 32 * k)

/-- NSHARE of a record. -/
def vdrShares (v : Nat) : Nat := bitsOf v 53 48

/-- Ways of each share. -/
def vdrWays (v : Nat) : Nat := bitsOf v 39 36 + 1

/-- The shares of a record. -/
def sharesOf (v : Nat) : List Share :=
  (List.range (vdrShares v)).map fun k =>
    { slice := bitsOf (shareWord v k) 23 16, bank := bitsOf (shareWord v k) 15 12, first := bitsOf (shareWord v k) 3 0 }

/-- Two shares of `w` ways each overlap. -/
def Share.meets (a b : Share) (w : Nat) : Bool :=
  a.slice == b.slice && a.bank == b.bank && decide (a.first < b.first + w) && decide (b.first < a.first + w)

/-- Some two shares of a list overlap. -/
def sharesClash (w : Nat) : List Share → Bool
  | [] => false
  | a :: l => (l.any fun b => a.meets b w) || sharesClash w l

/-- BAD_FIELD (Table 12.8). -/
def vdrBad (v : Nat) : Bool :=
  bitsOf v 255 96 != 0 || bitsOf v 63 60 != 0 || bitsOf v 55 54 != 0 || bitsOf v 47 43 != 0 || bitsOf v 35 34 != 0 || bitsOf v 15 8 != 0 ||
  bitsOf v 7 0 == 255 || vdrShares v == 0 || decide (56 < vdrShares v) ||
  ((List.range 56).any fun k => decide (vdrShares v ≤ k) && shareWord v k != 0) ||
  ((List.range (vdrShares v)).any fun k =>
    let w := shareWord v k
    bitsOf w 31 24 != 0 || bitsOf w 11 8 != 0 || decide (191 < bitsOf w 23 16) || bitsOf w 7 4 != bitsOf w 3 0 + bitsOf v 39 36) ||
  sharesClash (vdrWays v) (sharesOf v)

/-- The ways of shares. -/
def waysOf (l : List Share) (w : Nat) : List Way := l.flatMap fun s => (List.range w).map fun n => { slice := s.slice, bank := s.bank, way := s.first + n }

/-- The ways that a vault holds, those being released included (R331, R359). -/
def Vault.held (v : Vault) : List Way := waysOf v.shares v.ways ++ waysOf v.oldShares v.oldWays

/-- SHARE_CONFLICT: another vault of the partition holds a way. -/
def Part.conflict (p : Part) (index : BitVec 8) (l : List Way) : Bool :=
  p.vaults.any fun v => v.index != index && l.any fun w => v.held.contains w

/-- SHARE_OUTSIDE: a way lies outside the pool. -/
def Part.outside (p : Part) (l : List Way) : Bool := l.any fun w => !p.pool.contains w

/-- The vault that a record defines. -/
def Vault.ofRecord (v : Nat) : Vault :=
  { index := BitVec.ofNat 8 v, state := .active, gen := 0, lineLog := bitsOf v 33 32, write := bitsOf v 41 40, fifo := v.testBit 42,
    ways := vdrWays v, bypass := bitsOf v 95 64, shares := sharesOf v, oldShares := [], oldWays := 0, walk := 0, wback := 0, issuer := none }

/-- STATE codes. -/
def VaultState.code : VaultState → Nat
  | .free => 0 | .active => 1 | .migrating => 2 | .dropping => 3

/-- The record of a vault as vquery shows it. -/
def Vault.record (v : Vault) : Nat :=
  packFields ([(8, v.index.toNat), (8, 0), (16, v.gen.toNat), (2, v.lineLog), (2, 0), (4, v.ways - 1), (2, v.write), (1, if v.fifo then 1 else 0),
    (5, 0), (6, v.shares.length), (2, 0), (4, v.state.code), (4, 0), (32, v.bypass), (160, 0)] ++
    (v.shares.map fun s => [(4, s.first), (4, s.first + v.ways - 1), (4, 0), (4, s.bank), (8, s.slice), (8, 0)]).flatten)

/-! ### Instructions on vaults -/

/-- A record of `n` bytes read as one scalar-stream read, which passes the caches sector by sector. -/
def loadRecord (i : Instr) (hint : Hint) (s : State) (h : Hart) (va : Word) (n : Nat) : Got :=
  match loadHinted i hint s h va n with
  | .trap t => .trap t
  | .stall s => .stall s
  | .value s v pa =>
    match s.access h.ctx va .load with
    | .error _ => .value s v pa
    | .ok x => .value (((sectorsOf pa n).drop 1).foldl (fun s sec => s.readTouch (h.via x) sec (s.hintedAlloc (h.via x) hint) (hint != 2)) s) v pa

/-- A status in xd. -/
def answer (s : State) (h : Hart) (xd : Reg) (z : Int) : Effect := .ok (s.modHart h.key fun g => g.setX xd (wordOf z))

/-- vdef (R331). -/
def execVdef (xd rec : Reg) (hint : Hint) (s : State) : Host.Outcome State Fault Refusal :=
  run (.vdef xd rec hint) s fun s h =>
    match loadRecord (.vdef xd rec hint) hint s h (h.getX rec) 256 with
    | .trap t => .trap s t
    | .stall w => .stall w
    | .value s r _ =>
      let p := s.part h.key.part
      let v := Vault.ofRecord r
      let ways := waysOf v.shares v.ways
      if (p.vault? v.index).isSome then answer s h xd 1
      else if vdrBad r then answer s h xd 2
      else if p.conflict v.index ways then answer s h xd 3
      else if p.outside ways then answer s h xd 4
      else answer (s.modPart h.key.part fun p => { p with vaults := p.vaults ++ [v] }) h xd 0

/-- vresize (R331, R355). -/
def execVresize (xd index rec : Reg) (hint : Hint) (s : State) : Host.Outcome State Fault Refusal :=
  run (.vresize xd index rec hint) s fun s h =>
    match loadRecord (.vresize xd index rec hint) hint s h (h.getX rec) 256 with
    | .trap t => .trap s t
    | .stall w => .stall w
    | .value s r _ =>
      let p := s.part h.key.part
      let n := Vault.ofRecord r
      let i : BitVec 8 := (h.getX index).setWidth 8
      let ways := waysOf n.shares n.ways
      match p.vault? i with
      | none => answer s h xd 6
      | some v =>
        if v.state != .active then answer s h xd 7
        else if vdrBad r then answer s h xd 2
        else if p.conflict i ways then answer s h xd 3
        else if p.outside ways then answer s h xd 4
        else if n.index != i || n.lineLog ≠ v.lineLog || n.write ≠ v.write then answer s h xd 5
        else
          let s := s.modPart h.key.part fun p => p.modVault i fun v =>
            { v with
              state := .migrating
              oldShares := v.shares
              oldWays := v.ways
              shares := n.shares
              ways := n.ways
              fifo := n.fifo
              bypass := n.bypass
              walk := 0
              wback := 0
              issuer := some h.key }
          answer { s with lines := s.lines.map fun l => if l.ofVault h.key.part i then { l with used := false } else l } h xd 0

/-- vdrop (R332). -/
def execVdrop (d a : Reg) (s : State) : Host.Outcome State Fault Refusal :=
  run (.vdrop d a) s fun s h =>
    let i : BitVec 8 := (h.getX a).setWidth 8
    if i = 255 then answer s h d 2
    else
      match (s.part h.key.part).vault? i with
      | none => answer s h d 6
      | some v =>
        if v.state != .active then answer s h d 7
        else
          answer (s.modPart h.key.part fun p => p.modVault i fun v =>
            { v with state := .dropping, oldShares := v.shares, oldWays := v.ways, walk := 0, wback := 0, issuer := some h.key }) h d 0

/-- vquery (R334). -/
def execVquery (d a b : Reg) (s : State) : Host.Outcome State Fault Refusal :=
  run (.vquery d a b) s fun s h =>
    let i : BitVec 8 := (h.getX a).setWidth 8
    let n := (h.getX b).toNat
    let r := match (s.part h.key.part).vault? i with | some v => v.record | none => i.toNat
    .ok (s.modHart h.key fun g => g.setX d (if 31 < n then 0 else BitVec.ofNat 64 (r / 2 ^ (64 * n))))

/-! ### The walk (R358) -/

/-- Place of a line in the order of the walk: share, then set, then way; none where the line is outside the old placement. -/
def Vault.placeOf (v : Vault) (l : Line) : Option Nat :=
  (v.oldShares.findIdx? fun sh => l.inShare sh v.oldWays).map fun k => (k * v.sets + l.set) * v.oldWays + (l.way - ((v.oldShares[k]?).map (·.first)).getD 0)

/-- The next valid line of the old placement, with its place. -/
def State.nextLine (s : State) (p : Fin 17) (v : Vault) : Option (Nat × Line) :=
  firstBy (fun a b => decide (a.1 < b.1))
    ((s.lines.filter fun l => l.ofVault p v.index && l.sectors.any Sector.isValid).filterMap fun l =>
      (v.placeOf l).bind fun n => if v.walk ≤ n then some (n, l) else none)

/-- The completion message (Table 12.10). -/
def vaultMessage (v : Vault) (gen : Nat) (drop : Bool) : Mail :=
  { lo := BitVec.ofNat 64 (0x03 + v.index.toNat * 2 ^ 8 + gen * 2 ^ 16 + (if drop then 2 ^ 32 else 0)), hi := BitVec.ofNat 64 v.wback }

/-- The walk ends (R358, R332); while the mailbox of the issuing hart is full, its sender holds the message alone (R265). -/
def State.endWalk (s : State) (p : Fin 17) (v : Vault) : State :=
  let drop := v.state == .dropping
  let gen := v.gen + 1
  let s := s.modPart p fun q =>
    if drop then { q with vaults := q.vaults.filter fun x => x.index != v.index }
    else q.modVault v.index fun x => { x with gen := gen, state := .active, oldShares := [], oldWays := 0, issuer := none }
  match v.issuer with
  | some k => s.post k (vaultMessage v (if drop then 0 else gen.toNat) drop)
  | none => s

/-- VAULT_WALK_STEP (R358): the walk decides on the next line of the old placement, or ends. -/
def execVaultWalkStep (p : Fin 17) (index : Fin 256) (s : State) : Host.Outcome State Fault Refusal :=
  match (s.part p).vault? (BitVec.ofNat 8 index.val) with
  | none => .next s
  | some v =>
    if v.state != .migrating && v.state != .dropping then .next s
    else
      match s.nextLine p v with
      | none => .next (s.endWalk p v)
      | some (n, l) =>
        if v.state == .migrating && v.placed l then .next (s.modPart p fun q => q.modVault v.index fun x => { x with walk := n + 1 })
        else
          let dirty := l.sectors.any Sector.isDirty
          .next ((s.dropLines fun m => m == l).modPart p fun q => q.modVault v.index fun x =>
            { x with walk := n + 1, wback := if dirty then x.wback + 1 else x.wback })

/-! ### Tensor descriptors (R331, R334) -/

/-- The check of a descriptor that is to be written (R331): the place of its record, or the status. Where several apply, the lowest but that the
descriptor's own fields come before the table that its asid has: 1, 2, 3, then 4 (log 31). -/
def Part.tdCheck (p : Part) (no : Nat) (handle : Word) (d : Nat) : Except Nat Nat :=
  let asid : BitVec 10 := BitVec.ofNat 10 (bitsOf d 73 64)
  let own := bitsOf d 77 74 == no && p.ownsAsid asid
  let (base, len) := p.tdOf asid
  if handle.toNat / 65536 ≠ 0 || (own && len != 0 && decide (len ≤ handle.toNat)) then .error 1
  else if !descReserved d then .error 2
  else if !own then .error 3
  else if len = 0 then .error 4
  else .ok (base + 64 * handle.toNat)

/-- tdset (R331). -/
def execTdset (xd handle rec : Reg) (hint : Hint) (s : State) : Host.Outcome State Fault Refusal :=
  run (.tdset xd handle rec hint) s fun s h =>
    match loadRecord (.tdset xd handle rec hint) hint s h (h.getX rec) 64 with
    | .trap t => .trap s t
    | .stall w => .stall w
    | .value s d _ =>
      match (s.part h.key.part).tdCheck h.key.part.val (h.getX handle) d with
      | .error z => answer s h xd z
      | .ok pa =>
        match s.writeWaits pa .package with
        | some w => .stall w
        | none => answer (s.writeOne h.key (h.ctx.via 255) 0 pa (leBytes 64 d) none false false) h xd 0

/-- tdget (R334). -/
def execTdget (d a b : Reg) (s : State) : Host.Outcome State Fault Refusal :=
  run (.tdget d a b) s fun s h =>
    let (base, len) := (s.part h.key.part).tdOf h.csr.asid
    let x := (h.getX a).toNat
    let n := (h.getX b).toNat
    .ok (s.modHart h.key fun g => g.setX d (if len ≤ x || 7 < n then 0 else s.readWord (base + 64 * x + 8 * n)))

/-! ### tlbinv (R328, R440) -/

/-- A page meets a range of addresses, taken modulo the 57 bits that a walk looks at; a length of 0 takes in every page. -/
def pageMeets (base len page size : Nat) : Bool :=
  len == 0 || [0, 2 ^ 57].any fun w => decide (base % 2 ^ 57 < page + w + size) && decide (page + w < base % 2 ^ 57 + len)

/-- The tlbinv covers a translation. -/
def TlbInv.covers (t : TlbInv) (own : Bool) (e : TlbEntry) : Bool :=
  own && e.part == t.part && (match t.asid with | none => true | some a => e.global || e.asid == a) && pageMeets t.base t.len e.vpage e.size

/-- The tlbinv covers an L1I line: its page and its asid (R472). -/
def TlbInv.coversLine (t : TlbInv) (own : Bool) (e : FetchLine) : Bool :=
  own && e.part == t.part && (match t.asid with | none => true | some a => e.asid == a) && pageMeets t.base t.len e.page e.size

/-- The asid of a tlbinv is the partition's. -/
def State.invOwns (s : State) (t : TlbInv) : Bool := match t.asid with | none => true | some a => (s.part t.part).ownsAsid a

/-- Cores whose islands are awake: an island is gated while no slot of it is occupied (R497). -/
def State.awakeCores (s : State) : List Nat :=
  let on := s.slots.filterMap fun x => if x.occupant.isSome then some (islandOf x.id.core) else none
  (List.range 848).filter fun c => on.contains (islandOf c)

/-- tlbinv (R328): its messages go to every core; it retires once each awake core has acknowledged. A sleeping core discards its
TLB at once, since it issues nothing before it would. -/
def execTlbinv (asid addr len : Reg) (all : Bool) (hint : Hint) (s : State) : Host.Outcome State Fault Refusal :=
  run (.tlbinv asid addr len all hint) s fun s h =>
    let a : Option (BitVec 10) := if all then none else some ((h.getX asid).setWidth 10)
    let base := (h.getX addr).toNat
    let n := (h.getX len).toNat
    match s.tlbinvs.find? fun t => t.hart == h.key && t.asid == a && t.base == base && t.len == n with
    | some t => if t.waiting.isEmpty then .ok { s with tlbinvs := s.tlbinvs.filter fun u => u.id != t.id } else .stall s
    | none =>
      let awake := s.awakeCores
      let t : TlbInv :=
        { id := (s.tlbinvs.foldl (fun m t => max m t.id) 0) + 1, hart := h.key, part := h.key.part, asid := a, base := base, len := n, waiting := awake }
      .stall { s with tlb := s.tlb.filter fun e => awake.contains e.core, l1i := s.l1i.filter fun e => awake.contains e.core, tlbinvs := s.tlbinvs ++ [t] }

/-- A core still performs accesses that were translated before (R441): queued ones, stores in a path, and the writes of a collective. -/
def State.coreBusy (s : State) (p : Fin 17) (core : Nat) : Bool :=
  (s.harts.any fun h =>
    h.key.part == p &&
    ((h.sched.slot.isSome && h.core == core && h.queue.any fun e => !e.paddrs.isEmpty) || h.path.any fun x => x.core == core)) ||
  s.colls.any fun c => c.part == p && c.started && c.members.any fun m => m.hart.isSome && m.core == core

/-- TLBINV_ACK (R440): a core that has performed what used the translations discards them and acknowledges. -/
def execTlbinvAck (id core : Nat) (s : State) : Host.Outcome State Fault Refusal :=
  match s.tlbinvs.find? fun t => t.id == id with
  | none => .next s
  | some t =>
    if !t.waiting.contains core || s.coreBusy t.part core then .next s
    else
      .next
        { s with
          tlb := s.tlb.filter fun e => !(e.core == core && t.covers (s.invOwns t) e)
          l1i := s.l1i.filter fun e => !(e.core == core && t.coversLine (s.invOwns t) e)
          tlbinvs := s.tlbinvs.map fun u => if u.id == id then { u with waiting := u.waiting.filter (· != core) } else u }

end Sys2Proof.Machine
end

