-- ==== Sys2Proof/Machine/Caches.lean ====
section
/-! DEFINITION. Cache maintenance of a range (R327), and the events of the region directories (R373 to R376, R387). -/

namespace Sys2Proof.Machine

/-! ### The checks of a range -/

/-- The lowest address of [b, b + n − 1] that is not canonical. -/
def nonCanonicalIn (b n : Nat) : Option Nat :=
  let a := max b (2 ^ 56)
  if a < b + n && decide (a < 2 ^ 64 - 2 ^ 56) then some a else none

/-- The failure of one page: reason and level. `perm` is the permission that is needed, if any. -/
def pageCheck (s : State) (c : Ctx) (va : Word) (perm : Option Need) : Except (Nat × Nat) Xlat :=
  match s.translate c va with
  | .error (.page r l) => .error (r, l)
  | .error (.vault _ _) => .error (0, 0)
  | .ok x =>
    match perm with
    | none => .ok x
    | some n =>
      if c.level = .m || permits x.entry.perm c.level n then .ok x else .error (1, x.entry.level)

/-- Every page of a range, lowest first: the translated pieces, or the lowest failing address. `fuel` bounds the pages. -/
def rangePages (s : State) (c : Ctx) (perm : Option Need) : Nat → Word → Nat → Except (Nat × Nat × Word) (List (Xlat × Nat))
  | 0, _, _ => .ok []
  | fuel + 1, va, n =>
    if n = 0 then .ok []
    else
      match pageCheck s c va perm with
      | .error (r, l) => .error (r, l, va)
      | .ok x =>
        let m := min n (4096 - va.toNat % 4096)
        match rangePages s c perm fuel (va + BitVec.ofNat 64 m) (n - m) with
        | .error e => .error e
        | .ok l => .ok ((x, m) :: l)

/-- The checks of R327 in their order: the pieces, or the trap. -/
def rangeCheck (s : State) (h : Hart) (b : Word) (n : Nat) (perm : Option Need) (write : Bool) : Except Trap (List (Xlat × Nat)) :=
  let trap := fun (r l : Nat) (a : Word) => Trap.scalar (if write then 0x07 else 0x06) (pageInfo r l write) a
  if 2 ^ 64 < b.toNat + n then .error (trap 2 0xFF b)
  else
    match nonCanonicalIn b.toNat n with
    | some a => .error (trap 2 0xFF (BitVec.ofNat 64 a))
    | none =>
      match rangePages s h.ctx perm (n / 4096 + 2) b n with
      | .error (r, l, a) => .error (trap r l a)
      | .ok l => .ok l

/-! ### The lines of a range (Table 12.5) -/

/-- What is done to a line. -/
inductive Treat where
  | inv | wb | flush
deriving DecidableEq, Repr

/-- The line belongs to the vault of a piece's page and meets the piece. -/
def Line.inPiece (l : Line) (p : Fin 17) (x : Xlat × Nat) : Bool :=
  l.ofVault p x.1.vault && x.1.vault != 255 && decide (l.tag < x.1.pa + x.2) && decide (x.1.pa < l.tag + 64 * l.sectors.length)

/-- The line lies wholly inside the piece. -/
def Line.within (l : Line) (x : Xlat × Nat) : Bool := decide (x.1.pa ≤ l.tag) && decide (l.tag + 64 * l.sectors.length ≤ x.1.pa + x.2)

/-- The memory value comes back under each dirty sector of a discarded line. -/
def State.discard (s : State) (l : Line) : State :=
  l.sectors.zipIdx.foldl (fun s x =>
    match x.1 with
    | .dirty old => (s.writeBytes (l.tag + 64 * x.2) old).endReservations (l.tag + 64 * x.2) 64
    | .clean => s
    | .invalid => s) s

/-- The host sectors that a line holds dirty become clean: E from M, S from O; `told` says that the host gets their data by DirtyEvict.
No row of Table 15.6 keeps a sector that it writes back, or drops a dirty one without write-back: both ways are the model's own (log 99). -/
def State.cleanHost (s : State) (l : Line) (told : Bool) : State :=
  (List.range l.sectors.length).foldl (fun s n =>
    let pa := l.tag + 64 * n
    let s' := if told then s.emit (.hostRequest (sectorOf pa) dirtyEvict) else s
    if !(l.sector pa).isDirty then s
    else
    match s.cxlState pa with
    | .m => s'.setCxl pa .e
    | .o => s'.setCxl pa .s
    | .i => s
    | .s => s
    | .e => s
    | .z => s) s

/-- One line is treated. -/
def State.treatLine (s : State) (t : Treat) (l : Line) (whole : Bool) : State :=
  match t with
  | .inv => (if whole then (s.discard l).cleanHost l false else s).dropLines fun m => m == l
  | .flush => s.dropLines fun m => m == l
  | .wb =>
    State.cleanHost
      { s with lines := s.lines.map fun m => if m == l then { m with sectors := m.sectors.map fun x => if x.isDirty then .clean else x } else m } l true

/-- The lines of a piece are treated; every other copy goes first, unless lines are kept. -/
def State.treatPiece (s : State) (p : Fin 17) (t : Treat) (x : Xlat × Nat) : State :=
  let meets := fun sec : Nat => decide (sec < x.1.pa + x.2) && decide (x.1.pa < sec + 64)
  let s :=
    if t == .wb || x.1.vault = 255 || !s.cached x.1.pa then s
    else State.dropL1 { s with stale := s.stale.filter fun e => !meets e.sector } fun _ sec => meets sec
  (s.lines.filter fun l => l.inPiece p x).foldl (fun s l => s.treatLine t l (l.within x)) s

/-- A dirty line of the range cannot be written back: an uncorrectable error is found in it. -/
def State.writeBackFails (s : State) (p : Fin 17) (t : Treat) (x : Xlat × Nat) : Bool :=
  s.lines.any fun l => l.inPiece p x && (t != .inv || !l.within x) && l.sectors.zipIdx.any fun y => y.1.isDirty && s.corrupted (l.tag + 64 * y.2)

/-- An older access of the hart that touches a range is not performed: in the path, in the queue, by a copy or by a collective (R327). -/
def State.rangeBusy (s : State) (h : Hart) (b : Word) (n : Nat) : Bool :=
  (h.path.any fun p => rangesMeet b.toNat n p.va.toNat p.bytes.length) || s.interlocked h b n || s.behind h b n true ||
  (withOlder [] h.queue).any fun x =>
    match x.1.touches x.2 s h with
    | none => true
    | some l => l.any fun t => rangesMeet b.toNat n t.2.1 t.2.2

/-- A write-back of a dirty line in a piece would not be performed at system scope yet: its region is closing, or a host has not given up what it held
before the write (R327, R376, R380). -/
def State.writeBackWaits (s : State) (p : Fin 17) (x : Xlat × Nat) : Bool :=
  s.lines.any fun l => l.inPiece p x && l.sectors.zipIdx.any fun y =>
    y.1.isDirty && ((s.region (regionOf l.tag)).closing.isSome || s.hostHeld.any fun g => g.sector == l.tag + 64 * y.2 && g.invalidating)

/-- cinv, cwb and cflush: the checks, the wait for older accesses, then the lines. MEMORY_ERROR reports the start of the piece of the range that lies on
the page of the failing line (log 93). -/
def maintain (i : Instr) (t : Treat) (a b : Reg) (s : State) (h : Hart) : Effect :=
  let n := (h.getX b).toNat
  let write := t == .inv
  let perm := if write then (if h.level == .t then some Need.store else none) else some Need.load
  if n = 0 then .ok s
  else
    match rangeCheck s h (h.getX a) n perm write with
    | .error tr => .trap s tr
    | .ok l =>
      if s.rangeBusy h (h.getX a) n || l.any (fun x => s.writeBackWaits h.key.part x) then .stall s
      else
        match release s h .package fun _ => true with
        | some w => .stall w
        | none =>
          let s := l.foldl (fun s x => s.fillTlb x.1) s
          match l.find? fun x => s.writeBackFails h.key.part t x with
          | some x => .trap s (memError i 0x42 x.1.va)
          | none => .ok (l.foldl (fun s x => s.treatPiece h.key.part t x) s)

/-- cinv (R327). -/
def execCinv (a b : Reg) (s : State) : Host.Outcome State Fault Refusal := run (.cinv a b) s (maintain (.cinv a b) .inv a b)

/-- cwb (R327). -/
def execCwb (a b : Reg) (s : State) : Host.Outcome State Fault Refusal := run (.cwb a b) s (maintain (.cwb a b) .wb a b)

/-- cflush (R327). -/
def execCflush (a b : Reg) (s : State) : Host.Outcome State Fault Refusal := run (.cflush a b) s (maintain (.cflush a b) .flush a b)

/-! ### Region directories -/

/-- The home die of a region is alive. -/
def State.regionAlive (s : State) (r : Nat) : Bool := (s.deadAt (r * 0x200000)).isNone

/-- REGION_REQUEST (R374): a request of a die reaches the entry of a region. -/
def execRegionRequest (addr : Nat) (die : Fin 6) (write : Bool) (s : State) : Host.Outcome State Fault Refusal :=
  if !s.regionAlive (regionOf addr) || !s.alive (.die die) then .next s
  else .next (if write then s.regionWrite addr die.val [die.val] else s.regionRead addr die.val)

/-- A die's lease on a region. -/
def Region.lease? (e : Region) (die : Nat) : Option Nat :=
  match e.state with
  | .r ls => ls.lookup die
  | .p _ => none
  | .f _ _ => none

/-- LEASE_EXPIRY (R375): a lease whose time has come ends. -/
def execLeaseExpiry (region : Nat) (die : Fin 6) (s : State) : Host.Outcome State Fault Refusal :=
  match (s.region region).lease? die.val with
  | some t => .next (if t ≤ s.time then s.endLease region die.val else s)
  | none => .next s

/-- LEASE_RECALL_ACK (R375): a recalled die has dropped its copies, and its lease ends. That of a dead die is dropped (R382). -/
def execLeaseRecallAck (region : Nat) (die : Fin 6) (s : State) : Host.Outcome State Fault Refusal :=
  .next (if s.alive (.die die) && (s.region region).recalled.contains die.val then s.endLease region die.val else s)

/-- Dies that hold a copy of some sector of a region. -/
def State.holdersOf (s : State) (r : Nat) : List Nat :=
  dedup ((s.lines.filter fun l => regionOf l.tag == r && l.sectors.any Sector.isValid).map (fun l => dieOfSlice l.slice) ++
    ((s.l1d.filter fun e => regionOf e.2 == r).map fun e => dieOf e.1) ++ (s.l1i.filter fun e => regionOf e.pa == r).map fun e => dieOf e.core)

/-- The copies of a region on dies other than one are written back and invalidated. -/
def State.gatherRegion (s : State) (r die : Nat) : State :=
  let s := s.dropLines fun l => regionOf l.tag == r && dieOfSlice l.slice != die
  s.dropL1 fun c sec => regionOf sec == r && dieOf c != die

/-- Where a decay takes a region in F, if it takes it anywhere (Table 15.3, R387). -/
def State.decayTo (s : State) (r : Nat) : Option Nat :=
  let e := s.region r
  let home := homeDie (r * 0x200000)
  let live := fun u : Nat => if h : u < 6 then (if s.alive (.die ⟨u, h⟩) then u else home) else home
  match e.state with
  | .f _ _ =>
    if s.time < e.decayFrom + 1000000 || !s.regionAlive r || inHost (r * 0x200000) then none
    else
      match e.askers with
      | [u] => some (live u)
      | [] =>
        match s.holdersOf r with
        | [] => some home
        | [u] => some (live u)
        | _ :: _ :: _ => none
      | _ :: _ :: _ => none
  | .p _ => none
  | .r _ => none

/-- REGION_DECAY (R374). -/
def execRegionDecay (region : Nat) (s : State) : Host.Outcome State Fault Refusal :=
  match s.decayTo region with
  | none => .next s
  | some u =>
    .next ((s.gatherRegion region u).putRegion { s.region region with state := .p u, askers := [], decayFrom := s.time, closing := none, recalled := [], covered := [] })

end Sys2Proof.Machine
end

