-- ==== Sys2Proof/Machine/Hostq.lean ====
section
/-! DEFINITION. Host launch queues, doorbells, host registers and network launch packets (R397 to R403, R447, R7). -/

namespace Sys2Proof.Machine

/-- The host ports have trained, so that host registers can be written (R503, Table 22.3), and Keystone is alive (R384). -/
def State.hostUp (s : State) : Bool := !s.fw.recovery && s.fw.mainPower && decide (5 ≤ s.fw.step) && s.alive (.die 0)

/-! ### Registers of a queue (R397, R400, R401) -/

/-- A write of QBASE, ignored while the queue is enabled. -/
def HostQueue.writeBase (q : HostQueue) (v : Word) : HostQueue := if q.en then q else { q with qbase := v &&& ~~~ (0xFFF : Word) }

/-- A write of QCTL that port `port` carries: EN 1 over EN 0 enables the queue and binds it, and sets TAIL, PROG and ERR to 0; a ring size
outside 4 .. 12 sets ERR, and EN stays 0. -/
def HostQueue.writeCtl (q : HostQueue) (port : Fin 2) (v : Word) : HostQueue :=
  let size := bitsOf v.toNat 4 1
  if q.en then { q with en := v.getLsbD 0 }
  else if !v.getLsbD 0 then { q with sizeLog := size }
  else
    let good := decide (4 ≤ size) && decide (size ≤ 12)
    { q with sizeLog := size, tail := 0, prog := 0, err := !good, en := good, port := port }

/-- Commands that the queue holds (R400). -/
def HostQueue.held (q : HostQueue) : Nat := (q.tail - q.prog).toNat

/-- A write of TAIL: a count above the ring's size sets ERR. -/
def HostQueue.writeTail (q : HostQueue) (v : Word) : HostQueue :=
  let q := { q with tail := v.setWidth 32 }
  { q with err := q.err || decide (2 ^ q.sizeLog < q.held) }

/-- The state with a queue of a partition changed. -/
def State.modQueue (s : State) (p : Fin 16) (q : Fin 4) (f : HostQueue → HostQueue) : State :=
  s.modPart (partNo p) fun x => { x with queues := x.queues.set q (f x.queues[q]) }

/-- Queue registers latch their writes: the partition is switched out, or not yet started (R401, R510). -/
def Part.latches (p : Part) : Bool := p.state == .created || p.state == .swapped

/-- A register write reaches its queue, or is latched; a partition that does not exist has no queue (log 15). -/
def State.queueWrite (s : State) (p : Fin 16) (q : Fin 4) (now latch : HostQueue → HostQueue) : State :=
  let x := s.part (partNo p)
  if x.latches then s.modQueue p q latch else if x.state == .running then s.modQueue p q now else s

/-- The latched writes of a queue are applied: QBASE, then QCTL, then TAIL; PROG reads true again (R401). -/
def HostQueue.applyLatched (q : HostQueue) : HostQueue :=
  let q := match q.latchBase with | some v => q.writeBase v | none => q
  let q := match q.latchCtl with | some (v, port) => q.writeCtl port v | none => q
  let q := match q.latchTail with | some v => q.writeTail v | none => q
  { q with latchBase := none, latchCtl := none, latchTail := none, frozen := none }

/-- QCTL_WRITE (R397); what a dead port still brings is dropped (R382). -/
def execQctlWrite (p : Fin 16) (q : Fin 4) (port : Fin 2) (v : Word) (s : State) : Host.Outcome State Fault Refusal :=
  .next (if s.alive (.port port) then s.queueWrite p q (fun x => x.writeCtl port v) fun x => { x with latchCtl := some (v, port) } else s)

/-- Some host port is alive; a write that names none is the write of a port that is (R382, log 88). -/
def State.anyPort (s : State) : Bool := s.alive (.port 0) || s.alive (.port 1)

/-- TAIL_WRITE (R400). -/
def execTailWrite (p : Fin 16) (q : Fin 4) (v : Word) (s : State) : Host.Outcome State Fault Refusal :=
  .next (if s.anyPort then s.queueWrite p q (fun x => x.writeTail v) fun x => { x with latchTail := some v } else s)

/-- A write of FEATREQ (R464): it selects features until the first partition starts. -/
def State.writeFeatreq (s : State) (v : Word) : State := if s.featClosed || !s.hostUp then s else { s with featReq := v.setWidth 6 }

/-- BUSY of PCMD (Table 22.6). -/
def busyBit : Word := BitVec.twoPow 64 63

/-- A partition command is under way. -/
def State.commandBusy (s : State) : Bool := s.pcmd &&& busyBit != 0

/-- A write of PCMD (R509): while BUSY is 0 it names a command and sets BUSY. -/
def State.writePcmd (s : State) (v : Word) : State := if s.commandBusy then s else { s with pcmd := (v &&& 0xFFF) ||| busyBit }

/-- AtomicOp Requester Enable in PCIe Device Control 2 (R165): bit 6, as the PCIe specification has it (log 36). -/
def State.writeDevctl2 (s : State) (n : Fin 2) (v : Word) : State :=
  { s with ports := s.ports.set n { s.ports[n] with atomicEnable := v.getLsbD 6 } }

/-- REGISTER_WRITE (R7): registers take what their fields allow; a write of an RO register or of any other offset has no effect. -/
def execRegisterWrite (r : HostReg) (v : Word) (s : State) : Host.Outcome State Fault Refusal :=
  if !s.hostUp || !s.anyPort then .next s
  else
  match r with
  | .qbase p q => .next (s.queueWrite p q (fun x => x.writeBase v) fun x => { x with latchBase := some v })
  | .pcmd => .next (s.writePcmd v)
  | .parg => .next { s with parg := v }
  | .pstat => .next s
  | .pterm => .next { s with pterm := s.pterm &&& ~~~ v.setWidth 16 }
  | .featsup => .next s
  | .featreq => .next (s.writeFeatreq v)
  | .devctl2 n => .next (s.writeDevctl2 n v)
  | .other _ => .next s

/-! ### Reads of BAR0 (R7) -/

/-- What a host reads at an offset of PF0's BAR0 (Tables 19.2 and 22.6); reserved offsets read 0. -/
def State.pf0Read (s : State) (offset : Nat) : Word :=
  match offset with
  | 0x100 => 0x3F
  | 0x108 => zext64 s.featReq
  | 0x200 => s.pcmd
  | 0x208 => s.parg
  | 0x210 => zext64 s.pstat
  | 0x218 => zext64 s.pterm
  | _ => 0

/-- What a host reads of a queue's registers (Tables 16.4 and 16.5): PROG is frozen while the partition is switched out (R401). -/
def HostQueue.read (q : HostQueue) (offset : Nat) : Word :=
  match offset with
  | 0x00 => q.qbase
  | 0x08 => BitVec.ofNat 64 ((if q.en then 1 else 0) + 2 * q.sizeLog + (if q.err then 256 else 0))
  | 0x10 => zext64 q.tail
  | 0x18 => zext64 (q.frozen.getD q.prog)
  | _ => 0

/-- The partition that virtual function VFn serves: n − 1 for VF1 to VF16 (Table 16.3). -/
def functionPart (n : Nat) : Option (Fin 16) := if h : 1 ≤ n ∧ n ≤ 16 then some ⟨n - 1, by omega⟩ else none

/-- What a host reads at an offset of BAR0 of VFn: the four queues of its partition; DOORBELL is WO and reads 0. -/
def State.functionRead (s : State) (n offset : Nat) : Word :=
  match functionPart n with
  | some p =>
    if 0x1000 ≤ offset && offset < 0x1100 then
      (s.part (partNo p)).queues[Fin.ofNat 4 ((offset - 0x1000) / 0x40)].read ((offset - 0x1000) % 0x40)
    else 0
  | none => 0

/-! ### Commands (R398, R399) -/

/-- Physical address of a host address behind a port (Table 14.8). -/
def hostPa (port : Fin 2) (a : Nat) : Nat := 0x80000000000000 + port.val * 0x40000000000000 + a

/-- `n` bytes that the device reads at a host address; none beyond its reach or behind a dead port. -/
def State.hostRead (s : State) (port : Fin 2) (a n : Nat) : Option Nat :=
  if a + n ≤ 2 ^ 54 && s.alive (.port port) then some (s.readNat (hostPa port a) n) else none

/-- A command of Table 16.6. -/
structure Command where
  op : Nat
  index : Nat
  arg : Word
  good : Bool
deriving DecidableEq, Repr

/-- The command in 64 bytes; a reserved bit or an unknown OP makes it bad. -/
def Command.ofNat (n : Nat) : Command :=
  { op := bitsOf n 87 80, index := bitsOf n 79 64, arg := BitVec.ofNat 64 n,
    good := decide (bitsOf n 87 80 ≤ 3) && bitsOf n 95 88 == 0 && bitsOf n 511 192 == 0 }

/-- The queue executes commands: it is enabled and not stopped, its partition is switched in, and it holds one. -/
def State.queueRuns (s : State) (p : Fin 16) (q : Fin 4) : Bool :=
  let x := (s.part (partNo p)).queues[q]
  (s.part (partNo p)).state == .running && x.en && !x.err && decide (0 < x.held)

/-- Host address of the next command. -/
def HostQueue.next (q : HostQueue) : Nat := q.qbase.toNat + 64 * (q.prog.toNat % 2 ^ q.sizeLog)

/-- The next command; none where the device's read of it fails. -/
def State.command (s : State) (p : Fin 16) (q : Fin 4) : Option Command :=
  let x := (s.part (partNo p)).queues[q]
  (s.hostRead x.port x.next 64).map Command.ofNat

/-- Where the device's own accesses for a partition come from: Keystone, through no vault. -/
def deviceVia (p : Fin 16) : Via := { core := 0, home := 0, part := partNo p, vault := 255 }

/-- The command is done: STATUS and HANDLE are written, and PROG moves on (R399). -/
def State.endCommand (s : State) (p : Fin 16) (q : Fin 4) (status : Int) (handle : Half) : State :=
  let x := (s.part (partNo p)).queues[q]
  let bs := leBytes 4 (BitVec.ofInt 32 status).toNat ++ leBytes 8 handle.toNat
  let s := s.storeSector (deviceVia p) (hostPa x.port x.next + 12) bs none false false
  let s := if s.ports[x.port].cxl then s.emit (.hostRequest (sectorOf (hostPa x.port x.next)) wrCur) else s
  s.modQueue p q fun y => { y with prog := y.prog + 1 }

/-- A read failed: the queue stops with ERR, and nothing of the command is done (R399). -/
def State.failCommand (s : State) (p : Fin 16) (q : Fin 4) : State := s.modQueue p q fun y => { y with err := true }

/-- Executes the next command of a queue where it is one that the event names. `body` gives its status and handle, or none
where the read of its record fails. -/
def runCommand (p : Fin 16) (q : Fin 4) (readOk : Bool) (is : Command → Bool) (body : State → Command → Option (State × Int × Half))
    (s : State) : Host.Outcome State Fault Refusal :=
  if !s.queueRuns p q then .next s
  else
    match s.command p q with
    | none => .next (s.failCommand p q)
    | some c =>
      if !is c then .next s
      else if !readOk then .next (s.failCommand p q)
      else
        match body s c with
        | none => .next (s.failCommand p q)
        | some (s, status, handle) => .next (s.endCommand p q status handle)

/-- NOP (R398). -/
def execNop (p : Fin 16) (q : Fin 4) (readOk : Bool) (s : State) : Host.Outcome State Fault Refusal :=
  runCommand p q readOk (fun c => c.good && c.op == 0) (fun s _ => some (s, 0, 0)) s

/-- LAUNCH (R398, R313): a task at depth 0, with distance measured from core 0 (R414). -/
def execHqLaunch (p : Fin 16) (q : Fin 4) (readOk : Bool) (s : State) : Host.Outcome State Fault Refusal :=
  runCommand p q readOk (fun c => c.good && c.op == 1) (fun s c =>
    match (s.part (partNo p)).launchCheck c.index 0 true with
    | .error z => some (s, z, 0)
    | .ok e =>
      let (s, hd) := s.newTask (partNo p) .outside c.index e 0 c.arg 0
      some (s, 0, hd)) s

/-- The partition with an entry-table record written. -/
def Part.setEntry (p : Part) (i : Nat) (e : EntryRec) : Part := { p with entries := (i, e) :: p.entries.filter fun x => x.1 != i }

/-- The record in 32 bytes. -/
def EntryRec.ofNat (n : Nat) : EntryRec :=
  { code := BitVec.ofNat 64 n, word := BitVec.ofNat 64 (n / 2 ^ 64), rsv0 := BitVec.ofNat 64 (n / 2 ^ 128), rsv1 := BitVec.ofNat 64 (n / 2 ^ 192) }

/-- ENTRY_WRITE (R398): the record is written as read. -/
def execEntryWrite (p : Fin 16) (q : Fin 4) (readOk : Bool) (s : State) : Host.Outcome State Fault Refusal :=
  runCommand p q readOk (fun c => c.good && c.op == 2) (fun s c =>
    if 4096 ≤ c.index then some (s, -3, 0)
    else
      (s.hostRead ((s.part (partNo p)).queues[q]).port c.arg.toNat 32).map fun n =>
        (s.modPart (partNo p) fun x => x.setEntry c.index (EntryRec.ofNat n), 0, 0)) s

/-- TD_WRITE (R398, R331): a tensor descriptor, with the codes of tdset. -/
def execTdWrite (p : Fin 16) (q : Fin 4) (readOk : Bool) (s : State) : Host.Outcome State Fault Refusal :=
  runCommand p q readOk (fun c => c.good && c.op == 3) (fun s c =>
    (s.hostRead ((s.part (partNo p)).queues[q]).port c.arg.toNat 64).map fun d =>
      match (s.part (partNo p)).tdCheck p.val (BitVec.ofNat 64 c.index) d with
      | .error z => (s, (z : Int), 0)
      | .ok pa => (s.storeSector (deviceVia p) pa (leBytes 64 d) none false false, 0, 0)) s

/-- BAD_COMMAND (R398): an unknown OP or a reserved bit gives −7 and does nothing else. -/
def execBadCommand (p : Fin 16) (q : Fin 4) (readOk : Bool) (s : State) : Host.Outcome State Fault Refusal :=
  runCommand p q readOk (fun c => !c.good) (fun s _ => some (s, -7, 0)) s

/-! ### Doorbell and network launches -/

/-- DOORBELL (R447): bits 31:0 name the hart of the partition on which source 0x02 is raised. -/
def execDoorbell (p : Fin 16) (v : Word) (s : State) : Host.Outcome State Fault Refusal :=
  .next (if s.anyPort then s.raise { part := partNo p, id := v.toNat % 2 ^ 32 } 2 else s)

/-- NET_LAUNCH_PACKET (R403): the checks in the order of Table 16.9, reason 7 first, and one residency report. -/
def execNetLaunchPacket (p : Fin 16) (bytes : List Byte) (s : State) : Host.Outcome State Fault Refusal :=
  let x := s.part (partNo p)
  let refuse := fun reason : Nat => Host.Outcome.next (s.emit (.residency p.val 2 reason))
  let n := leNat bytes
  if x.state == .absent || x.state == .terminated then refuse 7
  else if bytes.length ≠ 16 || bitsOf n 63 12 != 0 then refuse 1
  else
    let i := bitsOf n 11 0
    match x.entry? i with
    | none => refuse 2
    | some e =>
      if !e.remote then refuse 3
      else if e.depth = 0 then refuse 4
      else if !x.ctl.holdsClass e.cls then refuse 5
      else if 8192 ≤ x.tasks.length then refuse 6
      else
        let (t, _) := s.newTask (partNo p) .outside i e 1 (BitVec.ofNat 64 (n / 2 ^ 64)) 0
        .next (t.emit (.residency p.val (if x.state == .running then 0 else 1) 0))

end Sys2Proof.Machine
end

