-- ==== Sys2Proof/Machine/VecInt.lean ====
section
/-! DEFINITION. Vector length, integer arithmetic, compares, merges and moves (R173, R189 to R195). Each instruction enters the
queue when it executes (`exec…`) and takes effect when its entry issues (`issue…`). -/

namespace Sys2Proof.Machine

/-- The value of element bits as an integer of the format. -/
def ival (f : Fmt) (b : Nat) : Int := intVal f b

/-- vdiv: the quotient at the format's width (R189). -/
def vdivOf (f : Fmt) (a b : Int) : Int :=
  if b = 0 then -1
  else if f.isSigned && a == -(2 ^ (bitsW f - 1) : Nat) && b == -1 then a
  else a.tdiv b

/-- vrem: the remainder. -/
def vremOf (f : Fmt) (a b : Int) : Int :=
  if b = 0 then a
  else if f.isSigned && a == -(2 ^ (bitsW f - 1) : Nat) && b == -1 then 0
  else a - b * a.tdiv b

/-- An integer relation (R192); the last two codes belong to vfcmp. -/
def icmp (c : Cond) (a b : Int) : Bool :=
  match c with
  | .eq => a == b | .ne => a != b | .lt => decide (a < b) | .le => decide (a ≤ b) | .gt => decide (b < a) | .ge => decide (b ≤ a)
  | .un => false | .ord => true

/-- A binary integer instruction (R189): `g` on the elements' bits. -/
def intBinary (o : VBin) (g : Nat → Nat → Nat) (s : State) (j : Job) : Issue :=
  elementwise s j o.vd (o.vs1 :: src2V o.src2) o.k o.fmt (isWide o.fmt) fun x e => (g (elemBits o.fmt x.v[o.vs1] e) (j.second x o.fmt o.src2 e), 0)

/-- A unary one (R190). -/
def intUnary (o : VUn) (g : Int → Int) (s : State) (j : Job) : Issue :=
  elementwise s j o.vd [o.vs1] o.k o.fmt (isWide o.fmt) fun x e => (intBits o.fmt (g (ival o.fmt (elemBits o.fmt x.v[o.vs1] e))), 0)

/-- setvl (R173): the grant, in elements. -/
def grantVl (req : Nat) (wide : Bool) (lanes : Nat) : Nat := min req (min (vlmax wide) (if wide then lanes / 2 else lanes))

/-- setvl (R173). -/
def execSetvl (o : SetLen) (s : State) : Host.Outcome State Fault Refusal :=
  run (.setvl o) s fun s h =>
    let lanes := match h.sched.slot with | some i => (s.slot i).lanes | none => 0
    let vl := grantVl (h.getX o.req).toNat (isWide o.fmt) lanes
    .ok (s.modHart h.key fun g => ({ g with csr := { g.csr with vl := BitVec.ofNat 10 vl, vtype := o.fmt.code } }).setX o.xd (BitVec.ofNat 64 vl))

/-- The value of element bits read signed, for .i and .n alike (vsra). -/
def sval (f : Fmt) (b : Nat) : Int := if b.testBit (bitsW f - 1) then (b : Int) - (2 ^ bitsW f : Nat) else b

/-- vadd (R189): a + b. -/
def execVadd (o : VBin) (s : State) : Host.Outcome State Fault Refusal := run (.vadd o) s fun s h => commitVec (.vadd o) (h.scalar2 o.fmt o.src2) 0 0 s h

/-- The effect of vadd: a + b (Table 7.6). -/
def issueVadd (o : VBin) (s : State) (j : Job) : Issue := intBinary o (fun a b => (a + b) % 2 ^ bitsW o.fmt) s j

/-- vsub (R189): a − b. -/
def execVsub (o : VBin) (s : State) : Host.Outcome State Fault Refusal := run (.vsub o) s fun s h => commitVec (.vsub o) (h.scalar2 o.fmt o.src2) 0 0 s h

/-- The effect of vsub: a − b (Table 7.6). -/
def issueVsub (o : VBin) (s : State) (j : Job) : Issue := intBinary o (fun a b => (a + 2 ^ bitsW o.fmt - b) % 2 ^ bitsW o.fmt) s j

/-- vmul (R189): a × b. -/
def execVmul (o : VBin) (s : State) : Host.Outcome State Fault Refusal := run (.vmul o) s fun s h => commitVec (.vmul o) (h.scalar2 o.fmt o.src2) 0 0 s h

/-- The effect of vmul: a × b (Table 7.6). -/
def issueVmul (o : VBin) (s : State) (j : Job) : Issue := intBinary o (fun a b => a * b % 2 ^ bitsW o.fmt) s j

/-- vmulh (R189): the high half of a × b. -/
def execVmulh (o : VBin) (s : State) : Host.Outcome State Fault Refusal := run (.vmulh o) s fun s h => commitVec (.vmulh o) (h.scalar2 o.fmt o.src2) 0 0 s h

/-- The effect of vmulh: the high half of a × b (Table 7.6). -/
def issueVmulh (o : VBin) (s : State) (j : Job) : Issue := intBinary o (fun a b => intBits o.fmt (ival o.fmt a * ival o.fmt b / (2 ^ bitsW o.fmt : Nat))) s j

/-- vdiv (R189): the quotient. -/
def execVdiv (o : VBin) (s : State) : Host.Outcome State Fault Refusal := run (.vdiv o) s fun s h => commitVec (.vdiv o) (h.scalar2 o.fmt o.src2) 0 0 s h

/-- The effect of vdiv: the quotient (Table 7.6). -/
def issueVdiv (o : VBin) (s : State) (j : Job) : Issue := intBinary o (fun a b => intBits o.fmt (vdivOf o.fmt (ival o.fmt a) (ival o.fmt b))) s j

/-- vrem (R189): the remainder. -/
def execVrem (o : VBin) (s : State) : Host.Outcome State Fault Refusal := run (.vrem o) s fun s h => commitVec (.vrem o) (h.scalar2 o.fmt o.src2) 0 0 s h

/-- The effect of vrem: the remainder (Table 7.6). -/
def issueVrem (o : VBin) (s : State) (j : Job) : Issue := intBinary o (fun a b => intBits o.fmt (vremOf o.fmt (ival o.fmt a) (ival o.fmt b))) s j

/-- vmin (R189): the lesser. -/
def execVmin (o : VBin) (s : State) : Host.Outcome State Fault Refusal := run (.vmin o) s fun s h => commitVec (.vmin o) (h.scalar2 o.fmt o.src2) 0 0 s h

/-- The effect of vmin: the lesser (Table 7.6). -/
def issueVmin (o : VBin) (s : State) (j : Job) : Issue := intBinary o (fun a b => if ival o.fmt b < ival o.fmt a then b else a) s j

/-- vmax (R189): the greater. -/
def execVmax (o : VBin) (s : State) : Host.Outcome State Fault Refusal := run (.vmax o) s fun s h => commitVec (.vmax o) (h.scalar2 o.fmt o.src2) 0 0 s h

/-- The effect of vmax: the greater (Table 7.6). -/
def issueVmax (o : VBin) (s : State) (j : Job) : Issue := intBinary o (fun a b => if ival o.fmt a < ival o.fmt b then b else a) s j

/-- vand (R189): bitwise and. -/
def execVand (o : VBin) (s : State) : Host.Outcome State Fault Refusal := run (.vand o) s fun s h => commitVec (.vand o) (h.scalar2 o.fmt o.src2) 0 0 s h

/-- The effect of vand: bitwise and (Table 7.6). -/
def issueVand (o : VBin) (s : State) (j : Job) : Issue := intBinary o (fun a b => a &&& b) s j

/-- vor (R189): bitwise or. -/
def execVor (o : VBin) (s : State) : Host.Outcome State Fault Refusal := run (.vor o) s fun s h => commitVec (.vor o) (h.scalar2 o.fmt o.src2) 0 0 s h

/-- The effect of vor: bitwise or (Table 7.6). -/
def issueVor (o : VBin) (s : State) (j : Job) : Issue := intBinary o (fun a b => a ||| b) s j

/-- vxor (R189): bitwise exclusive or. -/
def execVxor (o : VBin) (s : State) : Host.Outcome State Fault Refusal := run (.vxor o) s fun s h => commitVec (.vxor o) (h.scalar2 o.fmt o.src2) 0 0 s h

/-- The effect of vxor: bitwise exclusive or (Table 7.6). -/
def issueVxor (o : VBin) (s : State) (j : Job) : Issue := intBinary o (fun a b => a ^^^ b) s j

/-- vsll (R189): a shifted left. -/
def execVsll (o : VBin) (s : State) : Host.Outcome State Fault Refusal := run (.vsll o) s fun s h => commitVec (.vsll o) (h.scalar2 o.fmt o.src2) 0 0 s h

/-- The effect of vsll: a shifted left (Table 7.6). -/
def issueVsll (o : VBin) (s : State) (j : Job) : Issue := intBinary o (fun a b => a * 2 ^ (b % bitsW o.fmt) % 2 ^ bitsW o.fmt) s j

/-- vsrl (R189): a shifted right, zeros entering. -/
def execVsrl (o : VBin) (s : State) : Host.Outcome State Fault Refusal := run (.vsrl o) s fun s h => commitVec (.vsrl o) (h.scalar2 o.fmt o.src2) 0 0 s h

/-- The effect of vsrl: a shifted right, zeros entering (Table 7.6). -/
def issueVsrl (o : VBin) (s : State) (j : Job) : Issue := intBinary o (fun a b => a / 2 ^ (b % bitsW o.fmt)) s j

/-- vsra (R189): a shifted right, its sign entering. -/
def execVsra (o : VBin) (s : State) : Host.Outcome State Fault Refusal := run (.vsra o) s fun s h => commitVec (.vsra o) (h.scalar2 o.fmt o.src2) 0 0 s h

/-- The effect of vsra: a shifted right, its sign entering (Table 7.6). -/
def issueVsra (o : VBin) (s : State) (j : Job) : Issue := intBinary o (fun a b => intBits o.fmt (sval o.fmt a / (2 ^ (b % bitsW o.fmt) : Nat))) s j

/-- vabs (R190): absolute value. -/
def execVabs (o : VUn) (s : State) : Host.Outcome State Fault Refusal := run (.vabs o) s fun s h => commitVec (.vabs o) 0 0 0 s h

/-- The effect of vabs. -/
def issueVabs (o : VUn) (s : State) (j : Job) : Issue := intUnary o (fun a => (a.natAbs : Int)) s j

/-- vneg (R190): negation. -/
def execVneg (o : VUn) (s : State) : Host.Outcome State Fault Refusal := run (.vneg o) s fun s h => commitVec (.vneg o) 0 0 0 s h

/-- The effect of vneg. -/
def issueVneg (o : VUn) (s : State) (j : Job) : Issue := intUnary o (fun a => -a) s j

/-- vcmp (R192): compare into a mask. -/
def execVcmp (o : VCmp) (s : State) : Host.Outcome State Fault Refusal := run (.vcmp o) s fun s h => commitVec (.vcmp o) (h.scalar2 o.fmt o.src2) 0 0 s h

/-- The effect of vcmp. -/
def issueVcmp (o : VCmp) (s : State) (j : Job) : Issue :=
  compareInto s j o.kd (o.vs1 :: src2V o.src2) o.k o.fmt fun x e =>
    (icmp o.cond (ival o.fmt (elemBits o.fmt x.v[o.vs1] e)) (ival o.fmt (j.second x o.fmt o.src2 e)), 0)

/-- vmerge (R193): merge under a mask. -/
def execVmerge (o : VBin) (s : State) : Host.Outcome State Fault Refusal := run (.vmerge o) s fun s h => commitVec (.vmerge o) (h.scalar2 o.fmt o.src2) 0 0 s h

/-- The whole containers of element `e` of the second source: a vector's unchanged, a broadcast as it is written. -/
def Job.secondWhole (j : Job) (x : Slot) (f : Fmt) (s2 : Src2) (e : Nat) : Nat :=
  match s2 with
  | .vec r => wholeElem (isWide f) x.v[r] e
  | .scal _ => if isWide f then j.second x f s2 e else (narrow f (j.second x f s2 e)).toNat

/-- The effect of vmerge: no element is inactive. -/
def issueVmerge (o : VBin) (s : State) (j : Job) : Issue :=
  movement s j o.vd (o.vs1 :: src2V o.src2) o.k o.fmt fun x e =>
    if e < j.entry.elem.toNat then none
    else some (if x.on o.k e then j.secondWhole x o.fmt o.src2 e else wholeElem (isWide o.fmt) x.v[o.vs1] e)

/-- vmv (R194): vector move. -/
def execVmv (o : VUn) (s : State) : Host.Outcome State Fault Refusal := run (.vmv o) s fun s h => commitVec (.vmv o) 0 0 0 s h

/-- The effect of vmv. -/
def issueVmv (o : VUn) (s : State) (j : Job) : Issue :=
  movement s j o.vd [o.vs1] o.k o.fmt fun x e =>
    if j.entry.elem.toNat ≤ e && x.on o.k e then some (wholeElem (isWide o.fmt) x.v[o.vs1] e) else none

/-- vmvx (R195): move one element to an x register. -/
def execVmvx (o : VExt) (s : State) : Host.Outcome State Fault Refusal := run (.vmvx o) s fun s h => commitVec (.vmvx o) (h.getX o.xs) 0 0 s h

/-- The effect of vmvx: element x[xs] at the format, or 0 where it is out of range or masked. -/
def issueVmvx (o : VExt) (s : State) (j : Job) : Issue :=
  let s := s.pull j.slot j.hart [o.vs1] [o.k]
  let x := s.slot j.slot
  let i := j.entry.opa.toNat
  let r := if decide (vlmax (isWide o.fmt) ≤ i) || !x.on o.k i then 0 else elemBits o.fmt x.v[o.vs1] i
  .done s (some (if o.fmt.isSigned then BitVec.ofInt 64 (intVal o.fmt r) else BitVec.ofNat 64 r))

/-- vid (R191): element index. -/
def execVid (o : VIdx) (s : State) : Host.Outcome State Fault Refusal := run (.vid o) s fun s h => commitVec (.vid o) 0 0 0 s h

/-- The effect of vid. -/
def issueVid (o : VIdx) (s : State) (j : Job) : Issue := elementwise s j o.vd [] o.k o.fmt (isWide o.fmt) fun _ e => (e, 0)

end Sys2Proof.Machine
end

