-- ==== Sys2Proof/Machine/Queue.lean ====
section
/-! DEFINITION. The vector queue at work: an entry issues, memory answers it, its timer ends (R31, R209 to R212, R232, R245), and the
traps that no instruction asks for (R62, R318, R447). -/

namespace Sys2Proof.Machine

/-! ### One entry -/

/-- What an entry does when it issues. -/
def issueEntry (i : Instr) (s : State) (j : Job) : Issue :=
  match i with
  | .vadd o => issueVadd o s j
  | .vsub o => issueVsub o s j
  | .vmul o => issueVmul o s j
  | .vmulh o => issueVmulh o s j
  | .vdiv o => issueVdiv o s j
  | .vrem o => issueVrem o s j
  | .vmin o => issueVmin o s j
  | .vmax o => issueVmax o s j
  | .vand o => issueVand o s j
  | .vor o => issueVor o s j
  | .vxor o => issueVxor o s j
  | .vsll o => issueVsll o s j
  | .vsrl o => issueVsrl o s j
  | .vsra o => issueVsra o s j
  | .vabs o => issueVabs o s j
  | .vneg o => issueVneg o s j
  | .vcmp o => issueVcmp o s j
  | .vmerge o => issueVmerge o s j
  | .vmv o => issueVmv o s j
  | .vmvx o => issueVmvx o s j
  | .vid o => issueVid o s j
  | .vfadd o => issueVfadd o s j
  | .vfsub o => issueVfsub o s j
  | .vfmul o => issueVfmul o s j
  | .vfdiv o => issueVfdiv o s j
  | .vfsqrt o => issueVfsqrt o s j
  | .vfma o => issueVfma o s j
  | .vfms o => issueVfms o s j
  | .vfnma o => issueVfnma o s j
  | .vfmin o => issueVfmin o s j
  | .vfmax o => issueVfmax o s j
  | .vfabs o => issueVfabs o s j
  | .vfneg o => issueVfneg o s j
  | .vfcmp o => issueVfcmp o s j
  | .vfcvt o => issueVfcvt o s j
  | .vld o => issueVld o s j
  | .vlds o => issueVlds o s j
  | .vldx o => issueVldx o s j
  | .vld_st o => issueVldSt o s j
  | .vst o => issueVst o s j
  | .vsts o => issueVsts o s j
  | .vstx o => issueVstx o s j
  | .kand kd ka kb _ => issueKand kd ka kb s j
  | .kor kd ka kb _ => issueKor kd ka kb s j
  | .kxor kd ka kb _ => issueKxor kd ka kb s j
  | .knot kd ka _ => issueKnot kd ka s j
  | .kpopc _ ka _ => issueKpopc ka s j
  | .kfirst _ ka _ => issueKfirst ka s j
  | .kset kd _ _ => issueKset kd s j
  | .vslideup o => issueVslideup o s j
  | .vslidedn o => issueVslidedn o s j
  | .vperm o => issueVperm o s j
  | .vcompress o => issueVcompress o s j
  | .vexpand o => issueVexpand o s j
  | .vredsum o => issueVredsum o s j
  | .vredosum o => issueVredosum o s j
  | .vredmax o => issueVredmax o s j
  | .vredq o => issueVredq o s j
  | .vredmin o => issueVredmin o s j
  | .vredand o => issueVredand o s j
  | .vredor o => issueVredor o s j
  | .vexp2 o => issueVexp2 o s j
  | .vrcp o => issueVrcp o s j
  | .vlog2 o => issueVlog2 o s j
  | .vrsqrt o => issueVrsqrt o s j
  | .vsinpi o => issueVsinpi o s j
  | .vcospi o => issueVcospi o s j
  | .mopa o => issueMopa o s j
  | .mopa4 o => issueMopa4 o s j
  | .mopas o => issueMopas o s j
  | .mzero md _ => issueMzero md s j
  | .mld o => issueMld o s j
  | .mst o => issueMst o s j
  | .mrow o => issueMrow o s j
  | .mcol o => issueMcol o s j
  | .cpy o => issueCpy o s j
  | .cpyt o => issueCpyt o s j
  | .cpyr _ _ dest hint => issueCpyr dest hint s j
  | .cbinit _ b _ => issueCbinit b s j
  | .cbwait _ b _ => issueCbwait b s j
  | .sopen _ st hint => issueSopen st s j hint
  | .sclose st _ => issueSclose st s j
  | .mbxpop _ _ hint => issueMbxpop s j hint
  | .waitmsg _ => issueWaitmsg s j
  | .msgsend _ _ _ hint => issueMsgsend s j hint
  | .rxopen _ _ q hint => issueRxopen q s j hint
  | .rxpop _ _ q hint => issueRxpop q s j hint
  | .coll o => issueColl o s j
  | .collwait _ _ _ => issueCollwait s j
  | .barArrive _ _ => issueBarArrive s j
  | _ => .trap s (QueueTrap.illegal j.entry stFaulted)

/-- What an entry does when its memory answers. -/
def replyEntry (i : Instr) (s : State) (j : Job) (r : Reply) : Issue :=
  match i with
  | .vld o => replyVld o s j r
  | .vlds o => replyVlds o s j r
  | .vldx o => replyVldx o s j r
  | .vst o => replyVst o s j r
  | .vsts o => replyVsts o s j r
  | .vstx o => replyVstx o s j r
  | .mld o => replyMld o s j r
  | .mst o => replyMst o s j r
  | .vredq o => replyVredq o s j r
  | _ => .stay s j.entry

/-- The hart holds its slot and may issue queued entries. -/
def Hart.inSlot (h : Hart) : Bool := (h.sched.status == .running || h.sched.status == .waiting) && !h.sched.resume

/-- The entry whose turn it is, as a job, with its instruction where it passes the checks of R37 on this core. -/
def State.turnJob (s : State) (k : HartKey) : Option (Nat × Job × Option Instr) :=
  match s.hart? k with
  | none => none
  | some h =>
    if !h.inSlot then none
    else
      match h.sched.slot, h.turn with
      | some slot, some pos =>
        match h.queue[pos]? with
        | some e =>
          some (pos, { hart := h, slot := slot, entry := e },
            e.check.bind fun i => if implements h.cls i && s.featureOn i then some i else none)
        | none => none
      | _, _ => none

/-- The entry whose turn it is issues. -/
def State.issueTurn (s : State) (k : HartKey) : State :=
  match s.turnJob k with
  | none => s
  | some (pos, j, none) => s.queueTrap k pos (QueueTrap.illegal j.entry stFaulted)
  | some (pos, j, some i) => settleEntry k pos i (issueEntry i s j)

/-- VQ_ENTRY_ISSUE (R31). -/
def execVqEntryIssue (k : HartKey) (s : State) : Host.Outcome State Fault Refusal := .next (s.issueTurn k)

/-- The entry whose turn it is at a hart is the tensor array's. -/
def State.forTensor (s : State) (k : HartKey) : Bool :=
  match s.turnJob k with
  | some (_, _, some i) => isTensor i
  | some (_, _, none) => false
  | none => false

/-- The harts of a core whose entries may issue to its tensor array, or to its vector unit, the first after the one that issued last there
(R242, R420). -/
def State.passOrder (s : State) (core : Nat) (tensor : Bool) : List (Nat × HartKey) :=
  let n := slotsOf core
  let last := ((s.passes.find? fun x => x.1 == core && x.2.1 == tensor).map (·.2.2)).getD (n - 1)
  (List.range n).filterMap fun d =>
    let i := (last + 1 + d) % n
    ((s.harts.find? fun h => h.sched.slot.any fun x => x.core == core && x.slot == i).filter fun h => s.forTensor h.key == tensor).map fun h => (i, h.key)

/-- The first entry of those harts that can issue does (R420). -/
def State.passFirst (s : State) (core : Nat) (tensor : Bool) : List (Nat × HartKey) → State
  | [] => s
  | (i, k) :: l =>
    let t := s.issueTurn k
    if t = s then s.passFirst core tensor l
    else { t with passes := (core, tensor, i) :: t.passes.filter fun x => !(x.1 == core && x.2.1 == tensor) }

/-- The vector unit or the tensor array of a core takes its next pass or instruction, in round robin by hart (R242, R420). -/
def passTurn (core : Nat) (tensor : Bool) (s : State) : Host.Outcome State Fault Refusal :=
  .next (s.passFirst core tensor (s.passOrder core tensor))

/-- VECTOR_MEMORY_RESPONSE (R209): the lane cluster or the row that the entry awaits is performed, or its error is reported. -/
def execVectorMemoryResponse (k : HartKey) (r : Reply) (s : State) : Host.Outcome State Fault Refusal :=
  match s.turnJob k with
  | some (pos, j, some i) =>
    if j.entry.issued && !j.entry.paddrs.isEmpty then .next (settleEntry k pos i (replyEntry i s j r)) else .next s
  | some (_, _, none) => .next s
  | none => .next s

/-! ### The element-progress timer (R211) -/

/-- Core cycles from a time until now, on the hart's core. -/
def State.cyclesSince (s : State) (core t : Nat) : Nat := (s.time - t) * s.mhzOf core / 1000

/-- The port that an access awaits (Table 8.6). -/
def State.portCode (s : State) (h : Hart) (vault : BitVec 8) (pa : Nat) : Nat :=
  let onDie := fun d : Nat => if d = dieOf h.core then 0x00 else 0x01
  match placeOf pa with
  | .host n => 0x02 + n.val
  | .store c _ => if c = h.sched.home then 0x04 else 0x05
  | .homeStore _ => 0x04
  | .homeWindow _ => 0x05
  | .hole => 0x00
  | .hbm d =>
    match (if vault = 255 then none else (s.part h.key.part).vault? vault) with
    | some v => onDie (v.dieFor pa)
    | none => onDie d

/-- The timer has reached the limit that the cluster's issue read; 0 switches it off. -/
def State.progressDue (s : State) (j : Job) : Bool :=
  j.entry.issued && j.entry.limit != 0 && decide (j.entry.limit.toNat ≤ s.cyclesSince j.hart.core j.entry.since)

/-- ELEMENT_PROGRESS from a trap that names the same element. -/
def QueueTrap.progress (q : QueueTrap) (port elem : Nat) : QueueTrap := { q with cause := 0x0F, info := queueInfo port elem 0 false }

/-- An access of a queued entry still awaits memory: its agent, the end of a lease, or the host (R376, R379, R382). -/
def State.awaits (s : State) (j : Job) (w : How) (x : Access) : Bool :=
  let v := j.via x.2.1
  s.silentAt x.2.2 || (!w.isStore && s.readWaits x.2.2 (s.cacheDie v x.2.2)) ||
  (sectorsOf x.2.2 w.bytes).any fun sec =>
    if s.onPcie sec then !w.isStore && !s.asked.any fun a => a.sector == sec && a.here
    else s.inCxl sec && (if w.isStore then s.keepsDirty v sec (some true) && !(s.cxlState sec).grants rdOwn else !(s.cxlState sec).grants rdAny)

/-- How an entry accesses memory: elements or rows to a cluster, the kind of its accesses, and the address of an element, or of an access at a place of
a row. -/
def memShape (i : Instr) (s : State) (j : Job) : Option (Nat × How × (Nat → Nat → Word)) :=
  let e := j.entry
  let vec := fun (f : Fmt) (store : Bool) (addr : Nat → Word) =>
    some (clusterElems j.hart.cls (isWide f), (if store then How.store (memSize f) 0 false else How.load (memSize f) 0 0), fun el (_ : Nat) => addr el)
  match i with
  | .vld o => vec o.fmt false (unitAddr e o.fmt o.off)
  | .vlds o => vec o.fmt false (strideAddr e o.off)
  | .vldx o => vec o.fmt false (indexAddr e o.fmt o.off (s.slot j.slot).v[o.ix])
  | .vst o => vec o.fmt true (unitAddr e o.fmt o.off)
  | .vsts o => vec o.fmt true (strideAddr e o.off)
  | .vstx o => vec o.fmt true (indexAddr e o.fmt o.off (s.slot j.slot).v[o.ix])
  | .mld _ => some (1, .load e.tileSize 0 0, e.tileAddr)
  | .mst _ => some (1, .store e.tileSize 0 true, e.tileAddr)
  | _ => none

/-- The access that the cluster of an entry awaits, with its place in the cluster: the lowest that still waits for something; where only the answer of
memory itself is to come, the first (R211). -/
def State.awaited (s : State) (j : Job) (size : Nat) (w : How) : Option (Access × Nat) :=
  match j.entry.paddrs with
  | [] => none
  | p :: l =>
    let now := ((p :: l).filter fun x => x.1 / size == p.1 / size).zipIdx
    some ((now.find? fun x => s.awaits j w x.1).getD (p, 0))

/-- The lowest element of a stream pop that still waits: an active one that the strip buffer does not hold. -/
def waitingElem (o : VPop) (t : StreamState) (s : State) (j : Job) : Option Nat :=
  let base := j.entry.pos.getD t.pos
  let x := s.slot j.slot
  (List.range (j.entry.count (isWide o.fmt))).find? fun e =>
    decide (j.entry.elem.toNat ≤ e) && x.on o.k e && decide (base + e < t.length) && (t.buf.lookup (base + e)).isNone

/-- The trap of an entry whose timer has run out, at the lowest element that it still awaits (R209, R211); the queue reads of vredq await the memory of
a receive queue (Table 8.6). -/
def progressTrap (i : Instr) (s : State) (j : Job) : Option QueueTrap :=
  match i with
  | .vld_st o =>
    (match j.hart.eng.streams[o.st] with
     | none => none
     | some t =>
       (waitingElem o t s j).map fun e => (errorTrap false e j.entry.elem.toNat (t.addr (j.entry.pos.getD t.pos + e))).progress 0x06 e)
  | .vredq o =>
    (match j.entry.paddrs, redqTrap o s j false with
     | p :: _, .trap _ q => some (q.progress 0x07 p.1)
     | _ :: _, .done _ _ => none
     | _ :: _, .stay _ _ => none
     | _ :: _, .wait _ => none
     | [], _ => none)
  | i =>
    match memShape i s j with
    | none => none
    | some (size, w, va) =>
      (s.awaited j size w).map fun x =>
        let c := x.1.1 / size
        (errorTrap false x.1.1 (max (c * size) j.entry.elem.toNat) (va x.1.1 x.2)).progress (s.portCode j.hart x.1.2.1 x.1.2.2) x.1.1

/-- ELEMENT_PROGRESS (R211): it has no effect before the timer has reached the limit. -/
def execElementProgress (k : HartKey) (s : State) : Host.Outcome State Fault Refusal :=
  match s.turnJob k with
  | some (pos, j, some i) =>
    if s.progressDue j then
      match progressTrap i s j with
      | some q => .next (s.queueTrap k pos q)
      | none => .next s
    else .next s
  | some (_, _, none) => .next s
  | none => .next s

/-! ### The end of a wait (R245, R413, R419) -/

/-- A scalar waiting instruction executes again on a hart. -/
def State.again (s : State) (k : HartKey) (i : Instr) : State :=
  let t := { s with cur := some k }
  let r := match i with
    | .join d a => execJoin d a t
    | .fclaim d a => execFclaim d a t
    | .wmwait a b => execWmwait a b t
    | .barWait a sc => execBarWait a sc t
    | _ => .next t
  match r with
  | .next u => { u with cur := if u.cur == some k then s.cur else u.cur }
  | .fault _ => s
  | .refused _ => s

/-- WAIT_RESUME: the waiting instruction of a hart executes again, and completes where its condition holds. -/
def execWaitResume (k : HartKey) (s : State) : Host.Outcome State Fault Refusal :=
  match s.hart? k with
  | none => .next s
  | some h =>
    if h.sched.status != .waiting then .next s
    else
      match h.waitFor with
      | some i => .next (s.again k i)
      | none => .next (s.issueTurn k)

/-- The entries of a hart that holds no slot: those that it kept, or its saved image without what a delegated trap holds. -/
def State.storedEntries (s : State) (h : Hart) : List Entry :=
  if !h.queue.isEmpty then h.queue
  else match h.area, h.imgOuter with
    | some a, some (n, _) => (s.imageEntries a).drop n
    | some a, none => if h.level == .t then (s.imageEntries a).drop h.imgHeld else []
    | none, _ => []

/-- An event has come that could end the wait of a parked hart (R419): its waiting instruction would complete now. -/
def State.waitOver (s : State) (h : Hart) : Bool :=
  match h.waitFor with
  | some i =>
    match (s.again h.key i).hart? h.key with
    | some g => g.sched.status != .waiting
    | none => true
  | none =>
    match (s.storedEntries h).find? fun e => !e.marks with
    | none => true
    | some e =>
      match e.check with
      | none => true
      | some i =>
        match issueEntry i s { hart := h, slot := { core := h.sched.lastCore, slot := 0 }, entry := e } with
        | .wait _ => false
        | .done _ _ => true
        | .stay _ _ => true
        | .trap _ _ => true

/-! ### Traps at an instruction boundary -/

/-- ILLEGAL_WORD (R62): the word that was fetched is no defined encoding; einfo holds it, with word 1 for a long major (R50). -/
def execIllegalWord (w0 w1 : Half) (s : State) : Host.Outcome State Fault Refusal :=
  match s.curHart? with
  | none => .fault .noHart
  | some h =>
    if h.level != .t && !h.queue.isEmpty then .next (s.modHart h.key fun g => { g with stall := true })
    else .next (s.trap h.key (.scalar 0x01 (if longMajor (hi 6 26 w0) then app 32 32 w1 w0 else zext64 w0) 0))

/-- A trap may be taken at S now: the handler's own entries have completed (R448), and no AtomicOp is out. With a STEP due, the instruction
before it has not retired before its entry completes (R458), but an entry that waits is stopped as ever (R245). -/
def Hart.atBoundary (h : Hart) : Bool :=
  h.inSlot && (h.level == .t || h.queue.isEmpty) && !h.sent && (h.dueStep.isNone || h.sched.status == .waiting)

/-- RUN_LIMIT is due: 16,384 instructions have retired (R318). -/
def Hart.limitDue (h : Hart) : Bool := h.rtc && decide (16384 ≤ h.retired) && h.atBoundary

/-- RUN_LIMIT (R318): from the trap on the hart is an ordinary one, which a swap-out under way stops (R455). -/
def execRunLimit (k : HartKey) (s : State) : Host.Outcome State Fault Refusal :=
  match s.hart? k with
  | none => .next s
  | some h =>
    if !h.limitDue then .next s
    else
      let s := s.modHart k fun g => { g with rtc := false }
      let s := (s.trapS k (.scalar 0x16 (BitVec.ofNat 64 h.entry) 0)).regrant h.core
      .next (if (s.part k.part).state == .swapped then s.haltHart k else s)

/-- An interrupt can be taken (R337, R45, R318): at T always, at S while IE is 1; not by a running run-to-completion hart, and not
between a class miss and the slot that it waits for. -/
def Hart.interruptible (h : Hart) : Bool :=
  !h.irqs.isEmpty && (h.level == .t || (h.level == .s && h.csr.ie)) && !h.rtc && h.atBoundary && (h.sched.missed.isNone || h.sched.stepMove)

/-- INTERRUPT (R447): the lowest held source is taken. -/
def execInterrupt (k : HartKey) (s : State) : Host.Outcome State Fault Refusal :=
  match s.hart? k with
  | none => .next s
  | some h =>
    match h.irqs with
    | [] => .next s
    | src :: rest =>
      if !h.interruptible then .next s
      else .next ((s.modHart k fun g => { g with irqs := rest }).trapS k (.scalar 0x80 (BitVec.ofNat 64 src) 0))

end Sys2Proof.Machine
end

