-- ==== Sys2Proof/Machine/Sched.lean ====
section
/-! DEFINITION. Collie's own events (R415, R417, R419, R425, R429, R430) and the moves that hints and window ends ask for (R335, R424). -/

namespace Sys2Proof.Machine

/-! ### Quanta, parking, waking, aging -/

/-- QUANTUM_END comes about: nothing holds it (R417, R45). -/
def State.quantumDue (s : State) (h : Hart) : Bool := s.quantumOver h && !h.sent && !h.missing

/-- QUANTUM_END (R417). -/
def execQuantumEnd (k : HartKey) (s : State) : Host.Outcome State Fault Refusal :=
  match s.hart? k with
  | none => .next s
  | some h => .next (if s.quantumDue h then s.endQuantum k fun _ => true else s)

/-- Some hart could take the slot of a waiting hart. -/
def State.wanted (s : State) (core : Nat) : Bool := (List.finRange 16).any fun p => !(s.candidates (partNo p) core).isEmpty

/-- WAIT_SLOT_TIMEOUT (R417): a hart that has waited 2 µs in its slot is parked where another hart could take it. -/
def execWaitSlotTimeout (k : HartKey) (s : State) : Host.Outcome State Fault Refusal :=
  match s.hart? k with
  | none => .next s
  | some h =>
    match h.sched.slot with
    | none => .next s
    | some i =>
      if h.sched.status == .waiting && !h.rtc && decide (h.sched.waitSince + 2000 ≤ s.time) && s.wanted i.core then
        .next ((((s.stopHart k).modHart k fun g => { g with sched := { g.sched with status := .parked } }).leaveSlot k).grant i)
      else .next s

/-- The level that a hart has aged to (R415). -/
def State.agedLevel (s : State) (h : Hart) : Nat := (s.time - h.sched.readySince) / 1000000

/-- PRIORITY_AGING (R415, R418): a hart that has been ready for another millisecond rises, and may pre-empt. -/
def execPriorityAging (k : HartKey) (s : State) : Host.Outcome State Fault Refusal :=
  match s.hart? k with
  | none => .next s
  | some h =>
    if h.wantsSlot && decide (h.sched.aged < s.agedLevel h) && decide (s.effPrio h < 7) then
      .next ((s.modHart k fun g => { g with sched := { g.sched with aged := g.sched.aged + 1 } }).placeReady k)
    else .next s

/-- HART_WAKE (R419): a parked hart whose wait could end becomes ready. -/
def execHartWake (k : HartKey) (s : State) : Host.Outcome State Fault Refusal :=
  match s.hart? k with
  | none => .next s
  | some h => .next (if h.sched.status == .parked && (s.waitOver h || !h.irqs.isEmpty) then s.makeReady k else s)

/-- RETRIEVER_ARRIVAL (R425): the transfer of a moving hart ends. -/
def execRetrieverArrival (k : HartKey) (s : State) : Host.Outcome State Fault Refusal := .next (s.arrive k)

/-! ### The instruction mix (R429, R430) -/

/-- The hart waits in vredq: the entry whose turn it is is a vredq that has issued and not completed (R222). -/
def Hart.inVredq (h : Hart) : Bool :=
  match h.turn.bind fun p => h.queue[p]? with
  | some e => e.issued && e.paddrs.isEmpty && e.isInsn fun i => match i with | .vredq _ => true | _ => false
  | none => false

/-- No mix-driven move is made now (R430). -/
def Hart.mixBlocked (h : Hart) : Bool :=
  h.sched.hintClass != 3 || h.csr.fix || h.csr.pin || h.sched.status == .waiting || h.inVredq

/-- The class that the rules of R429 name at a window end, and the streak that they leave; a move to Mastiff clears the
streak only when it is made. -/
def Hart.mixRule (h : Hart) : Option (BitVec 2) × Nat :=
  let w := h.sched.win
  if 1311 ≤ w.m then ((if h.cls = .mastiff then some (if w.missH < w.missW then 2 else 1) else none), 0)
  else if h.cls = .hound then
    let streak := if w.v ≤ 3276 then w.streak + 1 else 0
    ((if 4 ≤ streak then some 0 else none), streak)
  else (none, 0)

/-- MIX_WINDOW_END (R429): after 65,536 instructions the counts are judged and start again. A move that falls due is
made once the queues have drained; one that is held back, at the first window end that lets it (R430). -/
def execMixWindowEnd (k : HartKey) (s : State) : Host.Outcome State Fault Refusal :=
  match s.hart? k with
  | none => .next s
  | some h =>
    if h.sched.win.count < 65536 then .next s
    else
      let (target, streak) := h.mixRule
      let due := target.or h.sched.mixDue
      .next (s.modHart k fun g =>
        { g with sched := { g.sched with
            win := { Window.zero with streak := streak }
            goClass := if g.rtc || g.mixBlocked then g.sched.goClass else due
            mixDue := if g.mixBlocked && !g.rtc then due else if g.rtc then g.sched.mixDue else none } })

/-! ### Moves that a hart's turn begins with (R335, R424) -/

/-- The cores that a request names. -/
def placeCores (d : Nat) (c : Option Nat) (core : Nat) : Bool :=
  dieOf core == d && (match c with | some n => clusterInDie core == n | none => true)

/-- The cores of a class. -/
def classCores (c : BitVec 2) (core : Nat) : Bool := (clsOf core).code == c.toNat

/-- The move that Collie would make now: hint.place first, then a class that hint.class names, then a window end's. A standing
hint.class does not carry away a hart whose missed instruction has not executed yet. -/
def Hart.request (h : Hart) : Option ((Nat → Bool) × MoveCause) :=
  match h.sched.goPlace, h.sched.hintPlace with
  | true, some (d, c) => if h.csr.pin then none else some (placeCores d c, .hint)
  | _, _ =>
    if h.sched.hintClass != 3 && !h.csr.pin then
      if h.sched.missed.isNone && !h.sched.stepMove then some (classCores h.sched.hintClass, .hint) else none
    else h.sched.goClass.map fun c => (classCores c, .mix)

/-- The request is over: it has been met, or it has no candidate. -/
def Sched.requestOver (c : Sched) : Sched := { c with goPlace := false, goClass := if c.goPlace then c.goClass else none }

/-- The state after a request of the hart has been looked at, where that takes its turn: the hart drains, or leaves. -/
def State.tryMove (s : State) (k : HartKey) : Option State :=
  match s.hart? k with
  | none => none
  | some h =>
    match h.request with
    | none => none
    | some (sel, cause) =>
      if sel h.core then none
      else
        match s.moveTarget h sel with
        | none => none
        | some i =>
          if !h.queue.isEmpty then some (s.modHart k fun g => { g with stall := true })
          else
            some ((s.modHart k fun g =>
              { g with sched := { g.sched with win := if cause = .mix then { g.sched.win with streak := 0 } else g.sched.win } }).depart k i cause)

/-- A request that cannot be met lapses (R424); a standing hint.class does not. -/
def State.lapse (s : State) (k : HartKey) : State :=
  s.modHart k fun h =>
    { h with sched := if h.sched.goPlace || (h.sched.hintClass == 3 || h.csr.pin) then h.sched.requestOver else h.sched }

end Sys2Proof.Machine
end

