-- ==== Sys2Proof/Machine/Firmware.lean ====
section
/-! DEFINITION. Partitions from the host and the firmware calls of a partition (R508 to R511, R401, R455, R456, R406, R471). -/

namespace Sys2Proof.Machine

/-! ### Memory that firmware clears -/

/-- Bytes read zero from here on: caches, stale copies and reservations of them go with the old contents. -/
def State.zeroRange (s : State) (base len : Nat) : State :=
  let in_ := fun a : Nat => decide (base ≤ a) && decide (a < base + len)
  let s := s.dropLines fun l => decide (l.tag < base + len) && decide (base < l.tag + 64 * l.sectors.length)
  { ((s.setMem (s.mem.filter fun c => !in_ c.1)).endReservations base len).setL1d (s.l1d.filter fun e => !in_ e.2) with
    l1i := s.l1i.filter fun e => !in_ e.pa
    stale := s.stale.filter fun x => !in_ x.sector }

/-- The local stores of cores are zero (R364). -/
def State.zeroStores (s : State) (sel : Nat → Bool) : State :=
  ((List.range 848).filter sel).foldl (fun s c => if storeBytes (clsOf c) = 0 then s else s.zeroRange (storeBase c) (storeBytes (clsOf c))) s

/-- Cores of a set of clusters. -/
def inClusters (m : BitVec 15) (core : Nat) : Bool := m.getLsbD (clusterOf core)

/-! ### The partition descriptor (R511, Table 22.8) -/

/-- The HBM ranges of a descriptor that have a length. -/
def descRanges (n : Nat) : List (Nat × Nat) :=
  ((List.range 4).map fun i => (bitsOf n (128 * i + 63) (128 * i), bitsOf n (128 * i + 127) (128 * i + 64))).filter fun r => r.2 != 0

/-- Two ranges share a byte. -/
def rangesShare (a b : Nat × Nat) : Bool := rangesMeet a.1 a.2 b.1 b.2

/-- Some two ranges of a list share a byte. -/
def rangesClash : List (Nat × Nat) → Bool
  | [] => false
  | a :: l => l.any (rangesShare a) || rangesClash l

/-- The range lies in the HBM of one die (Table 14.8). -/
def inHbm (r : Nat × Nat) : Bool :=
  match placeOf r.1, placeOf (r.1 + r.2 - 1) with
  | .hbm a, .hbm b => a == b
  | _, _ => false

/-- partctl of a descriptor. -/
def descCtl (n : Nat) : PartCtl :=
  { clusters := BitVec.ofNat 15 (bitsOf n 526 512), weight := BitVec.ofNat 8 (bitsOf n 535 528), quantum := BitVec.ofNat 16 (bitsOf n 559 544) }

/-- The part of a descriptor that stays with the partition. -/
def PartDesc.ofNat (n : Nat) (keys : List (List Byte)) : PartDesc :=
  { ranges := descRanges n, ctl := descCtl n, clmax := BitVec.ofNat 15 (bitsOf n 590 576), wmax := BitVec.ofNat 8 (bitsOf n 599 592),
    qmin := BitVec.ofNat 16 (bitsOf n 623 608), qmax := BitVec.ofNat 16 (bitsOf n 639 624), hartmax := bitsOf n 687 672,
    sealed := n.testBit 703, trust := keys }

/-- partctl stays within the bounds of the descriptor, and names a cluster and a weight (R410, R508, R511). -/
def PartDesc.admits (d : PartDesc) (c : PartCtl) : Bool :=
  c.clusters != 0 && c.clusters &&& ~~~ d.clmax == 0 && c.weight != 0 && decide (c.weight ≤ d.wmax) &&
  c.quantum != 0 && decide (d.qmin ≤ c.quantum) && decide (c.quantum ≤ d.qmax)

/-- WAYS of a die. -/
def descWays (n die : Nat) : Nat := bitsOf n (719 + 16 * die) (704 + 16 * die)

/-- BAD_FIELD (R511). -/
def descBad (n : Nat) : Bool :=
  let d := PartDesc.ofNat n []
  ([(1023, 896), (831, 804), (702, 688), (671, 651), (607, 600), (591, 591), (575, 560), (543, 536), (527, 527)].any fun f => bitsOf n f.1 f.2 != 0) ||
  ((List.range 8).any fun i => bitsOf n (64 * i + 63) (64 * i) % 0x200000 != 0) ||
  d.ranges.any (fun r => !inHbm r) || rangesClash d.ranges || bitsOf n 127 64 == 0 || !d.admits d.ctl ||
  d.qmin == 0 || decide (d.qmax < d.qmin) || bitsOf n 650 640 == 0 || decide (1024 < bitsOf n 650 640) || d.hartmax == 0 ||
  (List.range 6).any (fun i => decide (8192 < descWays n i)) || decide (8 < bitsOf n 803 800)

/-- Bytes of a context area (R443). -/
def areaBytes : Nat := 0x48000

/-- Partitions that are not absent. -/
def State.present (s : State) : List Part := s.parts.toList.filter fun p => p.state != .absent

/-- Consecutive asids that no partition holds: the search starts at a free value (log 9). -/
def State.freeAsids (s : State) (seed count : Nat) : Option Nat :=
  ((List.range 1024).map fun i => (seed + i) % 1024).find? fun a =>
    decide (a + count ≤ 1024) && !s.present.any fun p => decide (a < p.asid0 + p.asidN) && decide (p.asid0 < a + count)

/-- The ways of a die, lowest slice, bank and way first. -/
def waysOfDie (die : Nat) : List Way :=
  (List.range 32).flatMap fun j => (List.range 16).flatMap fun b => (List.range 16).map fun w => { slice := 32 * die + j, bank := b, way := w }

/-- The first free ways of a die, in no pool (R348). -/
def State.freeWays (s : State) (die count : Nat) : List Way :=
  if count = 0 then [] else ((waysOfDie die).filter fun w => !s.present.any fun p => p.pool.contains w).take count

/-- A list that starts at another of its elements (log 9). -/
def rotated {α : Type} (l : List α) (n : Nat) : List α := l.drop (n % max l.length 1) ++ l.take (n % max l.length 1)

/-- OP and PART as PCMD holds them (Table 22.6). -/
def commandWord (op : BitVec 8) (p : Fin 16) : Word := BitVec.ofNat 64 (op.toNat + 256 * p.val)

/-- A command ends (R509): PSTAT holds its status, and BUSY is 0. -/
def State.commandEnds (s : State) (c : Word) (status : Int) : State := { s with pcmd := c, pstat := BitVec.ofInt 32 status }

/-- A partition command (R509): firmware executes it where no other is under way. `body` gives the state after it and its status. -/
def command (op : BitVec 8) (p : Fin 16) (body : State → State × Int) (s : State) : Host.Outcome State Fault Refusal :=
  if !s.hostUp || (s.commandBusy && s.pcmd != (commandWord op p ||| busyBit)) then .next s
  else .next ((body s).1.commandEnds (commandWord op p) (body s).2)

/-- A partition command that can take more than one step: `body` gives no status while it is under way, and BUSY stays. -/
def longCommand (op : BitVec 8) (p : Fin 16) (body : State → State × Option Int) (s : State) : Host.Outcome State Fault Refusal :=
  if !s.hostUp || (s.commandBusy && s.pcmd != (commandWord op p ||| busyBit)) then .next s
  else
    match body s with
    | (t, some status) => .next (t.commandEnds (commandWord op p) status)
    | (t, none) => .next { t with pcmd := commandWord op p ||| busyBit }

/-- The trust keys of a descriptor, 56 bytes each; none where the read fails. With TRUSTN 0 nothing is read. -/
def State.trustKeys (s : State) (n : Nat) : Option (List (List Byte)) :=
  let addr := bitsOf n 895 832
  let count := bitsOf n 803 800
  if count = 0 then some []
  else if (s.hostRead 0 addr (56 * count)).isSome then some ((List.range count).map fun i => Mem.bytes s.mem (hostPa 0 (addr + 56 * i)) 56) else none

/-- What CREATE does with a descriptor: its resources are taken, or a status says why not. -/
def State.createFrom (s : State) (p : Fin 16) (n : Nat) : State × Int :=
  if descBad n then (s, -3)
  else
    let (t, c) := s.draw
    let count := bitsOf n 650 640
    let ranges := descRanges n
    let hartmax := bitsOf n 687 672
    let pool := (List.range 6).flatMap fun d => t.freeWays d (descWays n d)
    let total := (List.range 6).foldl (fun a d => a + descWays n d) 0
    match ranges, t.freeAsids (Config.handleSeed c).toNat count with
    | (base, len) :: _, some asid =>
      if (t.present.any fun q => q.desc.ranges.any fun a => ranges.any (rangesShare a)) || pool.length ≠ total || decide (len < hartmax * areaBytes) then (s, -4)
      else
        match t.trustKeys n with
        | none => (s, -5)
        | some keys =>
          let areas := (List.range hartmax).map fun i => base + len - hartmax * areaBytes + i * areaBytes
          let d := PartDesc.ofNat n keys
          (t.modPart (partNo p) fun _ =>
            { Part.absent with
              state := .created, ctl := d.ctl, desc := d, asid0 := asid, asidN := count, pool := pool,
              areas := rotated areas (Config.handleSeed c).toNat }, 0)
    | _, _ => (s, -4)

/-- CREATE (R511): the descriptor is read through port 0 (log 16), checked, and its resources are taken. -/
def execCreate (p : Fin 16) (readOk : Bool) (s : State) : Host.Outcome State Fault Refusal :=
  command 1 p (fun s =>
    if (s.part (partNo p)).state != .absent then (s, -2)
    else if s.parg.toNat % 64 ≠ 0 then (s, -3)
    else
      match (if readOk then s.hostRead 0 s.parg.toNat 128 else none) with
      | none => (s, -5)
      | some n => s.createFrom p n) s

/-- Tasks that wait for the partition get their harts, in pool order (R411). -/
def State.startPending (s : State) (p : Fin 17) : State :=
  (((s.part p).tasks.filter (·.pending)).foldl (fun s t => s.createHarts p t) s)

/-- Latched register writes of every queue of a partition are applied. -/
def State.applyQueues (s : State) (p : Fin 17) : State := s.modPart p fun q => { q with queues := q.queues.map HostQueue.applyLatched }

/-- Home die of an address of HBM. -/
def hbmHome (pa : Nat) : Option Nat :=
  match placeOf pa with
  | .hbm die => some die
  | .store _ _ => none
  | .homeStore _ => none
  | .homeWindow _ => none
  | .host _ => none
  | .hole => none

/-- Every region of HBM is P with its home die (R373): host writes that waited for leases are performed, and copies on other dies go, dirty
ones written back. -/
def State.freshRegions (s : State) : State :=
  let away := fun (die pa : Nat) => match hbmHome pa with | some home => die != home | none => false
  let s := s.hostWrites.foldl State.hostWrite { s with hostWrites := [] }
  let s := s.setLines (s.lines.map fun (l : Line) =>
    if away (dieOfSlice l.slice) l.tag then { l with sectors := l.sectors.map fun _ => .invalid } else l)
  let s := s.dropL1 fun c sec => away (dieOf c) sec
  { s with
    regions := s.regions.map fun (e : Region) => if (hbmHome (e.index * 0x200000)).isNone then e else e.atHome s.time
    stale := []
    harts := s.harts.map fun (h : Hart) => h.modOutst fun o => { o with region := none } }

/-- The stores of a set of clusters are the partition's, and no other's any more. -/
def State.giveStores (s : State) (q : Fin 17) (m : BitVec 15) : State :=
  { s with parts := Vector.ofFn fun n : Fin 17 =>
      { s.parts[n] with stores := if n = q then m else s.parts[n].stores &&& ~~~ m } }

/-- START (R510): local stores are zero, regions are P with their homes, latched queue writes take effect, waiting tasks start, and FEATREQ
closes (R464). -/
def execStart (p : Fin 16) (s : State) : Host.Outcome State Fault Refusal :=
  let q := partNo p
  command 2 p (fun s =>
    if (s.part q).state != .created then (s, -2)
    else
      let m := (s.part q).desc.ctl.clusters
      let s := ((s.zeroStores (inClusters m)).giveStores q m).freshRegions
      let s := s.modPart q fun x => { x with state := .running, ctl := x.desc.ctl, nextHart := 1, deficit := 0 }
      let s := { s with featClosed := true, fw := { s.fw with step := max s.fw.step 6 } }
      ((s.applyQueues q).startPending q, 0)) s

/-! ### Swap (R401, R455, R456) -/

/-- The harts of a partition. -/
def State.hartsOf (s : State) (q : Fin 17) : List HartKey := (s.harts.filter fun h => h.key.part == q).map (·.key)

/-- Steps 1 and 2 of Table 18.9: nothing is granted a slot, queues freeze PROG, and harts stop. -/
def State.swapBegins (s : State) (q : Fin 17) : State :=
  let s := s.modPart q fun x => { x with state := .swapped, swapping := true, queues := x.queues.map fun y => { y with frozen := some y.prog } }
  let s := { s with harts := s.harts.map fun (h : Hart) => if h.key.part == q then { h with sched := { h.sched with swapSlot := none } } else h }
  (s.hartsOf q).foldl State.haltHart s

/-- Step 3, once every core is halted: what the harts hold goes to shadow storage, the partition's translations are discarded, and the slots
are freed. -/
def State.swapEnds (s : State) (q : Fin 17) : State :=
  let s := (s.hartsOf q).foldl State.shadowHart (s.modPart q fun x => { x with swapping := false })
  (s.hartsOf q).foldl State.releaseSlot { s with tlb := s.tlb.filter fun e => e.part != q }

/-- SWAPOUT (R455): it ends when the run-to-completion harts have ended or taken RUN_LIMIT. Where firmware terminates the partition before that,
the command ends with −2 (DESIGN CHOICE, log 105). -/
def execSwapout (p : Fin 16) (s : State) : Host.Outcome State Fault Refusal :=
  let q := partNo p
  longCommand 3 p (fun s =>
    if (s.part q).state != .running && !(s.part q).swapping then (s, some (-2))
    else
      let s := if (s.part q).swapping then s else s.swapBegins q
      if s.halted q then (s.swapEnds q, some 0) else (s, none)) s

/-- A hart at switch-in goes back to the slot that it held, where that is free and still allowed (R456). -/
def State.swapReturn (s : State) (k : HartKey) : State :=
  match s.hart? k with
  | none => s
  | some h =>
    match h.sched.slot, h.sched.swapSlot with
    | none, some i => if h.sched.status == .ready && s.slotFree i && s.eligible h i.core then s.takeSlot k i else s
    | none, none => s
    | some _, _ => s

/-- A hart that has not gone back is ready (R456), and takes a free slot at once (R417). -/
def State.swapReady (s : State) (k : HartKey) : State :=
  match s.hart? k with
  | none => s
  | some h =>
    if h.sched.status == .parked || h.sched.slot.isSome then s
    else if h.sched.status == .ready then s.makeReady k
    else s.placeReady k

/-- SWAPIN (R456, R401, R508): a requested partctl applies, stores of cores that are new to the partition, or that another has been given
meanwhile, are zero, latched queue writes take effect, harts return to the slots that they held, the others are ready, and waiting tasks start. -/
def execSwapin (p : Fin 16) (s : State) : Host.Outcome State Fault Refusal :=
  let q := partNo p
  command 4 p (fun s =>
    if (s.part q).state != .swapped then (s, -2)
    else
      let new := (s.part q).partreq.getD (s.part q).ctl
      let s := ((s.zeroStores (inClusters (new.clusters &&& ~~~ (s.part q).stores))).giveStores q new.clusters).unshadow fun x => x.part == q
      let s := s.modPart q fun x => { x with state := .running, ctl := new, partreq := none }
      let s := s.applyQueues q
      let s := (s.hartsOf q).foldl State.swapReturn s
      (((s.hartsOf q).foldl State.swapReady s).startPending q, 0)) s

/-- TERMINATE (R510). -/
def execTerminate (p : Fin 16) (s : State) : Host.Outcome State Fault Refusal :=
  command 5 p (fun s =>
    let st := (s.part (partNo p)).state
    if st == .created || st == .running || st == .swapped then (s.endPart (partNo p), 0) else (s, -2)) s

/-- DESTROY (R510): the resources return, shadow space among them; what a sealed partition held is zeroed first, its shadow state going with that
space. The local stores are those of the clusters in CLUSTERS, whatever other partition may hold them too, and whether the partition ever
started or not (DESIGN CHOICE, log 106). -/
def execDestroy (p : Fin 16) (s : State) : Host.Outcome State Fault Refusal :=
  command 6 p (fun s =>
    let x := s.part (partNo p)
    if x.state != .terminated then (s, -2)
    else
      let s := if x.desc.sealed then
          (x.desc.ranges.foldl (fun s r => s.zeroRange r.1 r.2) s).zeroStores (inClusters x.ctl.clusters)
        else s
      ({ (s.modPart (partNo p) fun _ => Part.absent) with
         pterm := s.pterm &&& ~~~ BitVec.twoPow 16 p.val
         shadow := s.shadow.filter fun x => x.part != partNo p }, 0)) s

/-- BAD_OP (R510): an operation that is none of Table 22.7. -/
def execBadOp (p : Fin 16) (op : BitVec 8) (s : State) : Host.Outcome State Fault Refusal :=
  if 1 ≤ op.toNat && op.toNat ≤ 6 then .next s else command op p (fun s => (s, -1)) s

/-! ### Firmware calls (R508, Table 22.5) -/

/-- What a firmware call answers: its status, and the results in x9 and x10 where it gives them. -/
structure Answer where
  status : Int
  x9 : Option Word := none
  x10 : Option Word := none

/-- A call of the hart with a number is answered: the status goes to x8, the results to x9 and x10 where given, and the
ecall completes. `body` gives no answer while a read of it waits. Without such a call there is no effect. -/
def firmwareCall (k : HartKey) (n : Nat) (body : State → Hart → State × Option Answer) (s : State) : Host.Outcome State Fault Refusal :=
  match s.hart? k with
  | none => .next s
  | some h =>
    if h.fwcall != some n || !h.inSlot then .next s
    else
      match body s h with
      | (s, none) => .next s
      | (s, some a) =>
        .next (s.modHart k fun g =>
          let g := { g.setX 8 (wordOf a.status) with fwcall := none }
          let g := match a.x9 with | none => g | some w => g.setX 9 w
          let g := match a.x10 with | none => g | some w => g.setX 10 w
          g.retire h .ecall (h.pc + 4))

/-- What firmware's read of words for a hart meets. -/
inductive Called where
  | words (s : State) (l : List Nat)
  | fails (s : State)
  | waits (s : State)

/-- Consecutive doublewords that firmware reads for a hart once nothing is to come any more; `bad` lists the sectors that a host refused. -/
def State.callRead (s : State) (h : Hart) (bad : List Nat) : Nat → Word → Called
  | 0, _ => .words s []
  | n + 1, va =>
    match s.access { h.ctx with level := .s } va .load with
    | .error _ => .fails s
    | .ok x =>
      let v := h.via x
      if s.corrupted x.pa || (s.deadAt x.pa).isSome || bad.contains (sectorOf x.pa) then .fails s
      else if s.readWaits x.pa (s.cacheDie v x.pa) then .waits s
      else
        match (((s.correct x.pa).fillTlb x).readTouch v x.pa (s.scalarAlloc v) false).callRead h bad n (va + 8) with
        | .words t l => .words t (leNat (s.view v x.pa 8) :: l)
        | .fails t => .fails t
        | .waits t => .waits t

/-- Consecutive doublewords from an aligned address that firmware reads for a hart, as S-level loads would (R508). -/
def State.callWords (s : State) (h : Hart) (n : Nat) (va : Word) : Called :=
  let reads := (List.range n).filterMap fun i =>
    match s.access { h.ctx with level := .s } (va + BitVec.ofNat 64 (8 * i)) .load with
    | .ok x => some (h.via x, x.pa, 8, s.scalarAlloc (h.via x))
    | .error _ => none
  match s.askReads reads with
  | (s, true, _) => .waits s
  | (s, false, bad) => s.callRead h bad n va

/-- BANKPOOL. -/
def execBankpool (k : HartKey) (s : State) : Host.Outcome State Fault Refusal :=
  firmwareCall k 0x100 (fun s h =>
    let slice := (h.getX 9).toNat
    let bank := (h.getX 10).toNat
    if 191 < slice || 15 < bank then (s, some { status := -2 })
    else
      let pool := (s.part h.key.part).pool
      let m := (List.range 16).foldl (fun m w => if pool.contains { slice := slice, bank := bank, way := w } then m + 2 ^ w else m) 0
      (s, some { status := 0, x9 := some (BitVec.ofNat 64 m) })) s

/-- Fields of a member entry (Table 16.11): package, partition, hartid. -/
def memberFields (w : Nat) : Nat × Nat × Nat := (bitsOf w 63 48, bitsOf w 35 32, bitsOf w 31 0)

/-- The home core of a live member of this package. -/
def State.memberHome (s : State) (w : Nat) : Option Nat :=
  let (pkg, part, hart) := memberFields w
  if pkg = s.pkg.toNat then (s.harts.find? fun h => h.key.part.val == part && h.key.id == hart).map (·.sched.home) else none

/-- Some element of a list comes twice. -/
def repeated {α : Type} [BEq α] : List α → Bool
  | [] => false
  | a :: l => l.contains a || repeated l

/-- BAD_MEMBER (R406). -/
def State.badMembers (s : State) (p : Fin 17) (span : Nat) (ms : List Nat) : Bool :=
  let home := fun m : Nat => (s.memberHome m).map dieOf
  repeated ms || (ms.any fun m => bitsOf m 63 48 == s.pkg.toNat && bitsOf m 35 32 != p.val) ||
  (decide (span < 2) && ms.any fun m => bitsOf m 63 48 != s.pkg.toNat) ||
  (span == 0 &&
    match ms.filterMap home with
    | [] => false
    | d :: l => l.any (· != d))

/-- The status of GROUPDEF and the group that it defines (R405, R406): arguments, BUSY, the record, its fields, the members, and
what they name. N = 0 leaves the group undefined. No status while a read waits. -/
def State.groupStatus (s : State) (h : Hart) (g : Nat) (va : Word) : State × Option (Nat × Option Group) :=
  if 63 < g || va.toNat % 8 ≠ 0 then (s, some (2, none))
  else if s.colls.any fun c => c.part == h.key.part && c.group == g && c.settled.isNone then (s, some (1, none))
  else
    match s.callWords h 8 va with
    | .fails s => (s, some (4, none))
    | .waits s => (s, none)
    | .words s r =>
      let w0 := r.getD 0 0
      let list := r.getD 1 0
      let span := bitsOf w0 1 0
      let n := bitsOf w0 31 16
      if (r.drop 2).any (· != 0) || bitsOf w0 63 32 != 0 || bitsOf w0 15 2 != 0 || list % 8 != 0 || span == 3 || decide (1024 < n) then (s, some (2, none))
      else
        match s.callWords h n (BitVec.ofNat 64 list) with
        | .fails s => (s, some (4, none))
        | .waits s => (s, none)
        | .words s ms =>
          if ms.any fun m => bitsOf m 47 36 != 0 then (s, some (2, none))
          else if s.badMembers h.key.part span ms then (s, some (3, none))
          else
            (s, some (0, if n = 0 then none else
              some { id := g, span := span, members := ms.map (BitVec.ofNat 64), record := Config.fingerprint ((r ++ ms).map (leBytes 8)).flatten }))

/-- GROUPDEF. -/
def execGroupdef (k : HartKey) (s : State) : Host.Outcome State Fault Refusal :=
  firmwareCall k 0x101 (fun s h =>
    let g := (h.getX 9).toNat
    match s.groupStatus h g (h.getX 10) with
    | (s, none) => (s, none)
    | (s, some (0, new)) =>
      ({ s.modPart h.key.part fun p => { p with groups := (p.groups.filter fun x => x.id != g) ++ new.toList } with
         collsOver := s.collsOver.filter fun x => !(x.1 == h.key.part && x.2.1 == g) }, some { status := 0 })
    | (s, some (st, _)) => (s, some { status := st })) s

/-- ASIDRANGE. -/
def execAsidrange (k : HartKey) (s : State) : Host.Outcome State Fault Refusal :=
  firmwareCall k 0x102 (fun s h =>
    let p := s.part h.key.part
    (s, some { status := 0, x9 := some (BitVec.ofNat 64 p.asid0), x10 := some (BitVec.ofNat 64 p.asidN) })) s

/-- CTXAREA. -/
def execCtxarea (k : HartKey) (s : State) : Host.Outcome State Fault Refusal :=
  firmwareCall k 0x103 (fun s h =>
    match s.hart? { part := h.key.part, id := (h.getX 9).toNat } with
    | none => (s, some { status := -2 })
    | some g =>
      match g.area with
      | some a => (s, some { status := 0, x9 := some (BitVec.ofNat 64 a) })
      | none => (let (s, c) := s.draw; (s, some { status := 0, x9 := some (Config.noArea c) }))) s

/-- Every core discards its L1I lines and fetched words of a page under an asid (R471). -/
def State.dropCode (s : State) (p : Fin 17) (asid : BitVec 10) (page : Nat) : State :=
  { s with
    l1i := s.l1i.filter fun e => !(e.part == p && e.asid == asid && e.va / 4096 == page)
    harts := s.harts.map fun (h : Hart) =>
      if h.key.part == p && h.csr.asid == asid then { h with checked := h.checked.filter fun c => c.1.toNat / 4096 != page } else h }

/-- CODEFAIL (R471): the page is marked, and every core discards what it has fetched of it; the reason of the mark is left open (log 12). -/
def execCodefail (k : HartKey) (s : State) : Host.Outcome State Fault Refusal :=
  firmwareCall k 0x104 (fun s h =>
    let p := s.part h.key.part
    let asid : BitVec 10 := (h.getX 9).setWidth 10
    let page := (h.getX 10).toNat / 4096
    if p.marks.any fun m => m.1 == asid && m.2.1 == page then (s, some { status := 0 })
    else if 4096 ≤ p.marks.length then (s, some { status := -3 })
    else
      let (s, c) := s.draw
      let s := s.modPart h.key.part fun q => { q with marks := q.marks ++ [(asid, page, if Config.codeFailReason c then 1 else 0)] }
      (s.dropCode h.key.part asid page, some { status := 0 })) s

/-- PARTREQ: what the next switch-in applies. -/
def execPartreq (k : HartKey) (s : State) : Host.Outcome State Fault Refusal :=
  firmwareCall k 0x105 (fun s h =>
    let v := (h.getX 9).toNat
    let c : PartCtl := { clusters := BitVec.ofNat 15 v, weight := BitVec.ofNat 8 (bitsOf v 23 16), quantum := BitVec.ofNat 16 (bitsOf v 47 32) }
    if bitsOf v 63 48 != 0 || bitsOf v 31 24 != 0 || bitsOf v 15 15 != 0 || !(s.part h.key.part).desc.admits c then (s, some { status := -4 })
    else (s.modPart h.key.part fun p => { p with partreq := some c }, some { status := 0 })) s

/-- Bytes from `base` up to `stop` lie wholly inside ranges, be it in several that follow on each other. `fuel` exceeds the number of ranges. -/
def insideRanges (rs : List (Nat × Nat)) (stop : Nat) : Nat → Nat → Bool
  | 0, _ => false
  | fuel + 1, base =>
    if stop ≤ base then true
    else
      match rs.find? fun r => decide (r.1 ≤ base) && decide (base < r.1 + r.2) with
      | some r => insideRanges rs stop fuel (r.1 + r.2)
      | none => false

/-- TDTABLE: the descriptor table of an asid, with every descriptor zero. -/
def execTdtable (k : HartKey) (s : State) : Host.Outcome State Fault Refusal :=
  firmwareCall k 0x106 (fun s h =>
    let p := s.part h.key.part
    let v := (h.getX 9).toNat
    let asid : BitVec 10 := BitVec.ofNat 10 v
    let len := bitsOf v 48 32
    let base := (h.getX 10).toNat
    if bitsOf v 31 10 != 0 || bitsOf v 63 49 != 0 || !p.ownsAsid asid || decide (65536 < len) then (s, some { status := -2 })
    else if len = 0 then (s.modPart h.key.part fun q => { q with tds := q.tds.filter fun t => t.1 != asid }, some { status := 0 })
    else if base % 64 ≠ 0 || !insideRanges p.desc.ranges (base + 64 * len) (p.desc.ranges.length + 2) base then (s, some { status := -3 })
    else
      ((s.zeroRange base (64 * len)).modPart h.key.part fun q => { q with tds := (asid, base, len) :: q.tds.filter fun t => t.1 != asid }, some { status := 0 })) s

/-- The marks of an asid are cleared when its address space is unloaded (R471): no call says that, and the model takes the registration of another
root for the asid as the sign of it (log 62). -/
def Part.unloads (p : Part) (asid : BitVec 10) (root : Word) : Part :=
  match p.ctxs.lookup asid with
  | some c => if c.1 = root then p else { p with marks := p.marks.filter fun m => m.1 != asid }
  | none => p

/-- ASIDCTX: the ptbase and the evec of harts launched under an asid. -/
def execAsidctx (k : HartKey) (s : State) : Host.Outcome State Fault Refusal :=
  firmwareCall k 0x107 (fun s h =>
    let v := (h.getX 9).toNat
    let asid : BitVec 10 := BitVec.ofNat 10 v
    if bitsOf v 63 10 != 0 || !(s.part h.key.part).ownsAsid asid then (s, some { status := -2 })
    else if (h.getX 10).toNat % 64 ≠ 0 then (s, some { status := -3 })
    else
      match s.callWords h 8 (h.getX 10) with
      | .fails s => (s, some { status := -3 })
      | .waits s => (s, none)
      | .words s r =>
        let root := r.getD 0 0
        if (r.drop 2).any (· != 0) || bitsOf root 63 56 != 0 || bitsOf root 11 0 != 0 then (s, some { status := -3 })
        else
          (s.modPart h.key.part fun q =>
            { q.unloads asid (BitVec.ofNat 64 root) with
              ctxs := (asid, BitVec.ofNat 64 root, BitVec.ofNat 64 (r.getD 1 0)) :: q.ctxs.filter fun c => c.1 != asid }, some { status := 0 })) s

end Sys2Proof.Machine
end

