-- ==== Sys2Proof/Machine/Hints.lean ====
section
/-! DEFINITION. Hints of major 0x37 (R61, R335). None alters a result, a trap or a memory order. -/

namespace Sys2Proof.Machine

/-- Time that a number of core cycles takes at the frequency of the hart's island, in whole nanoseconds upward (R497). -/
def State.cyclesNs (s : State) (core n : Nat) : Nat :=
  let mhz := s.mhzOf core
  (n * 1000 + mhz - 1) / max mhz 1

/-- The null hint, and every 0x37 word that Table 3.7 does not assign (R61, R82). -/
def execNullHint (bits : BitVec 26) (s : State) : Host.Outcome State Fault Refusal := run (.nullHint bits) s fun s _ => .ok s

/-- hint.class (R335, R430): the class that Collie is to move the hart to; 3 withdraws the request. -/
def execHintClass (cls : Fin 4) (s : State) : Host.Outcome State Fault Refusal :=
  run (.hintClass cls) s (onHart fun h => { h with sched := { h.sched with hintClass := BitVec.ofNat 2 cls.val } })

/-- A sector that can be fetched into a vault: HBM or host memory in CXL mode, of a live agent. -/
def State.fetchable (s : State) (pa : Nat) : Bool := (s.deadAt pa).isNone && s.cached pa

/-- The sectors that a hint.pref names, as they translate: a page that fails is skipped, and no TLB entry is made. -/
def State.prefSectors (s : State) (h : Hart) (write : Bool) (va : Word) (n : Nat) : List Xlat :=
  (List.range n).filterMap fun i =>
    match s.access h.ctx (va + BitVec.ofNat 64 (64 * i)) (if write then .store else .load) with
    | .error _ => none
    | .ok x => if s.fetchable x.pa then some x else none

/-- hint.pref (R335): sectors are fetched into the vault of their page at low priority (Table 14.3); a length of 0 means
65,536. It goes on once a host has answered for its sectors, and no region that it asks is closing (R376, R379). -/
def execHintPref (write : Bool) (a : Reg) (len : BitVec 16) (s : State) : Host.Outcome State Fault Refusal :=
  run (.hintPref write a len) s fun s h =>
    let l := s.prefSectors h write (h.getX a) (if len = 0 then 65536 else len.toNat)
    if l.any fun x => s.readWaits x.pa (s.cacheDie (h.via x) x.pa) then .stall s
    else
      match s.askReads (l.map fun x => (h.via x, x.pa, 1, some false)) with
      | (s, true, _) => .stall s
      | (s, false, bad) =>
        .ok (l.foldl (fun s x =>
          if bad.contains (sectorOf x.pa) then s else s.readLine (h.via x) x.pa (some false) false (h.getX a != x.va && s.sameLine (h.via x) (sectorOf x.pa))) s)

/-- hint.live (R335): which registers of one half the next move pulls at arrival. -/
def execHintLive (hi : Bool) (mask : BitVec 16) (s : State) : Host.Outcome State Fault Refusal :=
  run (.hintLive hi mask) s (onHart fun h =>
    { h with sched := { h.sched with hintLive := if hi then app 16 16 mask (lo 16 16 h.sched.hintLive) else app 16 16 (Sys2Proof.hi 16 16 h.sched.hintLive) mask } })

/-- hint.fuse (R335): how instructions issue together changes time alone. -/
def execHintFuse (n : BitVec 3) (s : State) : Host.Outcome State Fault Refusal := run (.hintFuse n) s fun s _ => .ok s

/-- hint.pause (R335): the hart issues nothing for a number of cycles, or until a mailbox entry or an interrupt arrives. -/
def execHintPause (cycles : BitVec 16) (s : State) : Host.Outcome State Fault Refusal :=
  run (.hintPause cycles) s fun s h =>
    .ok (if cycles = 0 then s
      else s.modHart h.key fun g => { g with sched := { g.sched with pauseUntil := some (s.time + s.cyclesNs h.core cycles.toNat) } })

/-- HINT_PAUSE_END: the cycles of a hint.pause are over. -/
def execHintPauseEnd (k : HartKey) (s : State) : Host.Outcome State Fault Refusal :=
  match (s.hart? k).bind fun h => h.sched.pauseUntil with
  | none => .next s
  | some t => .next (if t ≤ s.time then s.modHart k fun h => { h with sched := { h.sched with pauseUntil := none } } else s)

/-- hint.place (R335): a die, and a cluster of it where given; ignored under migctl.PIN. -/
def execHintPlace (die : BitVec 3) (valid : Bool) (cluster : BitVec 2) (s : State) : Host.Outcome State Fault Refusal :=
  run (.hintPlace die valid cluster) s fun s h =>
    .ok (if h.csr.pin then s
      else s.modHart h.key fun g =>
        { g with sched := { g.sched with hintPlace := some (die.toNat, if valid then some cluster.toNat else none), goPlace := true } })

end Sys2Proof.Machine
end

