-- ==== Sys2Proof/Machine/Links.lean ====
section
/-! DEFINITION. Mortar links: flow control, the coding of sectors, dictionaries and their checksums (R389 to R394). -/

namespace Sys2Proof.Machine

/-- Number of a direction. -/
def dirNo (up : Bool) : Fin 2 := if up then 1 else 0

/-- One direction of a link. -/
def State.linkDir (s : State) (l : Fin 9) (up : Bool) : LinkDir := (s.links[l])[dirNo up]

/-- The state with one direction of a link changed; a dead link carries nothing (R382). -/
def State.modLink (s : State) (l : Fin 9) (up : Bool) (f : LinkDir → LinkDir) : State :=
  match s.agents.lookup (.link l) with
  | some a => if a.alive then { s with links := s.links.set l ((s.links[l]).set (dirNo up) (f (s.linkDir l up))) } else s
  | none => s

/-- The shortest way of at most `n` links from a die to another over live dies and links in service. -/
def State.wayTo (s : State) (b : Nat) : Nat → Nat → Option (List Nat)
  | 0, a => if a = b then some [a] else none
  | n + 1, a =>
    if a = b then some [a]
    else ((List.range 6).filter fun d => s.joined a d && (d == b || s.alive (.die (Fin.ofNat 6 d)))).findSome? fun d => (s.wayTo b n d).map (a :: ·)

/-- The shortest way from a die to another. -/
def State.way (s : State) (a b : Nat) : Option (List Nat) := (List.range 6).findSome? fun n => s.wayTo b n a

/-- The dies that traffic from one die to another passes (R388): over the direct link where one is in service, else by way of Keystone as the
relay, over as many of the remaining links as that takes; none where no way is left. No result depends on it (R394). -/
def State.route (s : State) (a b : Nat) : Option (List Nat) :=
  if a = b then some [a]
  else if s.joined a b then some [a, b]
  else
    match s.way a 0, s.way 0 b with
    | some p, some q => some ((p ++ q.drop 1).takeWhile (· != b) ++ [b])
    | some _, none => s.way a b
    | none, _ => s.way a b

/-- LINK_STOP (R390): the receiver's free space for the class has fallen to 64 flits, which are all that the sender may still send. -/
def execLinkStop (l : Fin 9) (up : Bool) (cls : Fin 3) (s : State) : Host.Outcome State Fault Refusal :=
  .next (s.modLink l up fun d => if d.stopped.contains cls then d else { d with stopped := d.stopped ++ [cls], free := d.free.set cls (min 64 d.free[cls]) })

/-- LINK_GO (R390): the receiver has taken flits out, and the free space has risen to 128 flits. -/
def execLinkGo (l : Fin 9) (up : Bool) (cls : Fin 3) (s : State) : Host.Outcome State Fault Refusal :=
  .next (s.modLink l up fun d => { d with stopped := d.stopped.filter (· != cls), free := d.free.set cls 128 })

/-- Flits of a class reach the receiver and take up its free space; at 64 flits it sends STOP, and those sent after that stay in the skid buffer
(R390). None where the sender may not send so many. -/
def LinkDir.take (d : LinkDir) (cls : Fin 3) (n : Nat) : Option LinkDir :=
  let left := d.free[cls] - n
  if d.free[cls] < n then none
  else some { d with free := d.free.set cls left, stopped := if left ≤ 64 && !d.stopped.contains cls then d.stopped ++ [cls] else d.stopped }

/-- The tag of a coded word (Table 16.2). -/
def linkTag : LinkWord → Nat
  | .zero => 0
  | .slot _ => 1
  | .raw _ => 2
  | .same => 3

/-- The width and the value of the bits after the tag (Table 16.2). -/
def linkRest : LinkWord → Nat × Nat
  | .zero => (0, 0)
  | .slot n => (8, n.val)
  | .raw w => (64, w.toNat)
  | .same => (0, 0)

/-- A sector as it crosses a link, from its first word on: each word's tag with the bits after it, and the CRC (R391; log 9). -/
def sectorFields (l : List LinkWord) (crc : BitVec 16) : List (Nat × Nat) := (l.flatMap fun c => [(2, linkTag c), linkRest c]) ++ [(16, crc.toNat)]

/-- Flits of a coded sector with its CRC, each of 32 bytes (R389). -/
def sectorFlits (l : List LinkWord) (crc : BitVec 16) : Nat := ((sectorFields l crc).foldl (fun n f => n + f.1) 0 + 255) / 256

/-- The word that a code stands for (Table 16.2): a slot has to hold one, and word 0 has no word before it (R392). -/
def Dict.word? (dict : Dict) (prev : Option Word) : LinkWord → Option Word
  | .zero => some 0
  | .slot n => if n.val < dict.filled then some dict.slots[n] else none
  | .raw w => some w
  | .same => prev

/-- The words of a sector from their codes; none where a code stands for no word. -/
def decodeSector (dict : Dict) : Option Word → List LinkWord → Option (List Word)
  | _, [] => some []
  | prev, c :: l =>
    match dict.word? prev c with
    | none => none
    | some w => (decodeSector dict (some w) l).map (w :: ·)

/-- A raw word goes into slot P, and P moves on (R392). -/
def Dict.insertWord (d : Dict) (c : LinkWord) : Dict :=
  match c with
  | .raw w => { slots := d.slots.set d.p w, p := d.p + 1, filled := min 256 (d.filled + 1) }
  | .zero => d
  | .slot _ => d
  | .same => d

/-- The raw words of a sector go into the dictionary in word order (R392). -/
def Dict.insert (d : Dict) (l : List LinkWord) : Dict := l.foldl Dict.insertWord d

/-- The reset of R393: both ends start with empty dictionaries, and a checksum of the old ones is not compared any more. -/
def LinkDir.dictReset (d : LinkDir) : LinkDir := { d with tx := Dict.empty, rx := Dict.empty, due := none, resets := d.resets + 1 }

/-- The reset that a failed sector brings: the sender resends what is not acknowledged, that sector last (R393). -/
def LinkDir.failed (d : LinkDir) (ws : List Word) : LinkDir :=
  { d.dictReset with waiting := if d.waiting.isEmpty then [ws] else d.waiting }

/-- The sender may send these codes now: they code `ws` by its dictionary, and while sectors are to be sent again, only the first of those,
uncompressed (R392, R393). -/
def LinkDir.sends (d : LinkDir) (words : List LinkWord) (ws : List Word) : Bool :=
  match d.waiting with
  | [] => true
  | w :: _ => w == ws && words == ws.map LinkWord.raw

/-- The traffic class of sectors: responses and data (R389). -/
def dataClass : Fin 3 := 2

/-- CRC-16/CCITT: polynomial 0x1021, most significant bit first, from 0xFFFF (log 18). -/
def crcCcitt (bs : List Byte) : BitVec 16 :=
  bs.foldl (fun c b =>
    (List.range 8).foldl (fun c _ => if c.getLsbD 15 then (c <<< 1) ^^^ 0x1021 else c <<< 1) (c ^^^ ((BitVec.setWidth 16 b) <<< (8 : Nat)))) (0xFFFF : BitVec 16)

/-- The checksum of a dictionary (R393): its slot bytes in slot order, then P. -/
def Dict.checksum (d : Dict) : BitVec 16 := crcCcitt ((d.slots.toList.map fun w => leBytes 8 w.toNat).flatten ++ [BitVec.ofNat 8 d.p.val])

/-- Flits go over the link; with every 4,096th, the checksums of the two dictionaries as they stand before its sector fall due (R393). -/
def LinkDir.count (d : LinkDir) (n : Nat) : LinkDir :=
  { d with flits := (d.flits + n) % 4096, due := if 4096 ≤ d.flits + n then some (d.tx.checksum, d.rx.checksum) else d.due }

/-- The sender's checksum that is due reaches the receiver, which compares it with its own; where they differ, the link resets (R393). -/
def LinkDir.compare (d : LinkDir) : LinkDir :=
  match d.due with
  | none => d
  | some (a, b) => if a == b then { d with due := none } else d.dictReset

/-- The comparison of a checksum that is due. -/
def State.linkCompare (s : State) (l : Fin 9) (up : Bool) : State :=
  match (s.linkDir l up).due with
  | none => s
  | some (a, b) => if s.alive (.link l) then (s.modLink l up LinkDir.compare).emit (.checksum l.val (a == b)) else s

/-- A sector crosses, coded as the sender coded it, with the CRC that arrives (R392). -/
def LinkDir.sector (d : LinkDir) (words : List LinkWord) (crc : BitVec 16) : LinkDir :=
  let n := sectorFlits words crc
  match decodeSector d.tx none words, d.take dataClass n with
  | some ws, some e =>
    if words.length ≠ 8 || !d.sends words ws then d
    else
      let e := e.count n
      if decodeSector e.rx none words == some ws && Config.sectorCrc (ws.map fun w => leBytes 8 w.toNat).flatten == crc then
        { e with tx := e.tx.insert words, rx := e.rx.insert words, delivered := e.delivered ++ [ws], waiting := e.waiting.drop 1 }
      else e.failed ws
  | some _, none => d
  | none, _ => d

/-- LINK_SECTOR_RECEIVE (R392; log 88): a sector whose CRC passes is delivered, and both dictionaries take its raw words; otherwise the link
resets, and the sender sends the sector again. What the sender may not send does not arrive. A checksum that is due comes before the sector
(R389, R393). -/
def execLinkSectorReceive (l : Fin 9) (up : Bool) (words : List LinkWord) (crc : BitVec 16) (s : State) : Host.Outcome State Fault Refusal :=
  .next ((s.linkCompare l up).modLink l up fun d => d.sector words crc)

/-- LINK_DICT_CHECKSUM (R393): after 4,096 flits the two ends compare; where they differ, the link resets. -/
def execLinkDictChecksum (l : Fin 9) (up : Bool) (s : State) : Host.Outcome State Fault Refusal := .next (s.linkCompare l up)

end Sys2Proof.Machine
end

