-- ==== Sys2Proof/Machine/Hash.lean ====
section
/-! DEFINITION. SHA-256 and the check of an LMS signature with the parameter sets LMS_SHA256_M32_H10 and LMOTS_SHA256_N32_W4, which R503 to R505
name; FIPS 180-4 and RFC 8554 give them (log 89). -/

namespace Sys2Proof.Machine

/-- The eight words that a hash starts with. -/
def shaStart : List Half :=
  [0x6A09E667, 0xBB67AE85, 0x3C6EF372, 0xA54FF53A, 0x510E527F, 0x9B05688C, 0x1F83D9AB, 0x5BE0CD19]

/-- The constants of the 64 rounds. -/
def shaConsts : List Half :=
  [0x428A2F98, 0x71374491, 0xB5C0FBCF, 0xE9B5DBA5, 0x3956C25B, 0x59F111F1, 0x923F82A4, 0xAB1C5ED5,
   0xD807AA98, 0x12835B01, 0x243185BE, 0x550C7DC3, 0x72BE5D74, 0x80DEB1FE, 0x9BDC06A7, 0xC19BF174,
   0xE49B69C1, 0xEFBE4786, 0x0FC19DC6, 0x240CA1CC, 0x2DE92C6F, 0x4A7484AA, 0x5CB0A9DC, 0x76F988DA] ++
  [0x983E5152, 0xA831C66D, 0xB00327C8, 0xBF597FC7, 0xC6E00BF3, 0xD5A79147, 0x06CA6351, 0x14292967,
   0x27B70A85, 0x2E1B2138, 0x4D2C6DFC, 0x53380D13, 0x650A7354, 0x766A0ABB, 0x81C2C92E, 0x92722C85] ++
  [0xA2BFE8A1, 0xA81A664B, 0xC24B8B70, 0xC76C51A3, 0xD192E819, 0xD6990624, 0xF40E3585, 0x106AA070,
   0x19A4C116, 0x1E376C08, 0x2748774C, 0x34B0BCB5, 0x391C0CB3, 0x4ED8AA4A, 0x5B9CCA4F, 0x682E6FF3,
   0x748F82EE, 0x78A5636F, 0x84C87814, 0x8CC70208, 0x90BEFFFA, 0xA4506CEB, 0xBEF9A3F7, 0xC67178F2]

/-- The message schedule: `n` further words after the sixteen of the block, the newest first. -/
def shaSchedule : Nat → List Half → List Half
  | 0, w => w
  | n + 1, w =>
    let a := w.getD 1 0
    let b := w.getD 14 0
    let s1 := a.rotateRight 17 ^^^ a.rotateRight 19 ^^^ (a >>> 10)
    let s0 := b.rotateRight 7 ^^^ b.rotateRight 18 ^^^ (b >>> 3)
    shaSchedule n ((s1 + w.getD 6 0 + s0 + w.getD 15 0) :: w)

/-- One round on the eight working words. -/
def shaRound (v : List Half) (x : Half × Half) : List Half :=
  match v with
  | [a, b, c, d, e, f, g, h] =>
    let t1 := h + (e.rotateRight 6 ^^^ e.rotateRight 11 ^^^ e.rotateRight 25) + ((e &&& f) ^^^ (~~~e &&& g)) + x.1 + x.2
    let t2 := (a.rotateRight 2 ^^^ a.rotateRight 13 ^^^ a.rotateRight 22) + ((a &&& b) ^^^ (a &&& c) ^^^ (b &&& c))
    [t1 + t2, a, b, c, d + t1, e, f, g]
  | _ => v

/-- The word of four bytes, the first the highest. -/
def beWord (l : List Byte) : Half := l.foldl (fun w b => w <<< (8 : Nat) ||| BitVec.setWidth 32 b) 0

/-- One block of 64 bytes goes into a hash. -/
def shaBlock (h : List Half) (block : List Byte) : List Half :=
  let w := (List.range 16).map fun i => beWord ((block.drop (4 * i)).take 4)
  let r := ((shaConsts.zip (shaSchedule 48 w.reverse).reverse).foldl shaRound h)
  (h.zip r).map fun x => x.1 + x.2

/-- The message with its padding and its length in bits. -/
def shaPad (m : List Byte) : List Byte :=
  let n := 8 * m.length
  m ++ 0x80 :: List.replicate ((119 - m.length % 64) % 64) 0 ++ (List.range 8).map fun i => BitVec.ofNat 8 (n / 2 ^ (56 - 8 * i))

/-- SHA-256 of a message, as 32 bytes. -/
def sha256 (m : List Byte) : List Byte :=
  let p := shaPad m
  let h := (List.range (p.length / 64)).foldl (fun h i => shaBlock h ((p.drop (64 * i)).take 64)) shaStart
  h.flatMap fun w => (List.range 4).map fun i => BitVec.ofNat 8 (w.toNat / 2 ^ (24 - 8 * i))

/-! ### LMS (RFC 8554) -/

/-- `n` bytes of a number, the highest first. -/
def beBytes (n v : Nat) : List Byte := (List.range n).map fun i => BitVec.ofNat 8 (v / 2 ^ (8 * (n - 1 - i)))

/-- The number of bytes, the first the highest. -/
def beNat (l : List Byte) : Nat := l.foldl (fun n b => 256 * n + b.toNat) 0

/-- `n` bytes from offset `i` on. -/
def sliceOf (l : List Byte) (i n : Nat) : List Byte := (l.drop i).take n

/-- The four-bit digits of bytes. -/
def nibbles (l : List Byte) : List Nat := l.flatMap fun b => [b.toNat / 16, b.toNat % 16]

/-- The 67 four-bit digits of a message hash and of its checksum, which decide how far each chain goes. -/
def lmotsDigits (q : List Byte) : List Nat :=
  let d := nibbles q
  d ++ (nibbles (beBytes 2 ((d.foldl (fun n x => n + (15 - x)) 0) * 16))).take 3

/-- A chain from step `a` on, `n` steps. -/
def lmotsChain (pre : List Byte) : Nat → Nat → List Byte → List Byte
  | 0, _, x => x
  | n + 1, a, x => lmotsChain pre n (a + 1) (sha256 (pre ++ beBytes 1 a ++ x))

/-- The one-time public key that a signature of a message yields. -/
def lmotsKey (ident q sig msg : List Byte) : List Byte :=
  let hash := sha256 (ident ++ q ++ [0x81, 0x81] ++ sliceOf sig 4 32 ++ msg)
  sha256 (ident ++ q ++ [0x80, 0x80] ++ ((lmotsDigits hash).zipIdx.flatMap fun x =>
    lmotsChain (ident ++ q ++ beBytes 2 x.2) (15 - x.1) x.1 (sliceOf sig (36 + 32 * x.2) 32)))

/-- The root that a leaf and the path above it yield. -/
def lmsClimb (ident : List Byte) : List (List Byte) → Nat → List Byte → List Byte
  | [], _, x => x
  | y :: l, node, x => lmsClimb ident l (node / 2) (sha256 (ident ++ beBytes 4 (node / 2) ++ [0x83, 0x83] ++ if node % 2 = 1 then y ++ x else x ++ y))

/-- The root that a signature of 2,508 bytes yields under a key that begins with `head`: the type codes 6 and 3 and the identifier. None where the
codes, the length or the leaf number are wrong. -/
def lmsRoot (head sig msg : List Byte) : Option (List Byte) :=
  let ident := head.drop 8
  let q := beNat (sig.take 4)
  if head.take 8 ≠ beBytes 4 6 ++ beBytes 4 3 ∨ head.length ≠ 24 ∨ sig.length ≠ 2508 ∨ sliceOf sig 4 4 ≠ beBytes 4 3 ∨ sliceOf sig 2184 4 ≠ beBytes 4 6 ∨
      1024 ≤ q then none
  else
    some (lmsClimb ident ((List.range 10).map fun i => sliceOf sig (2188 + 32 * i) 32) (1024 + q)
      (sha256 (ident ++ beBytes 4 (1024 + q) ++ [0x82, 0x82] ++ lmotsKey ident (sig.take 4) (sliceOf sig 4 2180) msg)))

/-- The signature of a message is good under a public key of 56 bytes. -/
def lmsVerifies (key sig msg : List Byte) : Bool := lmsRoot (key.take 24) sig msg == some (key.drop 24)

end Sys2Proof.Machine
end

