-- ==== Sys2Proof/Machine/Ports.lean ====
section
/-! DEFINITION. Completions from the host ports, coherence with the host, and the agents that the liveness monitor watches
(R164 to R166, R296, R378 to R387). -/

namespace Sys2Proof.Machine

/-- A message bears the incarnation of a live agent; any other is dropped on arrival (R382, R383), as is every one once the part has stopped (R384). -/
def State.current (s : State) (a : Agent) (inc : BitVec 16) : Bool :=
  !s.stopped &&
  match s.agents.lookup a with
  | some x => x.alive && x.incarnation == inc
  | none => false

/-! ### PCIe -/

/-- The last value that AtomicOps leave, from `start` on, given what each found and left, the latest to come back first (R164). The host performs
them in some order, one after another: all but the last value are found by the next of them. -/
def lastAtomic (start : Nat) (done : List (Nat × Nat)) : Nat :=
  let left := fun v : Nat => (done.filter fun x => x.2 == v).length + (if v = start then 1 else 0)
  let found := fun v : Nat => (done.filter fun x => x.1 == v).length
  ((done.map (·.2)).find? fun v => decide (found v < left v)).getD ((done.map (·.2)).headD start)

/-- The AtomicOps to some bytes that have come back while others to them are out; before the first, the bytes are as they stand. -/
def State.batch (s : State) (pa n : Nat) : AtomicBatch :=
  (s.atomics.find? fun b => b.pa == pa && b.n == n).getD { pa := pa, n := n, start := s.readNat pa n, done := [] }

/-- Host memory after an AtomicOp that found `old` there has come back: those to the same bytes may come back in another order than the host has
performed them in (R164). -/
def State.atomicAfter (s : State) (kind : AtomicKind) (pa n a b old : Nat) : Nat :=
  lastAtomic (s.batch pa n).start ((old, atomicResult kind n a b old) :: (s.batch pa n).done)

/-- The host has applied an AtomicOp to its memory (R164). -/
def State.applyAtomic (s : State) (pa n : Nat) (kind : AtomicKind) (a b old : Nat) : State :=
  let t := s.batch pa n
  let s' := (s.writeNat pa n (s.atomicAfter kind pa n a b old)).endReservations pa n
  { s' with atomics := { t with done := (old, atomicResult kind n a b old) :: t.done } :: s'.atomics.filter fun x => !(x.pa == pa && x.n == n) }

/-- The hart has sent an AtomicOp to some bytes, and it is out. -/
def Hart.atomicOut (h : Hart) (pa n : Nat) : Bool :=
  match h.req with
  | .atomicOp q _ m _ _ _ => q == pa && m == n
  | .none => false
  | .atomicDone _ _ => false
  | .read _ _ => false
  | .readDone _ _ => false
  | .flush _ => false
  | .cxl _ _ => false
  | .timedOut _ _ => false
  | .cxlError _ => false

/-- The record of AtomicOps to bytes to which none is out any more ends. -/
def State.endBatches (s : State) : State := { s with atomics := s.atomics.filter fun b => s.harts.any fun h => h.atomicOut b.pa b.n }

/-- PCIE_ATOMICOP_COMPLETION (R165): a completion with the old value says that host memory has been updated, and the atomic takes it
when it executes again. -/
def execPcieAtomicopCompletion (k : HartKey) (a : PcieAnswer) (s : State) : Host.Outcome State Fault Refusal :=
  match s.hart? k with
  | none => .next s
  | some h =>
    match h.req with
    | .atomicOp pa port n kind x y =>
      if !s.current (.port port) a.inc then .next s
      else
        let s := match a.reply with
          | .ok w => s.applyAtomic pa n kind x y (w.toNat % 256 ^ n)
          | .unsupported => s
          | .abort => s
          | .poisoned => s
        .next (s.modHart k fun g => { g with req := .atomicDone pa a.reply, stall := false }).endBatches
    | .none => .next s
    | .atomicDone _ _ => .next s
    | .read _ _ => .next s
    | .readDone _ _ => .next s
    | .flush _ => .next s
    | .cxl _ _ => .next s
    | .timedOut _ _ => .next s
    | .cxlError _ => .next s

/-- What a completion says of an error (R166). -/
def pcieReason : PcieReply → Option Nat
  | .ok _ => none
  | .unsupported => some 0x01
  | .abort => some 0x04
  | .poisoned => some 0x08

/-- The read of a sector that another stream than the scalar one has sent is answered: its bytes are here, or it has failed (R153). -/
def State.readAnswered (s : State) (sec : Nat) (r : PcieReply) (bytes : List Byte) : State :=
  if s.asked.any fun a => a.sector == sec && a.code == pcieRd && !a.here && a.failed.isNone then
    let s := match r with
      | .ok _ => s.writeBytes sec (bytes.take 64)
      | .unsupported => s
      | .abort => s
      | .poisoned => s
    { s with asked := s.asked.map fun (a : Ask) =>
        if a.sector == sec && a.code == pcieRd then { a with here := (pcieReason r).isNone, failed := (pcieReason r) } else a }
  else s

/-- PCIE_READ_COMPLETION (R166, R296): a load takes the value when it executes again; the completion of a flushing read says that
the writes on the port that the hart had made when it was sent have reached the host. -/
def execPcieReadCompletion (k : HartKey) (a : PcieAnswer) (s : State) : Host.Outcome State Fault Refusal :=
  match a.sector with
  | some (pa, bytes) =>
    (match placeOf pa with
     | .host n => .next (if s.current (.port n) a.inc then s.readAnswered (sectorOf pa) a.reply bytes else s)
     | .hbm _ => .next s
     | .store _ _ => .next s
     | .homeStore _ => .next s
     | .homeWindow _ => .next s
     | .hole => .next s)
  | none =>
    .next (s.modHart k fun h =>
      match h.req with
      | .read pa p => if s.current (.port p) a.inc then { h with req := .readDone pa a.reply, stall := false } else h
      | .flush p =>
        if s.current (.port p) a.inc then
          { h.modOutst fun o => { o with port := if o.flushing && o.port == some p then none else o.port } with req := .none, stall := false }
        else h
      | .none => h
      | .atomicOp _ _ _ _ _ _ => h
      | .atomicDone _ _ => h
      | .readDone _ _ => h
      | .cxl _ _ => h
      | .timedOut _ _ => h
      | .cxlError _ => h)

/-- The oldest read of a sector that another stream than the scalar one has sent gets no completion (R166). -/
def State.readLost (s : State) : State :=
  match (s.asked.filter fun a => a.code == pcieRd && !a.here && a.failed.isNone).getLast? with
  | some a => { s with asked := s.asked.map fun x => if x == a then { x with failed := some 0x10 } else x }
  | none => s

/-- PCIE_COMPLETION_TIMEOUT (R165, R166): the atomic or the load traps when it executes again; whether the atomic reached host memory
is a free value (log 11). A flushing read is sent again. Where the scalar stream waits for none, the read of another stream has failed. -/
def execPcieCompletionTimeout (k : HartKey) (s : State) : Host.Outcome State Fault Refusal :=
  match s.hart? k with
  | none => .next s.readLost
  | some h =>
    match h.req with
    | .atomicOp pa _ n kind a b =>
      let (s, c) := s.draw
      let s := if Config.timedOutApplied c then s.applyAtomic pa n kind a b (s.readNat pa n) else s
      .next (s.modHart k fun g => { g with req := .timedOut pa true, stall := false }).endBatches
    | .read pa _ => .next (s.modHart k fun g => { g with req := .timedOut pa false, stall := false })
    | .flush _ => .next (s.modHart k fun g => { g with req := .none, stall := false })
    | .none => .next s.readLost
    | .atomicDone _ _ => .next s.readLost
    | .readDone _ _ => .next s.readLost
    | .cxl _ _ => .next s.readLost
    | .timedOut _ _ => .next s.readLost
    | .cxlError _ => .next s.readLost

/-! ### CXL.cache -/

/-- An address of host memory behind a port in CXL mode, and a message of the host that bears its incarnation. -/
def State.onCxl (s : State) (pa : Nat) (inc : BitVec 16) : Bool :=
  match placeOf pa with
  | .host n => s.ports[n].cxl && s.current (.port n) inc
  | .hbm _ => false
  | .store _ _ => false
  | .homeStore _ => false
  | .homeWindow _ => false
  | .hole => false

/-- The hart waits for a sector, with or without ownership. -/
def Hart.waitsCxl (h : Hart) (sec : Nat) (own : Bool) : Bool := h.req == .cxl sec own

/-- The oldest WrCur of a sector is complete: its write, and what waits for it, is performed (R379). -/
def State.settleWrCur (s : State) (sec : Nat) : State :=
  match s.wrCurs.find? fun x => x.1 == sec with
  | none => s
  | some x =>
    { s with
      wrCurs := s.wrCurs.erase x
      harts := s.harts.map fun (h : Hart) => h.modOutst fun o => { o with wrCur := o.wrCur.filter (· != x.2) } }

/-- Writes on a sector of device memory that waited for a host are performed. -/
def State.settleSector (s : State) (sec : Nat) : State :=
  { s with harts := s.harts.map fun h => h.modOutst fun o => { o with sector := if o.sector == some sec then none else o.sector } }

/-- Code of the request for a sector that is out, if one is. -/
def State.requestCode (s : State) (sec : Nat) : Option Nat :=
  if s.harts.any fun h => h.waitsCxl sec true then some rdOwn
  else if s.harts.any fun h => h.waitsCxl sec false then some rdAny
  else (s.asked.find? fun a => a.sector == sec && a.failed.isNone).map (·.code)

/-- The harts that wait for a sector execute again, and a request of another stream is answered: it is gone, or failed. -/
def State.answerRequests (s : State) (sec : Nat) (failed : Bool) : State :=
  { s with
    harts := s.harts.map fun (h : Hart) =>
      if h.waitsCxl sec true || h.waitsCxl sec false then { h with req := if failed then .cxlError sec else .none, stall := false } else h
    asked := if failed then s.asked.map fun (a : Ask) => if a.sector == sec then { a with failed := some 0x41 } else a
      else s.asked.filter fun a => a.sector != sec }

/-- The state of a sector after the host has granted a request for it with data (Table 15.6). -/
def Cxl.granted (c : Cxl) (own exclusive : Bool) : Cxl :=
  match c with
  | .i => if own || exclusive then .e else .s
  | .s => if own then .e else .s
  | .o => if own then .m else .o
  | .e => .e
  | .m => .m
  | .z => .e

/-- CXL_CACHE_RESPONSE (R379): the host completes a WrCur, or answers the request for a sector that is out. An answer
without 64 bytes of data reports an error (R166), but to RdOwnNoData, which asks for none: the sector is then in Z. -/
def execCxlCacheResponse (m : CacheMsg) (exclusive : Bool) (data : List Byte) (s : State) : Host.Outcome State Fault Refusal :=
  let sec := sectorOf m.sector
  if !s.onCxl sec m.inc then .next s
  else
    match (if m.write then none else s.requestCode sec) with
    | none => .next (s.settleWrCur sec)
    | some code =>
      if code = rdOwnNoData then .next ((s.answerRequests sec false).setCxl sec .z)
      else if data.length ≠ 64 then .next (s.answerRequests sec true)
      else
        let was := s.cxlState sec
        let s := if was == .i || was == .z then s.writeBytes sec data else s
        let s := (s.answerRequests sec false).setCxl sec (was.granted (code == rdOwn) exclusive)
        .next (if was == .z then s.answerWaiting sec else s)

/-- A snoop of a sector of host memory: one in Z waits for its write to land (R379). -/
def snoop (k : Snoop) (m : CacheMsg) (s : State) : State :=
  let sec := sectorOf m.sector
  if !s.onCxl sec m.inc then s
  else if s.cxlState sec == .z then { s with snoops := s.snoops ++ [(sec, k)] }
  else s.answerSnoop sec k

/-- SNPDATA (R379). -/
def execSnpData (m : CacheMsg) (s : State) : Host.Outcome State Fault Refusal := .next (snoop .data m s)

/-- SNPINV (R379): the device copies go, and reservations on the sector end (R161). -/
def execSnpInv (m : CacheMsg) (s : State) : Host.Outcome State Fault Refusal := .next (snoop .inv m s)

/-- SNPCUR (R379): nothing changes state. -/
def execSnpCur (m : CacheMsg) (s : State) : Host.Outcome State Fault Refusal := .next (snoop .cur m s)

/-! ### CXL.mem (R380) -/

/-- The host of a port can reach the sector over CXL.mem: HBM of a live die, through a port in CXL mode, with its incarnation. -/
def State.memReachable (s : State) (port : Fin 2) (inc : BitVec 16) (pa : Nat) : Bool :=
  s.ports[port].cxl && s.current (.port port) inc &&
  (match placeOf pa with
   | .hbm _ => (s.deadAt pa).isNone
   | .store _ _ => false
   | .homeStore _ => false
   | .homeWindow _ => false
   | .host _ => false
   | .hole => false)

/-- A host access takes a region to F (Table 15.3, R380): from P at once; from R by way of closing, where a write recalls every lease
and a read, of which Table 15.3 says nothing, those that a device write would recall (log 32). -/
def State.hostAsks (s : State) (pa : Nat) (write : Bool) : State :=
  let e := s.region (regionOf pa)
  match e.state with
  | .p o => s.putRegion { e with state := .f [o] [], askers := [], decayFrom := s.time }
  | .f _ _ => s.putRegion { e with askers := [], decayFrom := s.time }
  | .r _ => s.close (regionOf pa) [] write

/-- The host of a port holds a sector. -/
def State.addHolder (s : State) (sec : Nat) (port : Fin 2) : State :=
  if s.hostHeld.any fun x => x.sector == sec && x.port == port then s
  else { s with hostHeld := s.hostHeld ++ [{ sector := sec, port := port, invalidating := false }] }

/-- CXL_MEM_READ (R380): the host reads the current value and is recorded as a holder. A sector with an uncorrectable error
returns no data. -/
def execCxlMemRead (m : MemMsg) (s : State) : Host.Outcome State Fault Refusal :=
  let sec := sectorOf m.sector
  if !s.memReachable m.port m.inc sec then .next s
  else
    let s := (s.hostAsks sec false).correct sec
    if s.corrupted sec then .next (s.emit (.hostData sec []))
    else .next ((s.addHolder sec m.port).emit (.hostData sec (Mem.bytes s.mem sec 64)))

/-- CXL_MEM_WRITE (R380, R376): every device copy goes, and memory takes the data; in a region with live leases the write waits
until they have ended. -/
def execCxlMemWrite (m : MemMsg) (data : List Byte) (s : State) : Host.Outcome State Fault Refusal :=
  let sec := sectorOf m.sector
  if !s.memReachable m.port m.inc sec || data.length ≠ 64 then .next s
  else
    let w : HostWrite := { sector := sec, bytes := data }
    match (s.region (regionOf sec)).state with
    | .r _ => .next (State.hostAsks { s with hostWrites := s.hostWrites ++ [w] } sec true)
    | .p _ => .next ((s.hostAsks sec true).hostWrite w)
    | .f _ _ => .next ((s.hostAsks sec true).hostWrite w)

/-- Writes that waited for hosts to give their sectors up are performed where no host is still to answer. -/
def State.settleHeld (s : State) (sec : Nat) : State := if s.hostHeld.any fun x => x.sector == sec && x.invalidating then s else s.settleSector sec

/-- BIRSP (R380): the host of a port has given the sector up; once every host that holds it has, the write that waited reaches
system scope. -/
def execBirsp (m : MemMsg) (s : State) : Host.Outcome State Fault Refusal :=
  let sec := sectorOf m.sector
  let mine := fun x : HostHeld => x.sector == sec && x.port == m.port && x.invalidating
  if s.current (.port m.port) m.inc && s.hostHeld.any mine then
    .next (State.settleHeld { s with hostHeld := s.hostHeld.filter fun x => !mine x } sec)
  else .next s

/-! ### Agents (R382 to R387) -/

/-- The record of an agent changed. -/
def State.modAgent (s : State) (a : Agent) (f : AgentState → AgentState) : State :=
  { s with agents := s.agents.map fun x => if x.1 == a then (a, f x.2) else x }

/-- HEARTBEAT (R382): one that bears another incarnation, or comes from a dead agent, is dropped. -/
def execHeartbeat (a : Agent) (incarnation : BitVec 16) (s : State) : Host.Outcome State Fault Refusal :=
  .next (s.modAgent a fun x => if x.alive && x.incarnation == incarnation then { x with lastBeat := s.time, mute := false } else x)

/-- The heartbeats that the agents send by themselves, one each microsecond (Table 15.4): all but those that are mute. -/
def State.beats (s : State) : State :=
  { s with agents := s.agents.map fun x => if x.2.alive && !x.2.mute && decide (x.2.lastBeat + 1000 ≤ s.time) then (x.1, { x.2 with lastBeat := s.time }) else x }

/-- A dirty sector that a death loses: its partition, vault and address, and the bytes that memory holds under it. -/
structure Loss where
  part : Fin 17
  vault : BitVec 8
  addr : Nat
  memory : List Byte
deriving DecidableEq, Repr

/-- The dirty sectors of the lines that a test on line and address selects. -/
def State.losses (s : State) (sel : Line → Nat → Bool) : List Loss :=
  s.lines.flatMap fun l => l.sectors.zipIdx.filterMap fun x =>
    let pa := l.tag + 64 * x.2
    match x.1 with
    | .dirty old => if sel l pa then some { part := l.part, vault := l.vault, addr := pa, memory := old } else none
    | .clean => none
    | .invalid => none

/-- The sectors that a test selects go from the vaults, and the L1D copies of lost addresses too. -/
def State.loseSectors (s : State) (sel : Line → Nat → Bool) : State :=
  s.setLines (s.lines.map fun l => { l with sectors := l.sectors.zipIdx.map fun x => if sel l (l.tag + 64 * x.2) then .invalid else x.1 })

/-- Lost sectors: memory keeps what it held, each region of each vault gets a record, and the partitions are terminated (R385, R386). -/
def State.lose (s : State) (l : List Loss) (agent inc : Nat) : State :=
  let s := l.foldl (fun s x => (s.writeBytes x.addr x.memory).endReservations x.addr 64) s
  let groups := dedup (l.map fun x => (x.part, x.vault, regionOf x.addr))
  let s := groups.foldl (fun s g =>
    (s.faultRecord g.1
      { kind := 5, reason := 7, vault := g.2.1.toNat, inc := inc, agent := agent,
        aux := (l.filter fun x => x.part == g.1 && x.vault == g.2.1 && regionOf x.addr == g.2.2).length, addr := g.2.2 * 0x200000 })) s
  (dedup (groups.map (·.1))).foldl (fun s p => s.terminatePart p 0 0) s

/-- The decay interval of a region in F restarts at a declaration of death, and requests before it count no more (R387). -/
def Region.restart (e : Region) (time : Nat) : Region :=
  match e.state with
  | .f _ _ => { e with askers := [], decayFrom := time }
  | .p _ => e
  | .r _ => e

/-- A dead die leaves a region's entry (R387). -/
def Region.bereft (e : Region) (die home : Nat) : Region :=
  match e.state with
  | .p o => if o = die then { e with state := .p home } else e
  | .r ls =>
    { e with
      state := .r (ls.filter fun l => l.1 != die)
      recalled := e.recalled.filter (· != die)
      waiting := e.waiting.filter fun x => x.2 != die
      closing := e.closing.map fun l => l.map fun x => (x.1, x.2.filter (· != die)) }
  | .f base hs =>
    { e with state := .f (base.filter (· != die)) (hs.map fun x => (x.1, x.2.filter (· != die))) }

/-- A region whose last lease has lapsed while it was closing is in F. -/
def State.closeRegion (s : State) (r : Nat) : State :=
  let e := s.region r
  match e.state, e.closing with
  | .r [], some _ => s.endLease r 6
  | .r [], none => s
  | .r (_ :: _), _ => s
  | .p _, _ => s
  | .f _ _, _ => s

/-- Host sectors that a die held when it died: one whose dirty copy is lost, and one that nobody holds any more, is not the device's (R384). -/
def State.hostLost (s : State) (held : List Nat) (lost : List Nat) : State :=
  held.foldl (fun s sec =>
    if lost.contains sec then (s.dropL1 fun _ x => x == sec).setCxl sec .i
    else if s.inL1 sec || s.lines.any fun l => l.holds sec && (l.sector sec).isValid then s
    else if s.cxlState sec == .i then s
    else s.setCxl sec .i) s

/-- The partitions that lose a hart with a die: by its home core, by the core it occupies, or by a slot that holds its vector
state (R384, log 14). -/
def State.partsOn (s : State) (die : Nat) : List (Fin 17) :=
  dedup (((s.harts.filter fun h => dieOf h.sched.home == die || (h.sched.slot.isSome && dieOf h.core == die)).map fun h => h.key.part) ++
    ((s.slots.filter fun x => x.valid && dieOf x.id.core == die).map fun x => x.owner))

/-- Die 1 to 5 dies (Table 15.7); its caches, those of translations among them, are empty when it comes back (R383). -/
def State.dieDies (s : State) (d : Fin 6) : State :=
  match s.agents.lookup (.die d) with
  | none => s
  | some a =>
    if !a.alive then s
    else
      let s := s.modAgent (.die d) fun x => { x with alive := false }
      let sel := fun (l : Line) (pa : Nat) => dieOfSlice l.slice == d.val || (placeOf pa == Place.hbm d.val)
      let lost := s.losses sel
      let held := (s.lines.filter fun l => dieOfSlice l.slice == d.val).flatMap fun l =>
        ((List.range l.sectors.length).map fun n => l.tag + 64 * n).filter inHost
      let s := s.loseSectors sel
      let s := s.dropL1 fun c sec => dieOf c == d.val || placeOf sec == Place.hbm d.val
      let s := s.hostLost held (lost.map (·.addr))
      let gone := fun r : Nat => homeDie (r * 0x200000) == d.val && !inHost (r * 0x200000)
      let s :=
        { s with
          tlb := s.tlb.filter fun e => dieOf e.core != d.val
          stale := s.stale.filter fun x => x.die != d.val && !gone (regionOf x.sector)
          hostHeld := s.hostHeld.filter fun x => !gone (regionOf x.sector)
          hostWrites := s.hostWrites.filter fun x => !gone (regionOf x.sector)
          harts := s.harts.map fun (h : Hart) => h.modOutst fun o =>
            { o with
              region := o.region.filter fun r => !gone r
              sector := o.sector.filter fun x => !gone (regionOf x) }
          regions := s.regions.map fun (e : Region) =>
            if gone e.index then { e with closing := none, recalled := [], waiting := [], covered := [] } else e.bereft d.val (homeDie (e.index * 0x200000)) }
      let s := (s.regions.map (·.index)).foldl State.closeRegion s
      let s := s.lose lost d.val a.incarnation.toNat
      let s := (s.partsOn d.val).foldl (fun (s : State) p => s.terminatePart p 0 0) s
      { s with slots := s.slots.map fun x => if dieOf x.id.core == d.val then { x with valid := false } else x }

/-- Host port `n` dies (Table 15.7). -/
def State.portDies (s : State) (n : Fin 2) : State :=
  match s.agents.lookup (.port n) with
  | none => s
  | some a =>
    if !a.alive then s
    else
      let s := s.modAgent (.port n) fun x => { x with alive := false }
      let sel := fun (_ : Line) (pa : Nat) => placeOf pa == Place.host n
      let lost := s.losses sel
      let s := s.loseSectors sel
      let mine := fun sec : Nat => placeOf sec == Place.host n
      let s := s.dropL1 fun _ sec => mine sec
      let late := fun k : Nat => s.wrCurs.any fun x => x.2 == k && mine x.1
      let s :=
        { s with
          wrCurs := s.wrCurs.filter fun x => !mine x.1
          cxl := s.cxl.filter fun x => !mine x.1
          asked := s.asked.filter fun x => !mine x.sector
          snoops := s.snoops.filter fun x => !mine x.1
          hostHeld := s.hostHeld.filter fun x => x.port != n
          harts := s.harts.map fun (h : Hart) =>
            { h.modOutst fun o =>
                { o with
                  port := if o.port == some n then none else o.port
                  wrCur := o.wrCur.filter fun k => !late k
                  sector := o.sector.filter fun x => !mine x }
              with stall := false } }
      let s := (dedup (s.harts.flatMap fun h => h.outst.filterMap (·.sector))).foldl (fun s x => if inHost x then s else s.settleHeld x) s
      s.lose lost (0x10 + n.val) a.incarnation.toNat

/-- Dies that reach Keystone over live links and through live dies, by so many rounds. -/
def State.reach (s : State) : Nat → List Nat → List Nat
  | 0, l => l
  | n + 1, l =>
    s.reach n (dedup (l ++ ((List.finRange 6).filter fun d => s.alive (.die d) && l.any fun a => s.joined a d.val).map (·.val)))

/-- Dies that no longer reach Keystone are declared dead (Table 15.7). -/
def State.dropUnreached (s : State) : State :=
  let ok := s.reach 6 [0]
  (List.finRange 6).foldl (fun s d => if ok.contains d.val then s else s.dieDies d) s

/-- An agent dies (R384); every region's decay interval restarts (R387). -/
def State.agentDies (s : State) (a : Agent) : State :=
  let s := { s with regions := s.regions.map fun (e : Region) => e.restart s.time }
  match a with
  | .die d =>
    if d = 0 then
      ((List.finRange 17).foldl (fun s p => if (s.part p).state == .absent || (s.part p).state == .terminated then s else s.terminatePart p 0 0)
        (s.modAgent a fun x => { x with alive := false })).emit .partDied
    else (s.dieDies d).dropUnreached
  | .port n => s.portDies n
  | .link _ => (s.modAgent a fun x => { x with alive := false }).dropUnreached

/-- AGENT_DEATH (R382): a live agent that has been silent for 10 µs is declared dead; one that has not is mute from here on, so that the
monitor declares it dead when the time has come. -/
def execAgentDeath (a : Agent) (s : State) : Host.Outcome State Fault Refusal :=
  match s.agents.lookup a with
  | none => .next s
  | some x =>
    if !x.alive then .next s
    else if x.lastBeat + 10000 ≤ s.time then .next (s.agentDies a)
    else .next (s.modAgent a fun x => { x with mute := true })

/-- AGENT_READMIT (R383, R387): the incarnation rises, and the regions homed on a die are P with it. After the death of Keystone, which holds the
monitor, nothing is re-admitted: the part has stopped (R384). -/
def execAgentReadmit (a : Agent) (s : State) : Host.Outcome State Fault Refusal :=
  match s.agents.lookup a with
  | none => .next s
  | some x =>
    if x.alive || s.stopped then .next s
    else
      let s := s.modAgent a fun x => { alive := true, incarnation := x.incarnation + 1, lastBeat := s.time, mute := false }
      .next (match a with
        | .die d =>
          { s with
            regions := s.regions.map fun (e : Region) =>
              if homeDie (e.index * 0x200000) == d.val && !inHost (e.index * 0x200000) then e.atHome s.time else e }
        | .port _ => s
        | .link _ => s)

end Sys2Proof.Machine
end

