-- ==== Sys2Proof/Machine/Platform.lean ====
section
/-! DEFINITION. Power, errors, the side-band port, boot and the feature registers (R497 to R506, R464). -/

namespace Sys2Proof.Machine

/-! ### Budgets and frequencies (R498, R421) -/

/-- Floor, top and step of a core's lane budget (Table 17.4). -/
def laneRange : Cls → Nat × Nat × Nat
  | .mastiff => (0, 0, 0)
  | .hound => (512, 2048, 128)
  | .whippet => (64, 1024, 32)

/-- Floor, top and step of a core's matrix budget. -/
def matrixRange : Cls → Nat × Nat × Nat
  | .mastiff => (0, 0, 0)
  | .hound => (0, 0, 0)
  | .whippet => (32, 256, 16)

/-- A budget one step down, not below its floor. -/
def stepDown (r : Nat × Nat × Nat) (b : Nat) : Nat := max r.1 (b - r.2.2)

/-- A budget one step up, not above its top. -/
def stepUp (r : Nat × Nat × Nat) (b : Nat) : Nat := min r.2.1 (b + r.2.2)

/-- Hound and Whippet cores. -/
def budgetCores : List Nat := (List.range 848).filter fun c => clsOf c != .mastiff

/-- Every budget is at its floor. -/
def State.atFloor (s : State) : Bool :=
  budgetCores.all fun c => (s.core c).lanes ≤ (laneRange (clsOf c)).1 && (s.core c).matrix ≤ (matrixRange (clsOf c)).1

/-- Every budget moves by a step, and the grants are divided again (R422). -/
def State.stepBudgets (s : State) (f : Nat × Nat × Nat → Nat → Nat) : State :=
  let s := budgetCores.foldl (fun s c =>
    let x := s.core c
    s.putCore { x with lanes := f (laneRange (clsOf c)) x.lanes, matrix := f (matrixRange (clsOf c)) x.matrix }) s
  (dedup ((s.slots.filter fun x => x.occupant.isSome).map fun x => x.id.core)).foldl State.regrant s

/-- POWER_INTERVAL (R498): the end of a 10 µs interval with the power measured in it. The firmware target up to which frequencies are restored is
not given by the spec: the model holds one for all islands, `targetMhz`, 3,300 MHz from reset on, which no write of mfreq changes (log 37). -/
def execPowerInterval (watts : Nat) (s : State) : Host.Outcome State Fault Refusal :=
  let s := { s with power := watts, lowCount := if watts < 3500 then s.lowCount + 1 else 0 }
  if 3600 < watts then
    if s.atFloor then .next { s with islands := s.islands.map fun i => if 1200 < i.mhz then { i with mhz := i.mhz - 100 } else i }
    else .next (s.stepBudgets stepDown)
  else if 10 ≤ s.lowCount then
    let s := { s with lowCount := 0 }
    if s.islands.toList.any fun i => decide (i.mhz < s.targetMhz) then
      .next { s with islands := s.islands.map fun i => { i with mhz := if i.mhz < s.targetMhz then min s.targetMhz (i.mhz + 100) else i.mhz } }
    else .next (s.stepBudgets stepUp)
  else .next s

/-- THERMAL_CLAMP_ON (R499): the island's junction has reached 105 °C. -/
def execThermalClampOn (island : Fin 24) (s : State) : Host.Outcome State Fault Refusal :=
  .next { s with islands := s.islands.set island { s.islands[island] with clamped := true } }

/-- THERMAL_CLAMP_OFF (R499): it has fallen below 95 °C. -/
def execThermalClampOff (island : Fin 24) (s : State) : Host.Outcome State Fault Refusal :=
  .next { s with islands := s.islands.set island { s.islands[island] with clamped := false } }

/-- POWER_CLAMP_ON (R499): above 4.0 kW every core issues in one cycle of two. -/
def execPowerClampOn (watts : Nat) (s : State) : Host.Outcome State Fault Refusal := .next (if 4000 < watts then { s with powerClamp := true } else s)

/-- POWER_CLAMP_OFF (R499): below 3.6 kW the clamp ends. -/
def execPowerClampOff (watts : Nat) (s : State) : Host.Outcome State Fault Refusal := .next (if watts < 3600 then { s with powerClamp := false } else s)

/-! ### A failing local store (R501) -/

/-- The byte offset of a row of a bank of a store (R362): rows are numbered with those of one bank 96 apart, so that the four bytes at
offset 4n are row n div 96 of bank n mod 96. -/
def rowOffset (n : Nat) : Nat := 4 * (96 * (n / 96) + n % 96)

/-- Sectors of a store that hold an unreadable row (R501), by their number: those of the rows that the copy did not read, and those in
which the model records an uncorrectable error (log 17). -/
def State.badSectors (s : State) (core : Nat) (rows : List Nat) : List Nat :=
  dedup (((rows.filter fun r => decide (rowOffset r < storeBytes (clsOf core))).map fun r => rowOffset r / 64) ++
    ((s.corrupt.filter fun a => decide (storeBase core ≤ a) && decide (a < storeBase core + storeBytes (clsOf core))).map fun a => (a - storeBase core) / 64))

/-- Partitions that hold a core. -/
def State.holdersOfCore (s : State) (core : Nat) : List (Fin 17) :=
  (List.finRange 17).filter fun p => ((s.part p).state == .running || (s.part p).state == .swapped) && s.allowed p core

/-- Harts on a core are stopped and saved. -/
def State.clearCore (s : State) (core : Nat) : State × List HartKey :=
  let ks := (slotIds core).filterMap fun i => (s.slot i).occupant
  (ks.foldl (fun s k =>
    ((s.stopHart k).leaveSlot k).modHart k fun h => { h with waitFor := none, sched := { h.sched with status := .ready, readySince := s.time, aged := 0 } }) s, ks)

/-- Harts in transit to a core stop before their transfers end, and their slots fall free (R425, R501). -/
def State.turnBack (s : State) (core : Nat) : State × List HartKey :=
  let ks := (s.harts.filter fun h => h.sched.status == .moving && (h.sched.target.map (·.core)) == some core).map (·.key)
  (ks.foldl (fun s k => match s.hart? k with | some h => s.haltTransit h | none => s) s, ks)

/-- A core is retired to the spare of its cluster, or fenced where the spare is in use (R501). -/
def State.retireCore (s : State) (core : Nat) (badRows : List Nat) : State :=
  if 848 ≤ core || storeBytes (clsOf core) = 0 || s.fenced core then s
  else if s.spares.contains (clusterOf core) then
    let s := s.putCore { s.core core with fenced := true }
    let (s, ks) := s.clearCore core
    let (s, js) := s.turnBack core
    js.foldl State.placeReady (ks.foldl State.makeReady s)
  else
    let (s, ks) := s.clearCore core
    let base := storeBase core
    let lost := s.badSectors core badRows
    let s := badRows.foldl (fun s r => if rowOffset r < storeBytes (clsOf core) then s.writeBytes (base + rowOffset r) (List.replicate 4 0) else s) s
    let s := (s.corrupt.filter fun a => decide (base ≤ a) && decide (a < base + storeBytes (clsOf core))).foldl (fun s a => s.writeBytes a (List.replicate 64 0)) s
    let inStore := fun a : Nat => decide (base ≤ a) && decide (a < base + storeBytes (clsOf core))
    let s :=
      { s with
        retiredCores := core :: s.retiredCores
        spares := clusterOf core :: s.spares
        corrupt := s.corrupt.filter fun a => !inStore a
        flipped := s.flipped.filter fun a => !inStore a }
    let record : FaultRecord := { kind := 5, reason := 6, vault := 0xFF, inc := 0, agent := 0x30, aux := lost.length, addr := base }
    let s := if lost.isEmpty then s else (s.holdersOfCore core).foldl (fun s p => (s.faultRecord p record).terminatePart p 0 0) s
    ks.foldl State.makeReady s

/-- A bank of a core's local store fails persistently: it has given three uncorrectable errors within 1 s (R501). -/
def State.bankFails (s : State) (core : Nat) : Bool :=
  s.bankErrors.any fun x => x.1 == core && decide (3 ≤ (s.bankErrors.filter fun y => y.1 == core && y.2.1 == x.2.1).length)

/-- CORE_RETIRE (R501): firmware retires a core of which a bank fails persistently; the rows are those that the copy does not read (log 17). -/
def execCoreRetire (core : Nat) (badRows : List Nat) (s : State) : Host.Outcome State Fault Refusal :=
  .next (if s.bankFails core then State.retireCore { s with bankErrors := s.bankErrors.filter fun x => x.1 != core } core badRows else s)

/-! ### The side-band port (R502, R504, R505) -/

/-- DEBUG (R502): source 0x03 is raised on the hart that the request names. -/
def execDebug (p : Fin 16) (hart : Half) (s : State) : Host.Outcome State Fault Refusal := .next (s.raise { part := partNo p, id := hart.toNat } 3)

/-- PLDM_SENSOR_READ (R502): temperatures are free values (log 8). -/
def execPldmSensorRead (sensor : Sensor) (s : State) : Host.Outcome State Fault Refusal :=
  match sensor with
  | .temperature i =>
    let (s, c) := s.draw
    .next (s.emit (.sensor (Config.sensorValue i.val c)))
  | .power => .next (s.emit (.sensor (BitVec.ofNat 64 s.power)))
  | .mecc d => .next (s.emit (.sensor (s.meccOf d.val)))
  | .linkResets l => .next (s.emit (.sensor (BitVec.ofNat 64 (s.links[l].toList.foldl (fun n d => n + d.resets) 0))))

/-- PLDM_FIRMWARE_UPDATE (R502): the image is staged, and takes effect at the next reset once it verifies. -/
def execPldmFirmwareUpdate (rinca : Bool) (image : Image) (s : State) : Host.Outcome State Fault Refusal :=
  .next { s with fw := { s.fw with staged := (rinca, image) :: s.fw.staged.filter fun x => x.1 != rinca } }

/-- The request comes inside a session whose requester's certificate chain is rooted in the owner key (R505). -/
def State.authorises (s : State) (a : Authority) : Bool := a.session && a.chain && sha256 a.key == s.limit.owner

/-- COMMIT_SVN (R505): the fuses rise to the lower running version where an authorised request finds images that have completed
the boot order and exceed the count. -/
def execCommitSvn (a : Authority) (s : State) : Host.Outcome State Fault Refusal :=
  let v := min s.fw.rincaVersion s.fw.mVersion
  if s.authorises a && !s.fw.recovery && s.fw.mainPower && decide (6 ≤ s.fw.step) && decide (s.limit.fuses < v) && decide (v ≤ 64) then
    .next (State.emit { s with limit := { s.limit with fuses := v } } (.commit true))
  else .next (s.emit (.commit false))

/-- The measurements that a response carries: the two digests, the fuse version and the settings of the limit unit. -/
def State.measured (s : State) : List Byte :=
  s.fw.rincaDigest ++ s.fw.mDigest ++ leBytes 8 s.limit.fuses ++ leBytes 8 s.limit.word.toNat ++ leBytes 8 s.limit.window.1 ++ leBytes 8 s.limit.window.2

/-- GET_MEASUREMENTS (R504): each response uses up one leaf of the identity key; without one it is refused. -/
def execGetMeasurements (s : State) : Host.Outcome State Fault Refusal :=
  if 2 ^ 20 ≤ s.limit.leaf then .next (s.emit .spdmError)
  else
    let m := s.measured
    .next (State.emit { s with limit := { s.limit with leaf := s.limit.leaf + 1 } } (.measurements m (Config.signature s.limit.leaf m)))

/-! ### Reset (R503) -/

/-- What the signature of an image covers, and what is measured of it: its version and its bytes (log 89). -/
def imageMessage (i : Image) : List Byte := beBytes 8 i.version ++ i.bytes

/-- An image verifies: its signature is good, and its version is not below the fuses. -/
def State.verifies (s : State) (i : Image) : Bool := lmsVerifies s.fw.key i.signature (imageMessage i) && decide (s.limit.fuses ≤ i.version)

/-- The measurement of an image (R504). -/
def imageDigest (i : Image) : List Byte := sha256 (imageMessage i)

/-- What of a part outlives a reset or a loss of power: host memory, which is the host's own, the fuses and the leaf counter, the table
of retired cores, staged images, and the model's own fields. Dirty host sectors of the caches are lost. -/
def State.kept (s : State) (t : State) : State :=
  let s := (s.losses fun _ _ => true).foldl (fun s x => s.writeBytes x.addr x.memory) s
  { t with
    mem := s.mem.filter fun c => decide (0x80000000000000 ≤ c.1)
    cores := (s.cores.filter (·.fenced)).map fun c => { c with lanes := (State.core t c.core).lanes, matrix := (State.core t c.core).matrix }
    retiredCores := s.retiredCores
    spares := s.spares
    limit := { t.limit with fuses := s.limit.fuses, leaf := s.limit.leaf, owner := s.limit.owner }
    fw := { t.fw with staged := s.fw.staged, key := s.fw.key }
    out := s.out
    inputs := s.inputs
    elapse := s.elapse
    strikes := s.strikes
    delays := s.delays
    fresh := s.fresh }

/-- PACKAGE_RESET (R503): staged images replace the others, both are verified and measured in turn, cores that fail the self-test are retired, the
M-level firmware starts on Mastiff core 0, the limit unit takes the host-write window, firmware sets the package number, and the host ports train as given; a failed verification leaves the
part in recovery. -/
def execPackageReset (rinca mlevel : Image) (b : Boot) (s : State) : Host.Outcome State Fault Refusal :=
  let r := (s.fw.staged.lookup true).getD rinca
  let m := (s.fw.staged.lookup false).getD mlevel
  let t := s.kept State.reset
  let fw := { t.fw with staged := [] }
  if !s.verifies r then
    .next { t with
      harts := [], slots := [], fw := { fw with step := 0, recovery := true }, limit := { t.limit with locked := false } }
  else
    let t := b.failed.foldl (fun t c => t.retireCore c []) t
    if !s.verifies m then
      .next { t with
        harts := [], slots := []
        fw := { fw with step := 2, recovery := true, rincaDigest := imageDigest r, rincaVersion := r.version }
        limit := { t.limit with locked := false } }
    else
      .next
        { t with
          fw := { fw with step := 5, rincaDigest := imageDigest r, rincaVersion := r.version, mDigest := imageDigest m, mVersion := m.version }
          limit := { t.limit with window := b.window }
          pkg := b.pkg
          ports := Vector.ofFn fun n : Fin 2 => { t.ports[n] with cxl := b.cxl.getD n.val false } }

/-- MAIN_SIDE_UNPOWERED (R502): the main side loses what it holds; the side-band port goes on. -/
def execMainSideUnpowered (s : State) : Host.Outcome State Fault Refusal :=
  let t := s.kept State.reset
  .next { t with
    harts := [], slots := []
    fw := { t.fw with step := 0, mainPower := false, rincaDigest := s.fw.rincaDigest, mDigest := s.fw.mDigest,
                      rincaVersion := s.fw.rincaVersion, mVersion := s.fw.mVersion }
    limit := { t.limit with locked := false } }

/-- FEATREQ_WRITE (R464): it selects features until the first partition starts. -/
def execFeatreqWrite (v : Word) (s : State) : Host.Outcome State Fault Refusal :=
  .next (s.writeFeatreq v)

end Sys2Proof.Machine
end

