-- ==== Sys2Proof/Machine/ScalarInt.lean ====
section
/-! DEFINITION. Integer and address instructions (R120 to R126). -/

namespace Sys2Proof.Machine

/-- add (R121): sum. -/
def execAdd (d a b : Reg) (s : State) : Host.Outcome State Fault Refusal :=
  run (.add d a b) s (intResult (.add d a b) d fun h => h.getX a + h.getX b)

/-- sub (R121): difference. -/
def execSub (d a b : Reg) (s : State) : Host.Outcome State Fault Refusal :=
  run (.sub d a b) s (intResult (.sub d a b) d fun h => h.getX a - h.getX b)

/-- and (R121): conjunction of bits. -/
def execAnd (d a b : Reg) (s : State) : Host.Outcome State Fault Refusal :=
  run (.and d a b) s (intResult (.and d a b) d fun h => h.getX a &&& h.getX b)

/-- or (R121): disjunction of bits. -/
def execOr (d a b : Reg) (s : State) : Host.Outcome State Fault Refusal :=
  run (.or d a b) s (intResult (.or d a b) d fun h => h.getX a ||| h.getX b)

/-- xor (R121): exclusive or. -/
def execXor (d a b : Reg) (s : State) : Host.Outcome State Fault Refusal :=
  run (.xor d a b) s (intResult (.xor d a b) d fun h => h.getX a ^^^ h.getX b)

/-- andn (R121): bits of a without those of b. -/
def execAndn (d a b : Reg) (s : State) : Host.Outcome State Fault Refusal :=
  run (.andn d a b) s (intResult (.andn d a b) d fun h => h.getX a &&& ~~~ h.getX b)

/-- sll (R121): shift left. -/
def execSll (d a b : Reg) (s : State) : Host.Outcome State Fault Refusal :=
  run (.sll d a b) s (intResult (.sll d a b) d fun h => h.getX a <<< shamt (h.getX b))

/-- srl (R121): shift right, zeros in. -/
def execSrl (d a b : Reg) (s : State) : Host.Outcome State Fault Refusal :=
  run (.srl d a b) s (intResult (.srl d a b) d fun h => h.getX a >>> shamt (h.getX b))

/-- sra (R121): shift right, sign in. -/
def execSra (d a b : Reg) (s : State) : Host.Outcome State Fault Refusal :=
  run (.sra d a b) s (intResult (.sra d a b) d fun h => (h.getX a).sshiftRight (shamt (h.getX b)))

/-- rol (R121): rotate left. -/
def execRol (d a b : Reg) (s : State) : Host.Outcome State Fault Refusal :=
  run (.rol d a b) s (intResult (.rol d a b) d fun h => (h.getX a).rotateLeft (shamt (h.getX b)))

/-- ror (R121): rotate right. -/
def execRor (d a b : Reg) (s : State) : Host.Outcome State Fault Refusal :=
  run (.ror d a b) s (intResult (.ror d a b) d fun h => (h.getX a).rotateRight (shamt (h.getX b)))

/-- slt (R121): 1 where a is less, signed. -/
def execSlt (d a b : Reg) (s : State) : Host.Outcome State Fault Refusal :=
  run (.slt d a b) s (intResult (.slt d a b) d fun h => flagWord ((h.getX a).slt (h.getX b)))

/-- sltn (R121): 1 where a is less, unsigned. -/
def execSltn (d a b : Reg) (s : State) : Host.Outcome State Fault Refusal :=
  run (.sltn d a b) s (intResult (.sltn d a b) d fun h => flagWord ((h.getX a).ult (h.getX b)))

/-- min (R121): lesser, signed. -/
def execMin (d a b : Reg) (s : State) : Host.Outcome State Fault Refusal :=
  run (.min d a b) s (intResult (.min d a b) d fun h => minS (h.getX a) (h.getX b))

/-- max (R121): greater, signed. -/
def execMax (d a b : Reg) (s : State) : Host.Outcome State Fault Refusal :=
  run (.max d a b) s (intResult (.max d a b) d fun h => maxS (h.getX a) (h.getX b))

/-- minn (R121): lesser, unsigned. -/
def execMinn (d a b : Reg) (s : State) : Host.Outcome State Fault Refusal :=
  run (.minn d a b) s (intResult (.minn d a b) d fun h => minU (h.getX a) (h.getX b))

/-- maxn (R121): greater, unsigned. -/
def execMaxn (d a b : Reg) (s : State) : Host.Outcome State Fault Refusal :=
  run (.maxn d a b) s (intResult (.maxn d a b) d fun h => maxU (h.getX a) (h.getX b))

/-- mul (R121): product. -/
def execMul (d a b : Reg) (s : State) : Host.Outcome State Fault Refusal :=
  run (.mul d a b) s (intResult (.mul d a b) d fun h => h.getX a * h.getX b)

/-- mulh (R122): upper half of the signed product. -/
def execMulh (d a b : Reg) (s : State) : Host.Outcome State Fault Refusal :=
  run (.mulh d a b) s (intResult (.mulh d a b) d fun h => mulhS (h.getX a) (h.getX b))

/-- mulhn (R122): upper half of the unsigned product. -/
def execMulhn (d a b : Reg) (s : State) : Host.Outcome State Fault Refusal :=
  run (.mulhn d a b) s (intResult (.mulhn d a b) d fun h => mulhU (h.getX a) (h.getX b))

/-- div (R122): signed quotient. -/
def execDiv (d a b : Reg) (s : State) : Host.Outcome State Fault Refusal :=
  run (.div d a b) s (intResult (.div d a b) d fun h => (divRemS (h.getX a) (h.getX b)).1)

/-- divn (R122): unsigned quotient. -/
def execDivn (d a b : Reg) (s : State) : Host.Outcome State Fault Refusal :=
  run (.divn d a b) s (intResult (.divn d a b) d fun h => (divRemU (h.getX a) (h.getX b)).1)

/-- rem (R122): signed remainder. -/
def execRem (d a b : Reg) (s : State) : Host.Outcome State Fault Refusal :=
  run (.rem d a b) s (intResult (.rem d a b) d fun h => (divRemS (h.getX a) (h.getX b)).2)

/-- remn (R122): unsigned remainder. -/
def execRemn (d a b : Reg) (s : State) : Host.Outcome State Fault Refusal :=
  run (.remn d a b) s (intResult (.remn d a b) d fun h => (divRemU (h.getX a) (h.getX b)).2)

/-- sadd1 (R121): scaled sum. -/
def execSadd1 (d a b : Reg) (s : State) : Host.Outcome State Fault Refusal :=
  run (.sadd1 d a b) s (intResult (.sadd1 d a b) d fun h => h.getX a * 2 + h.getX b)

/-- sadd2 (R121): scaled sum. -/
def execSadd2 (d a b : Reg) (s : State) : Host.Outcome State Fault Refusal :=
  run (.sadd2 d a b) s (intResult (.sadd2 d a b) d fun h => h.getX a * 4 + h.getX b)

/-- sadd3 (R121): scaled sum. -/
def execSadd3 (d a b : Reg) (s : State) : Host.Outcome State Fault Refusal :=
  run (.sadd3 d a b) s (intResult (.sadd3 d a b) d fun h => h.getX a * 8 + h.getX b)

/-- bext (R123): bit-field extract. -/
def execBext (d a b : Reg) (s : State) : Host.Outcome State Fault Refusal :=
  run (.bext d a b) s (intResult (.bext d a b) d fun h => bextOf (h.getX a) (h.getX b))

/-- bins (R123): bit-field insert; x[d] is a source. -/
def execBins (d a b : Reg) (s : State) : Host.Outcome State Fault Refusal :=
  run (.bins d a b) s (intResult (.bins d a b) d fun h => binsOf (h.getX d) (h.getX a) (h.getX b))

/-- clz (R124). -/
def execClz (d a : Reg) (s : State) : Host.Outcome State Fault Refusal :=
  run (.clz d a) s (intResult (.clz d a) d fun h => BitVec.ofNat 64 (clzOf (h.getX a) 64))

/-- ctz (R124). -/
def execCtz (d a : Reg) (s : State) : Host.Outcome State Fault Refusal :=
  run (.ctz d a) s (intResult (.ctz d a) d fun h => BitVec.ofNat 64 (ctzOf (h.getX a) 64))

/-- popc (R124). -/
def execPopc (d a : Reg) (s : State) : Host.Outcome State Fault Refusal :=
  run (.popc d a) s (intResult (.popc d a) d fun h => BitVec.ofNat 64 (popcOf (h.getX a)))

/-- sext.b (R124). -/
def execSextB (d a : Reg) (s : State) : Host.Outcome State Fault Refusal :=
  run (.sext_b d a) s (intResult (.sext_b d a) d fun h => ((h.getX a).setWidth 8).signExtend 64)

/-- sext.h (R124). -/
def execSextH (d a : Reg) (s : State) : Host.Outcome State Fault Refusal :=
  run (.sext_h d a) s (intResult (.sext_h d a) d fun h => ((h.getX a).setWidth 16).signExtend 64)

/-- sext.w (R124). -/
def execSextW (d a : Reg) (s : State) : Host.Outcome State Fault Refusal :=
  run (.sext_w d a) s (intResult (.sext_w d a) d fun h => ((h.getX a).setWidth 32).signExtend 64)

/-- zext.b (R124). -/
def execZextB (d a : Reg) (s : State) : Host.Outcome State Fault Refusal :=
  run (.zext_b d a) s (intResult (.zext_b d a) d fun h => ((h.getX a).setWidth 8).setWidth 64)

/-- zext.h (R124). -/
def execZextH (d a : Reg) (s : State) : Host.Outcome State Fault Refusal :=
  run (.zext_h d a) s (intResult (.zext_h d a) d fun h => ((h.getX a).setWidth 16).setWidth 64)

/-- zext.w (R124). -/
def execZextW (d a : Reg) (s : State) : Host.Outcome State Fault Refusal :=
  run (.zext_w d a) s (intResult (.zext_w d a) d fun h => ((h.getX a).setWidth 32).setWidth 64)

/-- addi (R125). -/
def execAddi (d a : Reg) (imm : BitVec 16) (s : State) : Host.Outcome State Fault Refusal :=
  run (.addi d a imm) s (intResult (.addi d a imm) d fun h => h.getX a + imm16s imm)

/-- andi (R125). -/
def execAndi (d a : Reg) (imm : BitVec 16) (s : State) : Host.Outcome State Fault Refusal :=
  run (.andi d a imm) s (intResult (.andi d a imm) d fun h => h.getX a &&& imm16z imm)

/-- ori (R125). -/
def execOri (d a : Reg) (imm : BitVec 16) (s : State) : Host.Outcome State Fault Refusal :=
  run (.ori d a imm) s (intResult (.ori d a imm) d fun h => h.getX a ||| imm16z imm)

/-- xori (R125). -/
def execXori (d a : Reg) (imm : BitVec 16) (s : State) : Host.Outcome State Fault Refusal :=
  run (.xori d a imm) s (intResult (.xori d a imm) d fun h => h.getX a ^^^ imm16z imm)

/-- slti (R125). -/
def execSlti (d a : Reg) (imm : BitVec 16) (s : State) : Host.Outcome State Fault Refusal :=
  run (.slti d a imm) s (intResult (.slti d a imm) d fun h => flagWord ((h.getX a).slt (imm16s imm)))

/-- slli (R125). -/
def execSlli (d a : Reg) (sh : BitVec 6) (s : State) : Host.Outcome State Fault Refusal :=
  run (.slli d a sh) s (intResult (.slli d a sh) d fun h => h.getX a <<< sh.toNat)

/-- srli (R125). -/
def execSrli (d a : Reg) (sh : BitVec 6) (s : State) : Host.Outcome State Fault Refusal :=
  run (.srli d a sh) s (intResult (.srli d a sh) d fun h => h.getX a >>> sh.toNat)

/-- srai (R125). -/
def execSrai (d a : Reg) (sh : BitVec 6) (s : State) : Host.Outcome State Fault Refusal :=
  run (.srai d a sh) s (intResult (.srai d a sh) d fun h => (h.getX a).sshiftRight sh.toNat)

/-- lup (R126). -/
def execLup (d : Reg) (imm : BitVec 21) (s : State) : Host.Outcome State Fault Refusal :=
  run (.lup d imm) s (intResult (.lup d imm) d fun _ => sext64 imm * 0x10000)

/-- pcadd (R126). -/
def execPcadd (d : Reg) (imm : BitVec 21) (s : State) : Host.Outcome State Fault Refusal :=
  run (.pcadd d imm) s (intResult (.pcadd d imm) d fun h => h.pc + sext64 imm * 0x10000)

end Sys2Proof.Machine
end

