-- ==== Sys2Proof/Machine/ScalarMem.lean ====
section
/-! DEFINITION. Scalar loads and stores (R149, R150). -/

namespace Sys2Proof.Machine

/-- Address of a load or store (R146). -/
def Hart.memAddr (h : Hart) (a : Reg) (imm : BitVec 16) : Word := h.getX a + imm16s imm

/-- Body of a load of `n` bytes: the value goes to x[d] as `ext` widens it. -/
def loadBody (i : Instr) (d a : Reg) (imm : BitVec 16) (n : Nat) (ext : Nat → Word) (s : State) (h : Hart) : Effect :=
  match loadScalar i s h (h.memAddr a imm) n with
  | .value s v _ => .ok (s.modHart h.key fun g => g.setX d (ext v))
  | .trap t => .trap s t
  | .stall s => .stall s

/-- A value of `n` bytes, zero-extended. -/
def zextOf (v : Nat) : Word := BitVec.ofNat 64 v

/-- ldb (R149): a byte, sign-extended. -/
def execLdb (d a : Reg) (imm : BitVec 16) (s : State) : Host.Outcome State Fault Refusal :=
  run (.ldb d a imm) s (loadBody (.ldb d a imm) d a imm 1 (fun v => (BitVec.ofNat 8 v).signExtend 64))

/-- ldbz (R149): a byte, zero-extended. -/
def execLdbz (d a : Reg) (imm : BitVec 16) (s : State) : Host.Outcome State Fault Refusal :=
  run (.ldbz d a imm) s (loadBody (.ldbz d a imm) d a imm 1 zextOf)

/-- ldh (R149): two bytes, sign-extended. -/
def execLdh (d a : Reg) (imm : BitVec 16) (s : State) : Host.Outcome State Fault Refusal :=
  run (.ldh d a imm) s (loadBody (.ldh d a imm) d a imm 2 (fun v => (BitVec.ofNat 16 v).signExtend 64))

/-- ldhz (R149): two bytes, zero-extended. -/
def execLdhz (d a : Reg) (imm : BitVec 16) (s : State) : Host.Outcome State Fault Refusal :=
  run (.ldhz d a imm) s (loadBody (.ldhz d a imm) d a imm 2 zextOf)

/-- ldw (R149): four bytes, sign-extended. -/
def execLdw (d a : Reg) (imm : BitVec 16) (s : State) : Host.Outcome State Fault Refusal :=
  run (.ldw d a imm) s (loadBody (.ldw d a imm) d a imm 4 (fun v => (BitVec.ofNat 32 v).signExtend 64))

/-- ldwz (R149): four bytes, zero-extended. -/
def execLdwz (d a : Reg) (imm : BitVec 16) (s : State) : Host.Outcome State Fault Refusal :=
  run (.ldwz d a imm) s (loadBody (.ldwz d a imm) d a imm 4 zextOf)

/-- ldd (R149): a doubleword. -/
def execLdd (d a : Reg) (imm : BitVec 16) (s : State) : Host.Outcome State Fault Refusal :=
  run (.ldd d a imm) s (loadBody (.ldd d a imm) d a imm 8 zextOf)

/-- stb (R150): the low 1 byte of x[src]. -/
def execStb (src a : Reg) (imm : BitVec 16) (s : State) : Host.Outcome State Fault Refusal :=
  run (.stb src a imm) s fun s h => storeScalar s h (h.memAddr a imm) 1 (h.getX src).toNat

/-- sth (R150): the low 2 bytes of x[src]. -/
def execSth (src a : Reg) (imm : BitVec 16) (s : State) : Host.Outcome State Fault Refusal :=
  run (.sth src a imm) s fun s h => storeScalar s h (h.memAddr a imm) 2 (h.getX src).toNat

/-- stw (R150): the low 4 bytes of x[src]. -/
def execStw (src a : Reg) (imm : BitVec 16) (s : State) : Host.Outcome State Fault Refusal :=
  run (.stw src a imm) s fun s h => storeScalar s h (h.memAddr a imm) 4 (h.getX src).toNat

/-- std (R150): the low 8 bytes of x[src]. -/
def execStd (src a : Reg) (imm : BitVec 16) (s : State) : Host.Outcome State Fault Refusal :=
  run (.std src a imm) s fun s h => storeScalar s h (h.memAddr a imm) 8 (h.getX src).toNat

end Sys2Proof.Machine
end

