-- ==== Sys2Proof/Machine/Dispatch.lean ====
section
/-! DEFINITION. The meaning of each instruction and of each event: one direct call to an arm. -/

namespace Sys2Proof.Machine

/-- Executes an instruction, or lets an event take effect. -/
def exec (i : Instr) (s : State) : Host.Outcome State Fault Refusal :=
  match i with
  -- Integer and address (R121 to R126)
  | .add d a b => Sys2Proof.Machine.execAdd d a b s
  | .sub d a b => Sys2Proof.Machine.execSub d a b s
  | .and d a b => Sys2Proof.Machine.execAnd d a b s
  | .or d a b => Sys2Proof.Machine.execOr d a b s
  | .xor d a b => Sys2Proof.Machine.execXor d a b s
  | .andn d a b => Sys2Proof.Machine.execAndn d a b s
  | .sll d a b => Sys2Proof.Machine.execSll d a b s
  | .srl d a b => Sys2Proof.Machine.execSrl d a b s
  | .sra d a b => Sys2Proof.Machine.execSra d a b s
  | .rol d a b => Sys2Proof.Machine.execRol d a b s
  | .ror d a b => Sys2Proof.Machine.execRor d a b s
  | .slt d a b => Sys2Proof.Machine.execSlt d a b s
  | .sltn d a b => Sys2Proof.Machine.execSltn d a b s
  | .min d a b => Sys2Proof.Machine.execMin d a b s
  | .max d a b => Sys2Proof.Machine.execMax d a b s
  | .minn d a b => Sys2Proof.Machine.execMinn d a b s
  | .maxn d a b => Sys2Proof.Machine.execMaxn d a b s
  | .mul d a b => Sys2Proof.Machine.execMul d a b s
  | .mulh d a b => Sys2Proof.Machine.execMulh d a b s
  | .mulhn d a b => Sys2Proof.Machine.execMulhn d a b s
  | .div d a b => Sys2Proof.Machine.execDiv d a b s
  | .divn d a b => Sys2Proof.Machine.execDivn d a b s
  | .rem d a b => Sys2Proof.Machine.execRem d a b s
  | .remn d a b => Sys2Proof.Machine.execRemn d a b s
  | .sadd1 d a b => Sys2Proof.Machine.execSadd1 d a b s
  | .sadd2 d a b => Sys2Proof.Machine.execSadd2 d a b s
  | .sadd3 d a b => Sys2Proof.Machine.execSadd3 d a b s
  | .bext d a b => Sys2Proof.Machine.execBext d a b s
  | .bins d a b => Sys2Proof.Machine.execBins d a b s
  | .clz d a => Sys2Proof.Machine.execClz d a s
  | .ctz d a => Sys2Proof.Machine.execCtz d a s
  | .popc d a => Sys2Proof.Machine.execPopc d a s
  | .sext_b d a => Sys2Proof.Machine.execSextB d a s
  | .sext_h d a => Sys2Proof.Machine.execSextH d a s
  | .sext_w d a => Sys2Proof.Machine.execSextW d a s
  | .zext_b d a => Sys2Proof.Machine.execZextB d a s
  | .zext_h d a => Sys2Proof.Machine.execZextH d a s
  | .zext_w d a => Sys2Proof.Machine.execZextW d a s
  | .addi d a imm => Sys2Proof.Machine.execAddi d a imm s
  | .andi d a imm => Sys2Proof.Machine.execAndi d a imm s
  | .ori d a imm => Sys2Proof.Machine.execOri d a imm s
  | .xori d a imm => Sys2Proof.Machine.execXori d a imm s
  | .slti d a imm => Sys2Proof.Machine.execSlti d a imm s
  | .slli d a sh => Sys2Proof.Machine.execSlli d a sh s
  | .srli d a sh => Sys2Proof.Machine.execSrli d a sh s
  | .srai d a sh => Sys2Proof.Machine.execSrai d a sh s
  | .lup d imm => Sys2Proof.Machine.execLup d imm s
  | .pcadd d imm => Sys2Proof.Machine.execPcadd d imm s
  -- Control (R127 to R132)
  | .beq a b off => Sys2Proof.Machine.execBeq a b off s
  | .bne a b off => Sys2Proof.Machine.execBne a b off s
  | .blt a b off => Sys2Proof.Machine.execBlt a b off s
  | .bge a b off => Sys2Proof.Machine.execBge a b off s
  | .bltn a b off => Sys2Proof.Machine.execBltn a b off s
  | .bgen a b off => Sys2Proof.Machine.execBgen a b off s
  | .j off => Sys2Proof.Machine.execJ off s
  | .call off => Sys2Proof.Machine.execCall off s
  | .jx a => Sys2Proof.Machine.execJx a s
  | .callx d a => Sys2Proof.Machine.execCallx d a s
  | .ret a => Sys2Proof.Machine.execRet a s
  -- Scalar memory (R149, R150)
  | .ldb d a imm => Sys2Proof.Machine.execLdb d a imm s
  | .ldbz d a imm => Sys2Proof.Machine.execLdbz d a imm s
  | .ldh d a imm => Sys2Proof.Machine.execLdh d a imm s
  | .ldhz d a imm => Sys2Proof.Machine.execLdhz d a imm s
  | .ldw d a imm => Sys2Proof.Machine.execLdw d a imm s
  | .ldwz d a imm => Sys2Proof.Machine.execLdwz d a imm s
  | .ldd d a imm => Sys2Proof.Machine.execLdd d a imm s
  | .stb src a imm => Sys2Proof.Machine.execStb src a imm s
  | .sth src a imm => Sys2Proof.Machine.execSth src a imm s
  | .stw src a imm => Sys2Proof.Machine.execStw src a imm s
  | .std src a imm => Sys2Proof.Machine.execStd src a imm s
  -- Atomics (R156 to R160)
  | .amoadd_w d a b o sc => Sys2Proof.Machine.execAmoaddW d a b o sc s
  | .amoand_w d a b o sc => Sys2Proof.Machine.execAmoandW d a b o sc s
  | .amoor_w d a b o sc => Sys2Proof.Machine.execAmoorW d a b o sc s
  | .amoxor_w d a b o sc => Sys2Proof.Machine.execAmoxorW d a b o sc s
  | .amomin_w d a b o sc => Sys2Proof.Machine.execAmominW d a b o sc s
  | .amomax_w d a b o sc => Sys2Proof.Machine.execAmomaxW d a b o sc s
  | .amominn_w d a b o sc => Sys2Proof.Machine.execAmominnW d a b o sc s
  | .amomaxn_w d a b o sc => Sys2Proof.Machine.execAmomaxnW d a b o sc s
  | .amoswp_w d a b o sc => Sys2Proof.Machine.execAmoswpW d a b o sc s
  | .amoadd_d d a b o sc => Sys2Proof.Machine.execAmoaddD d a b o sc s
  | .amoand_d d a b o sc => Sys2Proof.Machine.execAmoandD d a b o sc s
  | .amoor_d d a b o sc => Sys2Proof.Machine.execAmoorD d a b o sc s
  | .amoxor_d d a b o sc => Sys2Proof.Machine.execAmoxorD d a b o sc s
  | .amomin_d d a b o sc => Sys2Proof.Machine.execAmominD d a b o sc s
  | .amomax_d d a b o sc => Sys2Proof.Machine.execAmomaxD d a b o sc s
  | .amominn_d d a b o sc => Sys2Proof.Machine.execAmominnD d a b o sc s
  | .amomaxn_d d a b o sc => Sys2Proof.Machine.execAmomaxnD d a b o sc s
  | .amoswp_d d a b o sc => Sys2Proof.Machine.execAmoswpD d a b o sc s
  | .amocas_w d a b o sc => Sys2Proof.Machine.execAmocasW d a b o sc s
  | .amocas_d d a b o sc => Sys2Proof.Machine.execAmocasD d a b o sc s
  | .ldres_w d a o sc => Sys2Proof.Machine.execLdresW d a o sc s
  | .ldres_d d a o sc => Sys2Proof.Machine.execLdresD d a o sc s
  | .stcond_w d a b o sc => Sys2Proof.Machine.execStcondW d a b o sc s
  | .stcond_d d a b o sc => Sys2Proof.Machine.execStcondD d a b o sc s
  -- Scalar floating point (R169 to R172); `wide` is W
  | .fadd d a b wide rm => Sys2Proof.Machine.execFadd d a b wide rm s
  | .fsub d a b wide rm => Sys2Proof.Machine.execFsub d a b wide rm s
  | .fmul d a b wide rm => Sys2Proof.Machine.execFmul d a b wide rm s
  | .fdiv d a b wide rm => Sys2Proof.Machine.execFdiv d a b wide rm s
  | .fsqrt d a wide rm => Sys2Proof.Machine.execFsqrt d a wide rm s
  | .fmin d a b wide => Sys2Proof.Machine.execFmin d a b wide s
  | .fmax d a b wide => Sys2Proof.Machine.execFmax d a b wide s
  | .fcmpeq d a b wide => Sys2Proof.Machine.execFcmpeq d a b wide s
  | .fcmplt d a b wide => Sys2Proof.Machine.execFcmplt d a b wide s
  | .fcmple d a b wide => Sys2Proof.Machine.execFcmple d a b wide s
  | .fsgn d a b wide => Sys2Proof.Machine.execFsgn d a b wide s
  | .fclass d a wide => Sys2Proof.Machine.execFclass d a wide s
  | .fneg d a wide => Sys2Proof.Machine.execFneg d a wide s
  | .fabs d a wide => Sys2Proof.Machine.execFabs d a wide s
  | .fma d a b c wide rm => Sys2Proof.Machine.execFma d a b c wide rm s
  | .fms d a b c wide rm => Sys2Proof.Machine.execFms d a b c wide rm s
  | .fnma d a b c wide rm => Sys2Proof.Machine.execFnma d a b c wide rm s
  | .fcvt d a dst src rm => Sys2Proof.Machine.execFcvt d a dst src rm s
  | .fmvx d a => Sys2Proof.Machine.execFmvx d a s
  | .fmvf d a => Sys2Proof.Machine.execFmvf d a s
  -- CSR, trap and system (R323 to R327, R332, R334)
  | .csrrd d csr => Sys2Proof.Machine.execCsrrd d csr s
  | .csrwr d a csr => Sys2Proof.Machine.execCsrwr d a csr s
  | .csrset d a csr => Sys2Proof.Machine.execCsrset d a csr s
  | .csrclr d a csr => Sys2Proof.Machine.execCsrclr d a csr s
  | .cinv a b => Sys2Proof.Machine.execCinv a b s
  | .cwb a b => Sys2Proof.Machine.execCwb a b s
  | .cflush a b => Sys2Proof.Machine.execCflush a b s
  | .vquery d a b => Sys2Proof.Machine.execVquery d a b s
  | .vdrop d a => Sys2Proof.Machine.execVdrop d a s
  | .tdget d a b => Sys2Proof.Machine.execTdget d a b s
  -- Synchronisation (R298 to R306)
  | .fence o sc => Sys2Proof.Machine.execFence o sc s
  | .rfence o sc mask => Sys2Proof.Machine.execRfence o sc mask s
  | .rslot slot a b => Sys2Proof.Machine.execRslot slot a b s
  | .rslott slot a => Sys2Proof.Machine.execRslott slot a s
  | .barInit a b sc => Sys2Proof.Machine.execBarInit a b sc s
  | .barArrive a sc => Sys2Proof.Machine.execBarArrive a sc s
  | .barWait a sc => Sys2Proof.Machine.execBarWait a sc s
  -- Tasks and farms (R313 to R322)
  | .launch d a b => Sys2Proof.Machine.execLaunch d a b s
  | .join d a => Sys2Proof.Machine.execJoin d a s
  | .farm d a => Sys2Proof.Machine.execFarm d a s
  | .fclaim d a => Sys2Proof.Machine.execFclaim d a s
  | .wmpub a b => Sys2Proof.Machine.execWmpub a b s
  | .wmwait a b => Sys2Proof.Machine.execWmwait a b s
  -- Hints (R82); `nullHint` stands for every 0x37 word without an assigned hint
  | .nullHint bits => Sys2Proof.Machine.execNullHint bits s
  | .hintClass cls => Sys2Proof.Machine.execHintClass cls s
  | .hintPref write a len => Sys2Proof.Machine.execHintPref write a len s
  | .hintLive hi mask => Sys2Proof.Machine.execHintLive hi mask s
  | .hintFuse n => Sys2Proof.Machine.execHintFuse n s
  | .hintPause cycles => Sys2Proof.Machine.execHintPause cycles s
  | .hintPlace die valid cluster => Sys2Proof.Machine.execHintPlace die valid cluster s
  -- Vector configuration and integer (R85)
  | .setvl o => Sys2Proof.Machine.execSetvl o s
  | .vadd o => Sys2Proof.Machine.execVadd o s
  | .vsub o => Sys2Proof.Machine.execVsub o s
  | .vmul o => Sys2Proof.Machine.execVmul o s
  | .vmulh o => Sys2Proof.Machine.execVmulh o s
  | .vdiv o => Sys2Proof.Machine.execVdiv o s
  | .vrem o => Sys2Proof.Machine.execVrem o s
  | .vmin o => Sys2Proof.Machine.execVmin o s
  | .vmax o => Sys2Proof.Machine.execVmax o s
  | .vand o => Sys2Proof.Machine.execVand o s
  | .vor o => Sys2Proof.Machine.execVor o s
  | .vxor o => Sys2Proof.Machine.execVxor o s
  | .vsll o => Sys2Proof.Machine.execVsll o s
  | .vsrl o => Sys2Proof.Machine.execVsrl o s
  | .vsra o => Sys2Proof.Machine.execVsra o s
  | .vabs o => Sys2Proof.Machine.execVabs o s
  | .vneg o => Sys2Proof.Machine.execVneg o s
  | .vcmp o => Sys2Proof.Machine.execVcmp o s
  | .vmerge o => Sys2Proof.Machine.execVmerge o s
  | .vmv o => Sys2Proof.Machine.execVmv o s
  | .vmvx o => Sys2Proof.Machine.execVmvx o s
  | .vid o => Sys2Proof.Machine.execVid o s
  -- Vector floating point (R85)
  | .vfadd o => Sys2Proof.Machine.execVfadd o s
  | .vfsub o => Sys2Proof.Machine.execVfsub o s
  | .vfmul o => Sys2Proof.Machine.execVfmul o s
  | .vfdiv o => Sys2Proof.Machine.execVfdiv o s
  | .vfsqrt o => Sys2Proof.Machine.execVfsqrt o s
  | .vfma o => Sys2Proof.Machine.execVfma o s
  | .vfms o => Sys2Proof.Machine.execVfms o s
  | .vfnma o => Sys2Proof.Machine.execVfnma o s
  | .vfmin o => Sys2Proof.Machine.execVfmin o s
  | .vfmax o => Sys2Proof.Machine.execVfmax o s
  | .vfabs o => Sys2Proof.Machine.execVfabs o s
  | .vfneg o => Sys2Proof.Machine.execVfneg o s
  | .vfcmp o => Sys2Proof.Machine.execVfcmp o s
  | .vfcvt o => Sys2Proof.Machine.execVfcvt o s
  -- Vector memory (R201)
  | .vld o => Sys2Proof.Machine.execVld o s
  | .vlds o => Sys2Proof.Machine.execVlds o s
  | .vldx o => Sys2Proof.Machine.execVldx o s
  | .vld_st o => Sys2Proof.Machine.execVldSt o s
  | .vst o => Sys2Proof.Machine.execVst o s
  | .vsts o => Sys2Proof.Machine.execVsts o s
  | .vstx o => Sys2Proof.Machine.execVstx o s
  -- Masks, permutes, reductions, special functions (R86)
  | .kand kd ka kb hint => Sys2Proof.Machine.execKand kd ka kb hint s
  | .kor kd ka kb hint => Sys2Proof.Machine.execKor kd ka kb hint s
  | .kxor kd ka kb hint => Sys2Proof.Machine.execKxor kd ka kb hint s
  | .knot kd ka hint => Sys2Proof.Machine.execKnot kd ka hint s
  | .kpopc xd ka hint => Sys2Proof.Machine.execKpopc xd ka hint s
  | .kfirst xd ka hint => Sys2Proof.Machine.execKfirst xd ka hint s
  | .kset kd xs hint => Sys2Proof.Machine.execKset kd xs hint s
  | .vslideup o => Sys2Proof.Machine.execVslideup o s
  | .vslidedn o => Sys2Proof.Machine.execVslidedn o s
  | .vperm o => Sys2Proof.Machine.execVperm o s
  | .vcompress o => Sys2Proof.Machine.execVcompress o s
  | .vexpand o => Sys2Proof.Machine.execVexpand o s
  | .vredsum o => Sys2Proof.Machine.execVredsum o s
  | .vredosum o => Sys2Proof.Machine.execVredosum o s
  | .vredmax o => Sys2Proof.Machine.execVredmax o s
  | .vredq o => Sys2Proof.Machine.execVredq o s
  | .vredmin o => Sys2Proof.Machine.execVredmin o s
  | .vredand o => Sys2Proof.Machine.execVredand o s
  | .vredor o => Sys2Proof.Machine.execVredor o s
  | .vexp2 o => Sys2Proof.Machine.execVexp2 o s
  | .vrcp o => Sys2Proof.Machine.execVrcp o s
  | .vlog2 o => Sys2Proof.Machine.execVlog2 o s
  | .vrsqrt o => Sys2Proof.Machine.execVrsqrt o s
  | .vsinpi o => Sys2Proof.Machine.execVsinpi o s
  | .vcospi o => Sys2Proof.Machine.execVcospi o s
  -- Tensor (R87)
  | .msetvl o => Sys2Proof.Machine.execMsetvl o s
  | .mexit hint => Sys2Proof.Machine.execMexit hint s
  | .mopa o => Sys2Proof.Machine.execMopa o s
  | .mopa4 o => Sys2Proof.Machine.execMopa4 o s
  | .mopas o => Sys2Proof.Machine.execMopas o s
  | .mzero md hint => Sys2Proof.Machine.execMzero md hint s
  | .mld o => Sys2Proof.Machine.execMld o s
  | .mst o => Sys2Proof.Machine.execMst o s
  | .mrow o => Sys2Proof.Machine.execMrow o s
  | .mcol o => Sys2Proof.Machine.execMcol o s
  -- Engine (R88)
  | .cpy o => Sys2Proof.Machine.execCpy o s
  | .cpyt o => Sys2Proof.Machine.execCpyt o s
  | .cpyr xd id dest hint => Sys2Proof.Machine.execCpyr xd id dest hint s
  | .cbinit bytes b hint => Sys2Proof.Machine.execCbinit bytes b hint s
  | .cbwait xd b hint => Sys2Proof.Machine.execCbwait xd b hint s
  | .sopen block st hint => Sys2Proof.Machine.execSopen block st hint s
  | .sclose st hint => Sys2Proof.Machine.execSclose st hint s
  | .mbxpop xd addr hint => Sys2Proof.Machine.execMbxpop xd addr hint s
  | .waitmsg hint => Sys2Proof.Machine.execWaitmsg hint s
  | .msgsend xd target payload hint => Sys2Proof.Machine.execMsgsend xd target payload hint s
  | .rxopen xd desc q hint => Sys2Proof.Machine.execRxopen xd desc q hint s
  | .rxpop xd dst q hint => Sys2Proof.Machine.execRxpop xd dst q hint s
  | .coll o => Sys2Proof.Machine.execColl o s
  | .collwait xd handle hint => Sys2Proof.Machine.execCollwait xd handle hint s
  -- Privileged (R88)
  | .vdef xd rec hint => Sys2Proof.Machine.execVdef xd rec hint s
  | .vresize xd index rec hint => Sys2Proof.Machine.execVresize xd index rec hint s
  | .tdset xd handle rec hint => Sys2Proof.Machine.execTdset xd handle rec hint s
  | .tlbinv asid addr len all hint => Sys2Proof.Machine.execTlbinv asid addr len all hint s
  -- A word pair that is no defined encoding (R62)
  | .illegalWord w0 w1 => Sys2Proof.Machine.execIllegalWord w0 w1 s
  -- Events of a hart and of its units
  | .runLimit h => Sys2Proof.Machine.execRunLimit h s
  | .vqEntryIssue h => Sys2Proof.Machine.execVqEntryIssue h s
  | .vectorMemoryResponse h r => Sys2Proof.Machine.execVectorMemoryResponse h r s
  | .elementProgress h => Sys2Proof.Machine.execElementProgress h s
  | .waitResume h => Sys2Proof.Machine.execWaitResume h s
  | .barArriveFire h pos => Sys2Proof.Machine.execBarArriveFire h pos s
  | .copyTransfer h id bad => Sys2Proof.Machine.execCopyTransfer h id bad s
  | .copyCompletion h id => Sys2Proof.Machine.execCopyCompletion h id s
  | .streamFetch h st count bad => Sys2Proof.Machine.execStreamFetch h st count bad s
  | .rxMessageArrival h q srcHart srcPkg tag payload => Sys2Proof.Machine.execRxMessageArrival h q srcHart srcPkg tag payload s
  | .collOperationStart p g k => Sys2Proof.Machine.execCollOperationStart p g k s
  | .collPartialTransfer p g k news => Sys2Proof.Machine.execCollPartialTransfer p g k news s
  | .collOperationEnd p g k => Sys2Proof.Machine.execCollOperationEnd p g k s
  | .collPackageUnreachable pkg => Sys2Proof.Machine.execCollPackageUnreachable pkg s
  -- Events of the host ports and of coherence
  | .pcieAtomicopCompletion h r => Sys2Proof.Machine.execPcieAtomicopCompletion h r s
  | .pcieCompletionTimeout h => Sys2Proof.Machine.execPcieCompletionTimeout h s
  | .vaultWalkStep p index => Sys2Proof.Machine.execVaultWalkStep p index s
  | .regionRequest addr die write => Sys2Proof.Machine.execRegionRequest addr die write s
  | .leaseExpiry region die => Sys2Proof.Machine.execLeaseExpiry region die s
  | .leaseRecallAck region die => Sys2Proof.Machine.execLeaseRecallAck region die s
  | .regionDecay region => Sys2Proof.Machine.execRegionDecay region s
  | .cxlCacheResponse m exclusive data => Sys2Proof.Machine.execCxlCacheResponse m exclusive data s
  | .snpData m => Sys2Proof.Machine.execSnpData m s
  | .snpInv m => Sys2Proof.Machine.execSnpInv m s
  | .snpCur m => Sys2Proof.Machine.execSnpCur m s
  | .cxlMemRead m => Sys2Proof.Machine.execCxlMemRead m s
  | .cxlMemWrite m data => Sys2Proof.Machine.execCxlMemWrite m data s
  | .heartbeat a incarnation => Sys2Proof.Machine.execHeartbeat a incarnation s
  | .agentDeath a => Sys2Proof.Machine.execAgentDeath a s
  | .agentReadmit a => Sys2Proof.Machine.execAgentReadmit a s
  -- Events of the Mortar links
  | .linkStop l up cls => Sys2Proof.Machine.execLinkStop l up cls s
  | .linkGo l up cls => Sys2Proof.Machine.execLinkGo l up cls s
  | .linkSectorReceive l up words crc => Sys2Proof.Machine.execLinkSectorReceive l up words crc s
  | .linkDictChecksum l up => Sys2Proof.Machine.execLinkDictChecksum l up s
  -- Host queues, registers and network
  | .qctlWrite p q port v => Sys2Proof.Machine.execQctlWrite p q port v s
  | .tailWrite p q v => Sys2Proof.Machine.execTailWrite p q v s
  | .nop p q readOk => Sys2Proof.Machine.execNop p q readOk s
  | .hqLaunch p q readOk => Sys2Proof.Machine.execHqLaunch p q readOk s
  | .entryWrite p q readOk => Sys2Proof.Machine.execEntryWrite p q readOk s
  | .tdWrite p q readOk => Sys2Proof.Machine.execTdWrite p q readOk s
  | .badCommand p q readOk => Sys2Proof.Machine.execBadCommand p q readOk s
  | .registerWrite r v => Sys2Proof.Machine.execRegisterWrite r v s
  | .doorbell p v => Sys2Proof.Machine.execDoorbell p v s
  | .interrupt h => Sys2Proof.Machine.execInterrupt h s
  | .netLaunchPacket p bytes => Sys2Proof.Machine.execNetLaunchPacket p bytes s
  -- Scheduling
  | .quantumEnd h => Sys2Proof.Machine.execQuantumEnd h s
  | .waitSlotTimeout h => Sys2Proof.Machine.execWaitSlotTimeout h s
  | .priorityAging h => Sys2Proof.Machine.execPriorityAging h s
  | .hartWake h => Sys2Proof.Machine.execHartWake h s
  | .mixWindowEnd h => Sys2Proof.Machine.execMixWindowEnd h s
  | .retrieverArrival h => Sys2Proof.Machine.execRetrieverArrival h s
  | .tlbinvAck id core => Sys2Proof.Machine.execTlbinvAck id core s
  -- Power, reliability and management
  | .powerInterval watts => Sys2Proof.Machine.execPowerInterval watts s
  | .thermalClampOn island => Sys2Proof.Machine.execThermalClampOn island s
  | .thermalClampOff island => Sys2Proof.Machine.execThermalClampOff island s
  | .powerClampOn watts => Sys2Proof.Machine.execPowerClampOn watts s
  | .powerClampOff watts => Sys2Proof.Machine.execPowerClampOff watts s
  | .coreRetire core badRows => Sys2Proof.Machine.execCoreRetire core badRows s
  | .debug p hart => Sys2Proof.Machine.execDebug p hart s
  | .pldmSensorRead sensor => Sys2Proof.Machine.execPldmSensorRead sensor s
  | .pldmFirmwareUpdate rinca image => Sys2Proof.Machine.execPldmFirmwareUpdate rinca image s
  | .commitSvn authorised => Sys2Proof.Machine.execCommitSvn authorised s
  | .packageReset rinca mlevel cxl => Sys2Proof.Machine.execPackageReset rinca mlevel cxl s
  | .featreqWrite v => Sys2Proof.Machine.execFeatreqWrite v s
  -- Partition commands and firmware calls
  | .create p readOk => Sys2Proof.Machine.execCreate p readOk s
  | .start p => Sys2Proof.Machine.execStart p s
  | .swapout p => Sys2Proof.Machine.execSwapout p s
  | .swapin p => Sys2Proof.Machine.execSwapin p s
  | .terminate p => Sys2Proof.Machine.execTerminate p s
  | .destroy p => Sys2Proof.Machine.execDestroy p s
  | .badOp p op => Sys2Proof.Machine.execBadOp p op s
  | .bankpool h => Sys2Proof.Machine.execBankpool h s
  | .groupdef h => Sys2Proof.Machine.execGroupdef h s
  | .asidrange h => Sys2Proof.Machine.execAsidrange h s
  | .ctxarea h => Sys2Proof.Machine.execCtxarea h s
  | .codefail h => Sys2Proof.Machine.execCodefail h s
  | .partreq h => Sys2Proof.Machine.execPartreq h s
  | .tdtable h => Sys2Proof.Machine.execTdtable h s
  | .asidctx h => Sys2Proof.Machine.execAsidctx h s
  -- Further completions and events
  | .pcieReadCompletion h r => Sys2Proof.Machine.execPcieReadCompletion h r s
  | .birsp m => Sys2Proof.Machine.execBirsp m s
  | .hintPauseEnd h => Sys2Proof.Machine.execHintPauseEnd h s
  | .taskTerminated p handle => Sys2Proof.Machine.execTaskTerminated p handle s
  -- Instructions and events without operands
  | .land => Sys2Proof.Machine.execLand s
  | .ecall => Sys2Proof.Machine.execEcall s
  | .ebreak => Sys2Proof.Machine.execEbreak s
  | .eret => Sys2Proof.Machine.execEret s
  | .ifence => Sys2Proof.Machine.execIfence s
  | .xfence => Sys2Proof.Machine.execXfence s
  | .exit => Sys2Proof.Machine.execExit s
  | .yield => Sys2Proof.Machine.execYield s
  | .getMeasurements => Sys2Proof.Machine.execGetMeasurements s
  | .mainSideUnpowered => Sys2Proof.Machine.execMainSideUnpowered s

end Sys2Proof.Machine
end

