-- ==== Sys2Proof/Machine/Turn.lean ====
section
/-! DEFINITION. What one step does: which hart or which event of the part has its turn, what comes before the fetch at an instruction
boundary, the fetch, and the passing of time (R24, R47 to R49, R51, R62, R245, R337, R451, R454, R458, R459, R473; log 2, 3). -/

namespace Sys2Proof.Machine

/-! ### At an instruction boundary -/

/-- A hart that stopped goes on (R443, R451, R454): its context is as hardware wrote it, or the partition ends; at T its image is
re-issued, at S its own queue goes on, or is held back with VECTOR_OWNER (log 10). -/
def State.resumeHart (s : State) (h : Hart) : State :=
  if !s.contextGood h then s.terminatePart h.key.part 0 h.pc
  else
    let s := s.modHart h.key fun g => { g with sched := { g.sched with resume := false } }
    if h.level == .t then s.restoreImage h.key
    else if h.imgOuter.isSome then s.restoreOwnImage h.key
    else
      match (if s.owns h then none else firstVector h.queue) with
      | none => s
      | some pos =>
        (s.modHart h.key fun g => { g.unpend h.queue with queue := [], held := .queue h.queue }).trapBack h.key
          { cause := 0x14, info := BitVec.ofNat 64 pos, addr := 0, queued := true }

/-- The hart waits at this boundary for its queue. -/
def State.holdHart (s : State) (k : HartKey) : State := s.modHart k fun g => { g with stall := true }

/-- An interrupt would be taken now but for the hart's own queued entries at S. -/
def Hart.interruptDue (h : Hart) : Bool :=
  !h.irqs.isEmpty && (h.level == .t || (h.level == .s && h.csr.ie)) && !h.rtc && (h.sched.missed.isNone || h.sched.stepMove)

/-- A move that is asked for once is still to be looked at. -/
def Hart.requestDue (h : Hart) : Bool := h.sched.goPlace || (h.sched.goClass.isSome && (h.sched.hintClass == 3 || h.csr.pin))

/-- STEP (R458): epc is the next pc; the queue is empty. -/
def State.stepTrap (s : State) (k : HartKey) (info : Word) : State :=
  (s.modHart k fun g => { g with sched := { g.sched with stepDue := none } }).trapS k (.scalar 0x0D info 0)

/-- What a hart's turn does at an instruction boundary instead of an instruction: it resumes; it is rotated where its quantum ended during the drain
for its class miss (R45); it traps STEP, which comes before an
interrupt (R459); it takes an interrupt or RUN_LIMIT; its mix window ends; or it moves. None where it executes its next
instruction, as it does at once while an AtomicOp of it is out. -/
def State.boundary (s : State) (h : Hart) : Option (Host.Outcome State Fault Refusal) :=
  if h.sched.resume then some (.next (s.resumeHart h))
  else if h.sched.rotate then some (.next ((s.modHart h.key fun g => { g with sched := { g.sched with rotate := false } }).endQuantum h.key fun _ => true))
  else if h.sent then none
  else
    match h.dueStep with
    | some info =>
      some (if h.queue.isEmpty then .next (s.stepTrap h.key info)
        else if h.sched.status == .waiting && h.interruptible then execInterrupt h.key s
        else .next (s.holdHart h.key))
    | none =>
      if h.interruptDue then some (if h.interruptible then execInterrupt h.key s else .next (s.holdHart h.key))
      else if h.rtc && decide (16384 ≤ h.retired) then some (if h.limitDue then execRunLimit h.key s else .next (s.holdHart h.key))
      else if 65536 ≤ h.sched.win.count then some (execMixWindowEnd h.key s)
      else
        match s.tryMove h.key with
        | some t => some (.next t)
        | none => if h.requestDue then some (.next (s.lapse h.key)) else none

/-! ### Fetch (R49, R473) -/

/-- What the fetch of an instruction meets. -/
inductive FetchedInsn where
  | insn (s : State) (w0 w1 : Half)
  | trap (s : State) (t : Trap)
  | wait (s : State)

/-- The words of the instruction at the pc, word 1 being 0 for a 32-bit one. -/
def State.fetchInsn (s : State) (h : Hart) : FetchedInsn :=
  match s.fetchGet h h.pc with
  | .trap s t => .trap s t
  | .wait s => .wait s
  | .word s w0 =>
    if longMajor (hi 6 26 w0) then
      match s.fetchGet h (h.pc + 4) with
      | .trap s t => .trap s t
      | .wait s => .wait s
      | .word s w1 => .insn s w0 w1
    else .insn s w0 0

/-- The instruction at the hart's pc: it executes, a word that is no defined encoding traps ILLEGAL_INSN, and a failed fetch
traps. A trap at S waits for the handler's entries (R448). -/
def State.runNext (s : State) (h : Hart) : Host.Outcome State Fault Refusal :=
  match s.fetchInsn h with
  | .trap s t => .next (if h.level != .t && !h.queue.isEmpty then s.holdHart h.key else s.trap h.key t)
  | .wait s => .next (s.holdHart h.key)
  | .insn s w0 w1 =>
    match decodeWords w0 w1 with
    | .ok i => exec i s
    | .error _ => execIllegalWord w0 w1 s

/-- The turn of a hart. -/
def State.hartTurn (s : State) (h : Hart) : Host.Outcome State Fault Refusal :=
  match s.boundary h with
  | some r => r
  | none => s.runNext h

/-! ### Whose turn it is -/

/-- The hart can have a turn: it runs, nothing holds it, or it waits and an interrupt ends that. That of device firmware has none: what it does comes
about as the events of firmware (log 5). -/
def Hart.canRun (h : Hart) : Bool :=
  h.sched.slot.isSome && !h.stall && h.key.part != 16 &&
  ((h.sched.status == .running && h.sched.pauseUntil.isNone) || (h.sched.status == .waiting && h.interruptible))

/-- How far behind the slot that issued last a slot comes: the cores in turn, and on each core its slots in slot order after the one that issued
last there (R420, log 2). -/
def State.turnRank (s : State) (i : SlotId) : Nat :=
  let n := slotsOf i.core
  let core := (s.issued.head?.map Prod.fst).getD 847
  let slot := (s.issued.lookup i.core).getD (n - 1)
  (i.core + 847 - core) % 848 * 4 + (i.slot + 2 * n - 1 - slot) % n

/-- The hart that has its turn next: the first after the slot that issued last that can issue. -/
def State.nextHart (s : State) : Option Hart :=
  let rank := fun h : Hart => match h.sched.slot with | some i => s.turnRank i | none => 0
  firstBy (fun a b => decide (rank a < rank b)) (s.harts.filter Hart.canRun)

/-- The slots that issued last, with that of a hart. -/
def State.issuedBy (s : State) (h : Hart) : List (Nat × Nat) :=
  match h.sched.slot with
  | some i => (i.core, i.slot) :: s.issued.filter fun x => x.1 != i.core
  | none => s.issued

/-! ### Events that the part brings about by itself -/

/-- Events of a hart. -/
def hartEvents (h : Hart) : List (State → Host.Outcome State Fault Refusal) :=
  [execRetrieverArrival h.key, execHartWake h.key, execWaitResume h.key, execHintPauseEnd h.key, execQuantumEnd h.key,
   execWaitSlotTimeout h.key, execPriorityAging h.key, execElementProgress h.key,
   execVectorMemoryResponse h.key .data] ++
  (match h.fwcall with
   | some _ => [execBankpool h.key, execGroupdef h.key, execAsidrange h.key, execCtxarea h.key, execCodefail h.key,
       execPartreq h.key, execTdtable h.key, execAsidctx h.key]
   | none => []) ++
  (List.range h.queue.length).map (fun n => execBarArriveFire h.key n) ++
  ((List.finRange 8).filter fun n => (h.eng.streams[n]).isSome).map fun n => execStreamFetch h.key n 64 []

/-- Events of the queues, the vaults and the collectives of a partition. -/
def partEvents (s : State) (p : Fin 16) : List (State → Host.Outcome State Fault Refusal) :=
  let x := s.part (partNo p)
  (((List.finRange 4).filter fun q => s.queueRuns p q).flatMap fun q =>
    [execNop p q true, execHqLaunch p q true, execEntryWrite p q true, execTdWrite p q true, execBadCommand p q true]) ++
  (x.vaults.map fun v => execVaultWalkStep (partNo p) ⟨v.index.toNat, v.index.isLt⟩)

/-- The partition command that PCMD names, while it is under way (R509). -/
def State.commandEvents (s : State) : List (State → Host.Outcome State Fault Refusal) :=
  if s.commandBusy then
    let p : Fin 16 := Fin.ofNat 16 (bitsOf s.pcmd.toNat 11 8)
    [execCreate p true, execStart p, execSwapout p, execSwapin p, execTerminate p, execDestroy p, execBadOp p (s.pcmd.setWidth 8)]
  else []

/-- The agents that have been silent for too long (R382). -/
def State.silent (s : State) : List Agent :=
  (s.agents.filter fun a => a.2.alive && a.2.mute && decide (a.2.lastBeat + 10000 ≤ s.time)).map (·.1)

/-- What the links do by themselves: a receiver that has sent STOP takes flits out and sends GO (R390), and a checksum that is due is
compared (R393). -/
def State.linkEvents (s : State) : List (State → Host.Outcome State Fault Refusal) :=
  (List.finRange 9).flatMap fun l => [false, true].flatMap fun up =>
    ((s.linkDir l up).stopped.map (execLinkGo l up)) ++ (if (s.linkDir l up).due.isSome then [execLinkDictChecksum l up] else [])

/-- Every event that may come about now without the outside world. -/
def State.events (s : State) : List (State → Host.Outcome State Fault Refusal) :=
  if s.stopped then [] else
  s.commandEvents ++ s.silent.map execAgentDeath ++
  s.harts.flatMap hartEvents ++
  ((s.harts.filterMap fun h => h.sched.slot.map (·.core)).eraseDups.flatMap fun c => [passTurn c false, passTurn c true]) ++
  (s.copies.flatMap fun c => [execCopyTransfer c.hart c.id [], execCopyCompletion c.hart c.id]) ++
  (s.colls.flatMap fun c => if g : c.group < 64 then [execCollOperationStart c.part ⟨c.group, g⟩ c.k, execCollOperationEnd c.part ⟨c.group, g⟩ c.k] else []) ++
  (s.tlbinvs.flatMap fun t => t.waiting.map fun c => execTlbinvAck t.id c) ++
  ((List.finRange 16).flatMap fun p => if (s.part (partNo p)).state == .absent then [] else partEvents s p) ++
  s.linkEvents ++ ((s.bankErrors.map (·.1)).eraseDups.map fun c => execCoreRetire c []) ++
  (s.regions.flatMap fun r =>
    execRegionDecay r.index :: (List.finRange 6).flatMap fun d => [execLeaseRecallAck r.index d, execLeaseExpiry r.index d])

/-- The first of the events that changes the state, and the state that it leaves. -/
def State.firstEvent (s : State) : List (State → Host.Outcome State Fault Refusal) → Option State
  | [] => none
  | e :: l =>
    match e s with
    | .next t => if t = s then s.firstEvent l else some t
    | .fault _ => s.firstEvent l
    | .refused _ => s.firstEvent l

/-- An event of the part, if one is to come about; stalled instructions execute again after it. -/
def State.partEvent (s : State) : Option State :=
  let l := s.events
  let n := s.evPos % max l.length 1
  (s.firstEvent (l.drop n ++ l.take n)).map fun t => { t.unstall with evPos := s.evPos + 1 }

/-! ### Time (R24, R416; log 3) -/

/-- Cycles that a clock of `mhz` counts while time runs from `t` to `u` nanoseconds. -/
def cyclesBetween (mhz t u : Nat) : Nat := u * mhz / 1000 - t * mhz / 1000

/-- Time passes at the end of a step: `tick` counts cycles of the core while the hart occupies a slot (Table 1.3). -/
def State.pass (s : State) : State :=
  let u := s.time + s.elapse.headD 1
  { s with
    time := u
    elapse := s.elapse.drop 1
    harts := s.harts.map fun h =>
      if h.sched.slot.isSome then { h with csr := { h.csr with tick := h.csr.tick + BitVec.ofNat 64 (cyclesBetween (s.mhzOf h.core) s.time u) } } else h }

/-- Single-bit errors in the arrays of a core are found when a hart in one of its slots uses them, corrected in place and counted in mecc of the
die (R500; log 63). -/
def State.scrub (s : State) : State :=
  let used := fun c : Nat => s.harts.any fun h => h.sched.slot.isSome && h.core == c
  if s.upsets.isEmpty then s
  else
    { s with
      upsets := s.upsets.filter fun c => !used c
      mecc := Vector.ofFn fun d : Fin 6 => s.mecc[d] + BitVec.ofNat 64 (s.upsets.filter fun c => used c && dieOf c == d.val).length }

/-- An error comes about (R500). -/
def State.struck (s : State) : Strike → State
  | .flip pa => { s with flipped := sectorOf pa :: s.flipped.filter (· != sectorOf pa) }
  | .spoil pa => { s with corrupt := sectorOf pa :: s.corrupt.filter (· != sectorOf pa) }
  | .upset core => { s with upsets := core :: s.upsets }
  | .ruin a => { s with broken := a :: s.broken.filter (· != a) }

/-- The errors of this step come about. -/
def State.strike (s : State) : State := (s.strikes.headD []).foldl State.struck { s with strikes := s.strikes.drop 1 }

/-- A hart of a core is told of an uncorrectable error in the core's arrays, as it is of one in memory (R154, R209, R500; log 63): on the vector
side its entry whose turn it is, elsewhere its instruction; none where no hart can take it now. -/
def State.tellBroken (s : State) (h : Hart) (vector : Bool) : Option State :=
  if vector then
    if h.sent then none
    else
      match s.turnJob h.key with
      | some (pos, j, _) => some (s.queueTrap h.key pos (errorTrap false j.entry.elem.toNat j.entry.elem.toNat 0))
      | none => none
  else if h.atBoundary then some (s.trap h.key (.scalar 0x13 0x40 0))
  else none

/-- An uncorrectable error in an array is found by the first hart of the core that can be told of it. -/
def State.findBroken (s : State) (a : Sram) : State :=
  let on := fun (core : Nat) (vector : Bool) =>
    match (s.harts.filter fun h => h.sched.slot.isSome && h.core == core && h.key.part != 16).findSome? fun h => s.tellBroken h vector with
    | some t => { t with broken := t.broken.filter (· != a) }
    | none => s
  match a with
  | .scalar core => on core false
  | .vector core => on core true
  | .shadow _ => s

/-- Uncorrectable errors in arrays are found (R500). -/
def State.breaks (s : State) : State := s.broken.foldl State.findBroken s

/-- The end of a step: stores that have been in their path long enough are performed (log 20), held mailbox entries arrive (R265), held pre-emptions are
looked at again (R45), partitions that an error in a vector home ends are terminated (R428), errors in arrays come about, and are corrected or reported (R500), time passes, and the agents send their heartbeats
(R382). -/
def finishStep : Host.Outcome State Fault Refusal → Host.Outcome State Fault Refusal
  | .next s => .next s.drainPaths.deliverPosts.retryPreempts.endLost.resetDeficits.strike.scrub.breaks.pass.beats
  | .fault f => .fault f
  | .refused r => .refused r

/-! ### A step -/

/-- The end of a hart's turn: a hart that something held up is skipped, and the next one has its turn before any event; one that has
executed its instruction is the one that issued last (R420). -/
def State.endTurn (s : State) (h : Hart) (ran : Bool) : State :=
  if (s.hart? h.key).any (·.stall) then { s with eventTurn := false } else if ran then { s with issued := s.issuedBy h } else s

/-- The turn of the next hart. -/
def State.turn (s : State) (h : Hart) : Host.Outcome State Fault Refusal :=
  let c := { s with cur := some h.key, eventTurn := true }
  match c.hartTurn h with
  | .next t => .next (t.endTurn h (c.boundary h).isNone)
  | .fault f => .fault f
  | .refused r => .refused r

/-- What the part does by itself: a hart's turn or an event, in alternation where both are there; nothing where neither is. -/
def State.advance (s : State) : Host.Outcome State Fault Refusal :=
  if s.eventTurn then
    match s.partEvent with
    | some t => .next { t with eventTurn := false }
    | none =>
      match s.nextHart with
      | some h => s.turn h
      | none => .next { s.unstall with eventTurn := false }
  else
    match s.nextHart with
    | some h => s.turn h
    | none =>
      match s.partEvent with
      | some t => .next t
      | none => .next s.unstall

/-- The events that reach a part whose Keystone is dead: those of its power and its reset (R384). -/
def reachesStopped : Instr → Bool
  | .packageReset _ _ _ => true
  | _ => false

/-- The event from outside that comes at this step, if one does: an instruction is none. A part that has stopped meets no other than a reset. -/
def State.input? (s : State) : Option Instr :=
  match s.inputs with
  | [] => none
  | e :: _ => e.bind fun i => if (encode i).isEmpty && (!s.stopped || reachesStopped i) then some i else none

/-- The whole of a step before time passes. -/
def State.work (s : State) : Host.Outcome State Fault Refusal :=
  let s' := { s with inputs := s.inputs.drop 1 }
  match s.input? with
  | some e =>
    match exec e s' with
    | .next t => .next t.unstall
    | .fault f => .fault f
    | .refused r => .refused r
  | none => s'.advance

end Sys2Proof.Machine
end

