-- ==== Sys2Proof/Machine/Step.lean ====
section
/-! DEFINITION. One step of the part, and the state in which a given instruction is the next one. -/

namespace Sys2Proof.Machine

/-- One step: the event from outside that comes now, or a hart's turn, or an event of the part; then time passes (log 2). -/
def step (s : State) : Host.Outcome State Fault Refusal := finishStep s.work

/-- The first hart of a partition that is loaded from outside (log 6): hart 1 of partition 0, at T on core 16, slot 0, a Hound
core. -/
def loadedHart (pc : Word) : Hart :=
  { key := { part := 0, id := 1 }, pc := pc, level := .t, x := Vector.replicate 32 0, f := Vector.replicate 32 0,
    csr := Csrs.reset, task := 0, entry := 0, index := 0, rtc := false, retired := 0,
    sched := { Sched.start 16 0 with status := .running, slot := some { core := 16, slot := 0 }, newHart := false },
    queue := [], held := .none, heldCls := 0, imgHeld := 0, imgOuter := none, xpend := 0, fpend := 0,
    slots := Vector.replicate 8 RangeSlot.empty, outst := [], path := [], eng := Engine.start, resv := none, resvSeq := none, resvLost := false, checked := [], irqs := [],
    req := .none, fwcall := none, stall := false, waitFor := none, area := none, tilesAway := 0 }

/-- The state with the instruction of the bits `w` placed at the first address of HBM, virtual address 0, the bits above `nbits` 0, and partition 0 running
with one hart whose pc is there, beside that of device firmware (log 6): the next step fetches and executes exactly it. -/
def State.withFetchWord (s : State) (nbits w : Nat) : State :=
  let h := loadedHart 0
  let slot : SlotId := { core := 16, slot := 0 }
  let page : TlbEntry :=
    { core := 16, part := 0, asid := 0, global := false, vpage := 0, ppage := 0x4000000000, size := 4096, perm := 0x3F, vault := 255 }
  { s.writeBytes 0x4000000000 (leBytes 8 (w % 2 ^ min nbits 64)) with
    inputs := []
    eventTurn := false
    harts := h :: s.harts.filter fun g => g.key.part == 16
    slots := { Slot.empty slot with occupant := some h.key, hart := 1, valid := true, owner := 0, lanes := 512, vValid := BitVec.allOnes 32, kValid := BitVec.allOnes 8, mValid := 3 } :: s.slots.filter fun x => x.occupant.any fun k => k.part == 16
    tlb := [page]
    l1i := []
    parts := s.parts.set 0 { Part.absent with state := .running, ctl := { clusters := 0x7FFF, weight := 1, quantum := 1000 }, asidN := 1 }
    cur := some h.key }

end Sys2Proof.Machine
end

