-- ==== Sys2Proof/Safety.lean ====
section
/-! DEFINITION. The terms in which the statements speak: when an instruction passes its checks, the state in which it has
completed, what a frame keeps, and the results that the rules give. -/

namespace Sys2Proof.Claims
open Sys2Proof.Machine

/-! ### Runs -/

/-- The invariant of a run: memory keeps its canonical form. -/
def Inv (s : State) : Prop := Mem.wf s.mem = true

/-- The hart `h` has its turn, and its instruction `i` passes the checks of R23 and waits for nothing: its feature is active, the
level suffices, it writes no CSR that is wholly RO, the class executes it, no register of it is pending, and no waiting instruction stands in
the queue. -/
def Ready (s : State) (h : Hart) (i : Instr) : Prop :=
  s.curHart? = some h ∧ s.featureOn i = true ∧ minLevel i ≤ h.level.code.toNat ∧ writesReadOnly i = false ∧ implements h.cls i = true ∧
  h.free i = true ∧ h.blocked = false

/-- The state in which the hart has taken a trap of its own instruction, which has then executed, also where its class miss has moved the hart
(R40, log 34); a memory error counts against the bank of a local store that gave it (R501). -/
def trapped (s : State) (h : Hart) (c : Trap) : State :=
  ((s.noteError h.ctx c.cause c.addr).trap h.key c).modHart h.key fun g => g.migrated h

/-- The state in which `i` has completed on `h` with the change `f`, the pc moved past it. -/
def done (s : State) (h : Hart) (i : Instr) (f : Hart → Hart) : State :=
  s.modHart h.key fun g => (f g).retire h i (h.pc + BitVec.ofNat 64 (4 * (encode i).length))

/-- The state in which `i` has completed on `h` with the change `f` and the pc at a target. -/
def jumped (s : State) (h : Hart) (i : Instr) (f : Hart → Hart) (pc : Word) : State :=
  s.modHart h.key fun g => (f g).retire h i pc

/-- The end of a step: stores leave their paths, held mailbox entries arrive, errors of arrays come about and are found, time passes, and the agents send their heartbeats. -/
def ended (s : State) : State := s.drainPaths.deliverPosts.retryPreempts.endLost.resetDeficits.strike.scrub.breaks.pass.beats

/-- A line that the vault of an access holds is where the vault places it. -/
def InPlace (s : State) (v : Via) (pa : Nat) : Prop :=
  ∀ l vt, l ∈ s.lines → l.ofVault v.part v.vault = true → l.holds pa = true → s.vaultOf v = some vt → vt.placed l = true

/-- A read of `n` bytes can be performed at once: its agent lives, no error stands there, no lease and no PCIe completion is awaited, a line that its
vault holds is at its place, and the host grants what it asks for. -/
def ReadReady (s : State) (v : Via) (pa n : Nat) (alloc : Option Bool) : Prop :=
  s.deadAt pa = none ∧ s.corrupted pa = false ∧ s.onPcie pa = false ∧ s.readWaits pa (s.cacheDie v pa) = false ∧
  InPlace s v pa ∧
  ∀ y, y ∈ s.readNeeds v pa n alloc → (s.cxlState y).grants rdAny = true

/-- The word of a fetch can be read at once: it is not at hand already, and no copy of the hart still writes it. -/
def FetchReady (s : State) (h : Hart) (va : Word) (x : Xlat) : Prop :=
  h.checked.lookup va = none ∧ s.copiedTo h va 4 = false ∧ ReadReady s (h.via x) x.pa 4 (s.scalarAlloc (h.via x))

/-- Memory that a barrier block or a store can reach: HBM, or the local store of a core. -/
def Plain (pa : Nat) : Prop :=
  match placeOf pa with
  | .hbm _ => True
  | .store _ _ => True
  | .homeStore _ => False
  | .homeWindow _ => False
  | .host _ => False
  | .hole => False

/-- The instruction that two words give, if they give one. -/
def insnOf (w v : Half) : Option Instr :=
  match decodeWords w v with
  | .ok i => some i
  | .error _ => none

/-! ### Frames -/

/-- Every byte of memory reads as before. -/
def MemKept (s t : State) : Prop := ∀ a, Mem.get t.mem a = Mem.get s.mem a

/-- Every byte outside `n` bytes from `a` reads as before. -/
def MemKeptBut (s t : State) (a n : Nat) : Prop := ∀ b, b < a ∨ a + n ≤ b → Mem.get t.mem b = Mem.get s.mem b

/-- Every other hart is as before. -/
def OthersKept (s t : State) (k : HartKey) : Prop := ∀ k', k' ≠ k → t.hart? k' = s.hart? k'

/-- Every x register but those listed is as before. -/
def XKept (h g : Hart) (l : List Reg) : Prop := ∀ r, r ∉ l → g.getX r = h.getX r

/-- Every f register but those listed is as before. -/
def FKept (h g : Hart) (l : List Reg) : Prop := ∀ r, r ∉ l → g.getF r = h.getF r

/-! ### Integer results (R121 to R126) -/

/-- The register that an integer instruction writes, and the value that the rules give. -/
def intValue (h : Hart) : Instr → Option (Reg × Word)
  | .add d a b => some (d, h.getX a + h.getX b)
  | .sub d a b => some (d, h.getX a - h.getX b)
  | .and d a b => some (d, h.getX a &&& h.getX b)
  | .or d a b => some (d, h.getX a ||| h.getX b)
  | .xor d a b => some (d, h.getX a ^^^ h.getX b)
  | .andn d a b => some (d, h.getX a &&& ~~~ h.getX b)
  | .sll d a b => some (d, h.getX a <<< ((h.getX b).toNat % 64))
  | .srl d a b => some (d, h.getX a >>> ((h.getX b).toNat % 64))
  | .sra d a b => some (d, (h.getX a).sshiftRight ((h.getX b).toNat % 64))
  | .rol d a b => some (d, (h.getX a).rotateLeft ((h.getX b).toNat % 64))
  | .ror d a b => some (d, (h.getX a).rotateRight ((h.getX b).toNat % 64))
  | .slt d a b => some (d, if (h.getX a).toInt < (h.getX b).toInt then 1 else 0)
  | .sltn d a b => some (d, if (h.getX a).toNat < (h.getX b).toNat then 1 else 0)
  | .min d a b => some (d, if (h.getX a).toInt < (h.getX b).toInt then h.getX a else h.getX b)
  | .max d a b => some (d, if (h.getX a).toInt < (h.getX b).toInt then h.getX b else h.getX a)
  | .minn d a b => some (d, if (h.getX a).toNat < (h.getX b).toNat then h.getX a else h.getX b)
  | .maxn d a b => some (d, if (h.getX a).toNat < (h.getX b).toNat then h.getX b else h.getX a)
  | .mul d a b => some (d, h.getX a * h.getX b)
  | .mulh d a b => some (d, BitVec.ofInt 64 ((h.getX a).toInt * (h.getX b).toInt / 2 ^ 64))
  | .mulhn d a b => some (d, BitVec.ofNat 64 ((h.getX a).toNat * (h.getX b).toNat / 2 ^ 64))
  | .div d a b => some (d, if h.getX b = 0 then BitVec.allOnes 64
      else if h.getX a = BitVec.intMin 64 ∧ h.getX b = BitVec.allOnes 64 then BitVec.intMin 64
      else BitVec.ofInt 64 ((h.getX a).toInt.tdiv (h.getX b).toInt))
  | .divn d a b => some (d, if h.getX b = 0 then BitVec.allOnes 64 else BitVec.ofNat 64 ((h.getX a).toNat / (h.getX b).toNat))
  | .rem d a b => some (d, if h.getX b = 0 then h.getX a
      else if h.getX a = BitVec.intMin 64 ∧ h.getX b = BitVec.allOnes 64 then 0
      else BitVec.ofInt 64 ((h.getX a).toInt - (h.getX b).toInt * (h.getX a).toInt.tdiv (h.getX b).toInt))
  | .remn d a b => some (d, if h.getX b = 0 then h.getX a else BitVec.ofNat 64 ((h.getX a).toNat % (h.getX b).toNat))
  | .sadd1 d a b => some (d, h.getX a * 2 + h.getX b)
  | .sadd2 d a b => some (d, h.getX a * 4 + h.getX b)
  | .sadd3 d a b => some (d, h.getX a * 8 + h.getX b)
  | .bext d a b => some (d, BitVec.ofNat 64 ((h.getX a).toNat / 2 ^ ((h.getX b).toNat % 64) % 2 ^ ((h.getX b).toNat / 256 % 64 + 1)))
  | .bins d a b =>
    let mask : Word := BitVec.ofNat 64 ((2 ^ ((h.getX b).toNat / 256 % 64 + 1) - 1) * 2 ^ ((h.getX b).toNat % 64))
    some (d, (h.getX d &&& ~~~ mask) ||| ((h.getX a <<< ((h.getX b).toNat % 64)) &&& mask))
  | .clz d a => some (d, BitVec.ofNat 64 (clzOf (h.getX a) 64))
  | .ctz d a => some (d, BitVec.ofNat 64 (ctzOf (h.getX a) 64))
  | .popc d a => some (d, BitVec.ofNat 64 ((List.range 64).filter fun n => (h.getX a).getLsbD n).length)
  | .sext_b d a => some (d, ((h.getX a).setWidth 8).signExtend 64)
  | .sext_h d a => some (d, ((h.getX a).setWidth 16).signExtend 64)
  | .sext_w d a => some (d, ((h.getX a).setWidth 32).signExtend 64)
  | .zext_b d a => some (d, ((h.getX a).setWidth 8).setWidth 64)
  | .zext_h d a => some (d, ((h.getX a).setWidth 16).setWidth 64)
  | .zext_w d a => some (d, ((h.getX a).setWidth 32).setWidth 64)
  | .addi d a imm => some (d, h.getX a + imm.signExtend 64)
  | .andi d a imm => some (d, h.getX a &&& imm.setWidth 64)
  | .ori d a imm => some (d, h.getX a ||| imm.setWidth 64)
  | .xori d a imm => some (d, h.getX a ^^^ imm.setWidth 64)
  | .slti d a imm => some (d, if (h.getX a).toInt < (imm.signExtend 64).toInt then 1 else 0)
  | .slli d a n => some (d, h.getX a <<< n.toNat)
  | .srli d a n => some (d, h.getX a >>> n.toNat)
  | .srai d a n => some (d, (h.getX a).sshiftRight n.toNat)
  | .lup d imm => some (d, imm.signExtend 64 * 0x10000)
  | .pcadd d imm => some (d, h.pc + imm.signExtend 64 * 0x10000)
  | _ => none

/-- The stack-limit check applies to a result (R135). -/
def limited (h : Hart) (d : Reg) (v : Word) : Prop :=
  d = 2 ∧ h.level = .t ∧ h.csr.stklim ≠ 0 ∧ v.toNat < h.csr.stklim.toNat

/-! ### Branches and jumps (R128, R129) -/

/-- Whether a conditional branch is taken, and its offset in words. -/
def branchOf (h : Hart) : Instr → Option (Prop × BitVec 16)
  | .beq a b off => some (h.getX a = h.getX b, off)
  | .bne a b off => some (h.getX a ≠ h.getX b, off)
  | .blt a b off => some ((h.getX a).toInt < (h.getX b).toInt, off)
  | .bge a b off => some ((h.getX b).toInt ≤ (h.getX a).toInt, off)
  | .bltn a b off => some ((h.getX a).toNat < (h.getX b).toNat, off)
  | .bgen a b off => some ((h.getX b).toNat ≤ (h.getX a).toNat, off)
  | _ => none

/-! ### Scalar loads and stores (R147, R149, R150) -/

/-- What a load writes: its register, address, size, and how the value is widened. -/
def loadOf (h : Hart) : Instr → Option (Reg × Word × Nat × (Nat → Word))
  | .ldb d a imm => some (d, h.getX a + imm.signExtend 64, 1, fun v => (BitVec.ofNat 8 v).signExtend 64)
  | .ldbz d a imm => some (d, h.getX a + imm.signExtend 64, 1, fun v => BitVec.ofNat 64 v)
  | .ldh d a imm => some (d, h.getX a + imm.signExtend 64, 2, fun v => (BitVec.ofNat 16 v).signExtend 64)
  | .ldhz d a imm => some (d, h.getX a + imm.signExtend 64, 2, fun v => BitVec.ofNat 64 v)
  | .ldw d a imm => some (d, h.getX a + imm.signExtend 64, 4, fun v => (BitVec.ofNat 32 v).signExtend 64)
  | .ldwz d a imm => some (d, h.getX a + imm.signExtend 64, 4, fun v => BitVec.ofNat 64 v)
  | .ldd d a imm => some (d, h.getX a + imm.signExtend 64, 8, fun v => BitVec.ofNat 64 v)
  | _ => none

/-- What a store writes: its address, size, and the register's value. -/
def storeOf (h : Hart) : Instr → Option (Word × Nat × Word)
  | .stb b a imm => some (h.getX a + imm.signExtend 64, 1, h.getX b)
  | .sth b a imm => some (h.getX a + imm.signExtend 64, 2, h.getX b)
  | .stw b a imm => some (h.getX a + imm.signExtend 64, 4, h.getX b)
  | .std b a imm => some (h.getX a + imm.signExtend 64, 8, h.getX b)
  | _ => none

/-- A state of a host sector in which the device may read it, or, with ownership, write it (Table 15.5). -/
def Granted (c : Cxl) (own : Bool) : Prop := c = .e ∨ c = .m ∨ (own = false ∧ (c = .s ∨ c = .o))

/-- No vault but the page's holds a line of the address, and that one holds it where it places it. -/
def Placed (s : State) (v : Via) (pa : Nat) : Prop :=
  ∀ l, l ∈ s.lines → l.holds pa = true → l.ofVault v.part v.vault = true ∧ ∀ vt, s.vaultOf v = some vt → vt.placed l = true

/-- The `n` bytes of an access can be used at once: their agent lives and beats, no error stands there, no lease is awaited, and a host sector in CXL
mode is granted, as are the others that the fill of its line takes. -/
def AtHand (s : State) (h : Hart) (x : Xlat) (n : Nat) (own : Bool) : Prop :=
  s.deadAt x.pa = none ∧ s.silentAt x.pa = false ∧
  match placeOf x.pa with
  | .hbm _ => (∀ y, y ∈ sectorsOf x.pa n → s.corrupted y = false) ∧ s.readWaits x.pa (s.cacheDie (h.via x) x.pa) = false
  | .store _ _ => ∀ y, y ∈ sectorsOf x.pa n → s.corrupted y = false
  | .host p => s.ports[p].cxl = true ∧ Placed s (h.via x) x.pa ∧ (∀ y, y ∈ sectorsOf x.pa n → Granted (s.cxlState y) own ∧ s.corrupted y = false) ∧
      ∀ y, y ∈ s.readNeeds (h.via x) x.pa n (s.scalarAlloc (h.via x)) → Granted (s.cxlState y) false
  | .homeStore _ => False
  | .homeWindow _ => False
  | .hole => False

/-- A write of a hart is performed as soon as it is made: the store path is empty and the store does not stay there, no write of a host
waits, its agent beats, and a host sector that becomes dirty in its vault is owned, with the rest of its line. -/
def WriteAtOnce (s : State) (h : Hart) (x : Xlat) : Prop :=
  h.path = [] ∧ (s.delays.headD (0, false)).1 = 0 ∧ s.hostWrites = [] ∧ s.silentAt x.pa = false ∧
  (Plain x.pa ∨ ∃ p, placeOf x.pa = .host p) ∧
  (s.inCxl x.pa = true → s.keepsDirty (h.via x) x.pa (some true) = true → Placed s (h.via x) x.pa ∧ Granted (s.cxlState x.pa) true ∧
    ∀ y, y ∈ s.readNeeds (h.via x) x.pa 1 (some true) → y ≠ x.pa / 64 * 64 → Granted (s.cxlState y) false)

/-- What a hart is after an instruction that writes the x registers listed and moves the pc on: its other x registers, its f
registers, its level, queue and slots, and its CSRs (but for the count of a class miss that completes) are as before. -/
def HartKept (h g : Hart) (i : Instr) (l : List Reg) : Prop :=
  g.key = h.key ∧ g.pc = h.pc + BitVec.ofNat 64 (4 * (encode i).length) ∧ XKept h g l ∧ FKept h g [] ∧ g.level = h.level ∧ g.queue = h.queue ∧
  g.slots = h.slots ∧ g.eng = h.eng ∧ g.csr = { h.csr with migcount := if h.hasMoved then h.csr.migcount + 1 else h.csr.migcount }

/-- Every other hart is as before, but that the L1D of its core may have lost the sector that it has reserved. -/
def OthersAlike (s t : State) (k : HartKey) : Prop :=
  ∀ k' g, k' ≠ k → t.hart? k' = some g → ∃ h, s.hart? k' = some h ∧ { g with resvLost := h.resvLost } = h

/-- Every other hart is as before, but for a reservation that a write ends, and for accesses that a region, closing no more, has performed. -/
def OthersKeptButResv (s t : State) (k : HartKey) : Prop :=
  ∀ k' g, k' ≠ k → t.hart? k' = some g → ∃ h, s.hart? k' = some h ∧ { g with resv := h.resv, resvLost := h.resvLost, outst := h.outst } = h

/-- Every other hart is as before, but for a reservation that a write ends. -/
def OthersKeptButAtomics (s t : State) (k : HartKey) : Prop :=
  ∀ k' g, k' ≠ k → t.hart? k' = some g → ∃ y, s.hart? k' = some y ∧ { g with resv := y.resv } = y

/-- The harts are as before, but that L1Ds may have lost sectors that they have reserved. -/
def HartsSame (s t : State) : Prop :=
  t.harts.map (fun g => { g with resvLost := false }) = s.harts.map fun g => { g with resvLost := false }

/-- Every hart is as before, but for its reservation and for what is still to be performed of its accesses. -/
def HartsAlike (s t : State) : Prop :=
  ∀ k g, t.hart? k = some g → ∃ h, s.hart? k = some h ∧ { g with resv := h.resv, resvLost := h.resvLost, outst := h.outst } = h

/-! ### Atomics (R157, R158) -/

/-- The low `n` bytes of a word. -/
def low (n : Nat) (w : Word) : Nat := w.toNat % 256 ^ n

/-- A number of `n` bytes, read signed. -/
def signed (n v : Nat) : Int := if v < 256 ^ n / 2 then v else (v : Int) - 256 ^ n

/-- An atomic: its register, address, size, order and scope, the PCIe AtomicOp that expresses it with its operands (Table 6.6), and the value
that it writes for a value read, if it writes one. -/
def atomOf (h : Hart) : Instr → Option (Reg × Word × Nat × Order × Scope × Option (AtomicKind × Nat × Nat) × (Nat → Option Nat))
  | .amoadd_w d a b o sc => some (d, h.getX a, 4, o, sc, some (.fetchAdd, low 4 (h.getX b), 0), fun m => some ((m + low 4 (h.getX b)) % 256 ^ 4))
  | .amoand_w d a b o sc => some (d, h.getX a, 4, o, sc, none, fun m => some (m &&& low 4 (h.getX b)))
  | .amoor_w d a b o sc => some (d, h.getX a, 4, o, sc, none, fun m => some (m ||| low 4 (h.getX b)))
  | .amoxor_w d a b o sc => some (d, h.getX a, 4, o, sc, none, fun m => some (m ^^^ low 4 (h.getX b)))
  | .amomin_w d a b o sc => some (d, h.getX a, 4, o, sc, none, fun m => some (if signed 4 (low 4 (h.getX b)) < signed 4 m then low 4 (h.getX b) else m))
  | .amomax_w d a b o sc => some (d, h.getX a, 4, o, sc, none, fun m => some (if signed 4 m < signed 4 (low 4 (h.getX b)) then low 4 (h.getX b) else m))
  | .amominn_w d a b o sc => some (d, h.getX a, 4, o, sc, none, fun m => some (min m (low 4 (h.getX b))))
  | .amomaxn_w d a b o sc => some (d, h.getX a, 4, o, sc, none, fun m => some (max m (low 4 (h.getX b))))
  | .amoswp_w d a b o sc => some (d, h.getX a, 4, o, sc, some (.swap, low 4 (h.getX b), 0), fun _ => some (low 4 (h.getX b)))
  | .amoadd_d d a b o sc => some (d, h.getX a, 8, o, sc, some (.fetchAdd, low 8 (h.getX b), 0), fun m => some ((m + low 8 (h.getX b)) % 256 ^ 8))
  | .amoand_d d a b o sc => some (d, h.getX a, 8, o, sc, none, fun m => some (m &&& low 8 (h.getX b)))
  | .amoor_d d a b o sc => some (d, h.getX a, 8, o, sc, none, fun m => some (m ||| low 8 (h.getX b)))
  | .amoxor_d d a b o sc => some (d, h.getX a, 8, o, sc, none, fun m => some (m ^^^ low 8 (h.getX b)))
  | .amomin_d d a b o sc => some (d, h.getX a, 8, o, sc, none, fun m => some (if signed 8 (low 8 (h.getX b)) < signed 8 m then low 8 (h.getX b) else m))
  | .amomax_d d a b o sc => some (d, h.getX a, 8, o, sc, none, fun m => some (if signed 8 m < signed 8 (low 8 (h.getX b)) then low 8 (h.getX b) else m))
  | .amominn_d d a b o sc => some (d, h.getX a, 8, o, sc, none, fun m => some (min m (low 8 (h.getX b))))
  | .amomaxn_d d a b o sc => some (d, h.getX a, 8, o, sc, none, fun m => some (max m (low 8 (h.getX b))))
  | .amoswp_d d a b o sc => some (d, h.getX a, 8, o, sc, some (.swap, low 8 (h.getX b), 0), fun _ => some (low 8 (h.getX b)))
  | .amocas_w d a b o sc => some (d, h.getX a, 4, o, sc, some (.cas, low 4 (h.getX d), low 4 (h.getX b)), fun m => if m = low 4 (h.getX d) then some (low 4 (h.getX b)) else none)
  | .amocas_d d a b o sc => some (d, h.getX a, 8, o, sc, some (.cas, low 8 (h.getX d), low 8 (h.getX b)), fun m => if m = low 8 (h.getX d) then some (low 8 (h.getX b)) else none)
  | _ => none

/-- A value of 4 or 8 bytes as a register takes it. -/
def widen (n v : Nat) : Word := if n = 4 then (BitVec.ofNat 32 v).signExtend 64 else BitVec.ofNat 64 v

/-- The release half of an order is complete. -/
def Released (s : State) (h : Hart) (o : Order) (sc : Scope) : Prop := orderReleases o = true → ordRelease s h sc = none

/-- The address, and the alignment, of every scalar memory instruction. -/
def addrOf (h : Hart) (i : Instr) : Option (Word × Nat) :=
  match loadOf h i, storeOf h i, atomOf h i with
  | some (_, va, n, _), _, _ => some (va, n)
  | none, some (va, n, _), _ => some (va, n)
  | none, none, some (_, va, n, _) => some (va, n)
  | none, none, none =>
    match i with
    | .ldres_w _ a _ _ => some (h.getX a, 4)
    | .ldres_d _ a _ _ => some (h.getX a, 8)
    | .stcond_w _ a _ _ _ => some (h.getX a, 4)
    | .stcond_d _ a _ _ _ => some (h.getX a, 8)
    | _ => none

/-- What each needs of its page (Table 18.2): an atomic both reads and writes. -/
def needOf (h : Hart) (i : Instr) : Need :=
  match loadOf h i, atomOf h i with
  | some _, _ => .load
  | none, some _ => .atomic
  | none, none => match i with | .ldres_w _ _ _ _ => .load | .ldres_d _ _ _ _ => .load | _ => .store

/-! ### Scalar floating point (R168 to R172) -/

/-- The format that the W bit names. -/
def fpFmt (wide : Bool) : Fmt := if wide then .f64 else .f32

/-- The rounding mode of a scalar instruction: its own, or that of fcsr. -/
def frm (h : Hart) (rm : Rm) : Rm := resolveRm rm (h.csr.fcsr.setWidth 3)

/-- An f register result: its register, its format, the element's bits and the flags. -/
def fpValue (h : Hart) : Instr → Option (Reg × Fmt × Nat × Flags)
  | .fadd d a b w rm => let r := fpSum [h.fVal (fpFmt w) a, h.fVal (fpFmt w) b] (fpFmt w) (frm h rm) false; some (d, fpFmt w, r.1, r.2)
  | .fsub d a b w rm => let r := fpSum [h.fVal (fpFmt w) a, (h.fVal (fpFmt w) b).negate] (fpFmt w) (frm h rm) false; some (d, fpFmt w, r.1, r.2)
  | .fmul d a b w rm => let r := fpMul (h.fVal (fpFmt w) a) (h.fVal (fpFmt w) b) (fpFmt w) (frm h rm) false; some (d, fpFmt w, r.1, r.2)
  | .fdiv d a b w rm => let r := fpDiv (h.fVal (fpFmt w) a) (h.fVal (fpFmt w) b) (fpFmt w) (frm h rm) false; some (d, fpFmt w, r.1, r.2)
  | .fsqrt d a w rm => let r := fpSqrt (h.fVal (fpFmt w) a) (fpFmt w) (frm h rm) false; some (d, fpFmt w, r.1, r.2)
  | .fmin d a b w => let r := fpMinMax false (fpFmt w) (h.fBits (fpFmt w) a) (h.fBits (fpFmt w) b); some (d, fpFmt w, r.1, r.2)
  | .fmax d a b w => let r := fpMinMax true (fpFmt w) (h.fBits (fpFmt w) a) (h.fBits (fpFmt w) b); some (d, fpFmt w, r.1, r.2)
  | .fma d a b c w rm =>
    let r := fpSum [(h.fVal (fpFmt w) a).times (h.fVal (fpFmt w) b), h.fVal (fpFmt w) c] (fpFmt w) (frm h rm) false; some (d, fpFmt w, r.1, r.2)
  | .fms d a b c w rm =>
    let r := fpSum [(h.fVal (fpFmt w) a).times (h.fVal (fpFmt w) b), (h.fVal (fpFmt w) c).negate] (fpFmt w) (frm h rm) false
    some (d, fpFmt w, r.1, r.2)
  | .fnma d a b c w rm =>
    let r := fpSum [(h.fVal (fpFmt w) a).negate.times (h.fVal (fpFmt w) b), h.fVal (fpFmt w) c] (fpFmt w) (frm h rm) false
    some (d, fpFmt w, r.1, r.2)
  | .fsgn d a b w =>
    let m := 2 ^ (bitsW (fpFmt w) - 1); some (d, fpFmt w, h.fBits (fpFmt w) a % m + m * (h.fBits (fpFmt w) b / m), 0)
  | .fneg d a w =>
    let m := 2 ^ (bitsW (fpFmt w) - 1); some (d, fpFmt w, h.fBits (fpFmt w) a % m + m * (1 - h.fBits (fpFmt w) a / m), 0)
  | .fabs d a w => some (d, fpFmt w, h.fBits (fpFmt w) a % 2 ^ (bitsW (fpFmt w) - 1), 0)
  | .fcvt d a dst src rm =>
    if dst.isInt then none
    else let r := fpCvt (h.cvtSource src a) src dst (frm h rm) false false; some (d, dst, r.1, r.2)
  | _ => none

/-- An x register result of the floating-point family, with its flags. -/
def fxValue (h : Hart) : Instr → Option (Reg × Word × Flags)
  | .fcmpeq d a b w => let r := fpCmp .eq (h.fVal (fpFmt w) a) (h.fVal (fpFmt w) b); some (d, if r.1 then 1 else 0, r.2)
  | .fcmplt d a b w => let r := fpCmp .lt (h.fVal (fpFmt w) a) (h.fVal (fpFmt w) b); some (d, if r.1 then 1 else 0, r.2)
  | .fcmple d a b w => let r := fpCmp .le (h.fVal (fpFmt w) a) (h.fVal (fpFmt w) b); some (d, if r.1 then 1 else 0, r.2)
  | .fclass d a w =>
    some (d, BitVec.ofNat 64 (fpClass (fpFmt w) (h.fVal (fpFmt w) a) ((h.fBits (fpFmt w) a).testBit (bitsW (fpFmt w) - 1))), 0)
  | .fcvt d a dst src rm =>
    if dst.isInt then
      let r := fpCvt (h.cvtSource src a) src dst (frm h rm) false false
      some (d, if dst = .i32 then (BitVec.ofNat 32 r.1).signExtend 64 else BitVec.ofNat 64 r.1, r.2)
    else none
  | .fmvx d a => some (d, h.getF a, 0)
  | _ => none

/-! ### CSRs (R323) -/

/-- A CSR instruction that writes: its register, the CSR, the value for RW fields from the old one, and the bits for W1C fields. -/
def csrOf (h : Hart) : Instr → Option (Reg × BitVec 12 × (Word → Word) × Word)
  | .csrwr d a n => some (d, n, fun _ => h.getX a, h.getX a)
  | .csrset d a n => some (d, n, fun old => old ||| h.getX a, h.getX a)
  | .csrclr d a n => some (d, n, fun old => old &&& ~~~ h.getX a, 0)
  | _ => none

/-! ### The vector queue (R31 to R33, R188, R230, R243) -/

/-- The captured value of a scalar second source; a vector source captures nothing. -/
def second (h : Hart) (f : Fmt) : Src2 → Word
  | .vec _ => 0
  | .scal x => if f.isFp then h.getF x else h.getX x

/-- The operands that an instruction captures when it enters the queue: OPA, OPB and OPC of its entry. -/
def captured (h : Hart) : Instr → Option (Word × Word × Word)
  | .vadd o => some (second h o.fmt o.src2, 0, 0) | .vsub o => some (second h o.fmt o.src2, 0, 0)
  | .vmul o => some (second h o.fmt o.src2, 0, 0) | .vmulh o => some (second h o.fmt o.src2, 0, 0)
  | .vdiv o => some (second h o.fmt o.src2, 0, 0) | .vrem o => some (second h o.fmt o.src2, 0, 0)
  | .vmin o => some (second h o.fmt o.src2, 0, 0) | .vmax o => some (second h o.fmt o.src2, 0, 0)
  | .vand o => some (second h o.fmt o.src2, 0, 0) | .vor o => some (second h o.fmt o.src2, 0, 0)
  | .vxor o => some (second h o.fmt o.src2, 0, 0) | .vsll o => some (second h o.fmt o.src2, 0, 0)
  | .vsrl o => some (second h o.fmt o.src2, 0, 0) | .vsra o => some (second h o.fmt o.src2, 0, 0)
  | .vcmp o => some (second h o.fmt o.src2, 0, 0) | .vmerge o => some (second h o.fmt o.src2, 0, 0)
  | .vfadd o => some (second h o.fmt o.src2, 0, 0) | .vfsub o => some (second h o.fmt o.src2, 0, 0)
  | .vfmul o => some (second h o.fmt o.src2, 0, 0) | .vfdiv o => some (second h o.fmt o.src2, 0, 0)
  | .vfmin o => some (second h o.fmt o.src2, 0, 0) | .vfmax o => some (second h o.fmt o.src2, 0, 0)
  | .vfcmp o => some (second h o.fmt o.src2, 0, 0)
  | .vabs _ => some (0, 0, 0) | .vneg _ => some (0, 0, 0) | .vmv _ => some (0, 0, 0) | .vid _ => some (0, 0, 0)
  | .vmvx o => some (h.getX o.xs, 0, 0)
  | .vfsqrt _ => some (0, 0, 0) | .vfma _ => some (0, 0, 0) | .vfms _ => some (0, 0, 0) | .vfnma _ => some (0, 0, 0)
  | .vfabs _ => some (0, 0, 0) | .vfneg _ => some (0, 0, 0) | .vfcvt _ => some (0, 0, 0) | .vexp2 _ => some (0, 0, 0)
  | .vrcp _ => some (0, 0, 0) | .vlog2 _ => some (0, 0, 0) | .vrsqrt _ => some (0, 0, 0) | .vsinpi _ => some (0, 0, 0)
  | .vcospi _ => some (0, 0, 0)
  | .kand _ _ _ _ => some (0, 0, 0) | .kor _ _ _ _ => some (0, 0, 0) | .kxor _ _ _ _ => some (0, 0, 0) | .knot _ _ _ => some (0, 0, 0)
  | .kpopc _ _ _ => some (0, 0, 0) | .kfirst _ _ _ => some (0, 0, 0) | .kset _ a _ => some (h.getX a, 0, 0)
  | .vslideup o => some (h.getX o.xs, 0, 0) | .vslidedn o => some (h.getX o.xs, 0, 0) | .vperm _ => some (0, 0, 0)
  | .vcompress _ => some (0, 0, 0) | .vexpand _ => some (0, 0, 0)
  | .vredsum _ => some (0, 0, 0) | .vredosum _ => some (0, 0, 0) | .vredmax _ => some (0, 0, 0) | .vredmin _ => some (0, 0, 0)
  | .vredand _ => some (0, 0, 0) | .vredor _ => some (0, 0, 0) | .vredq o => some (h.getX o.xs, 0, 0)
  | .vld o => some (h.getX o.base, 0, 0) | .vst o => some (h.getX o.base, 0, 0)
  | .vlds o => some (h.getX o.base, h.getX o.ix, 0) | .vsts o => some (h.getX o.base, h.getX o.ix, 0)
  | .vldx o => some (h.getX o.base, 0, 0) | .vstx o => some (h.getX o.base, 0, 0) | .vld_st _ => some (0, 0, 0)
  | .mopa _ => some (0, 0, 0) | .mopa4 _ => some (0, 0, 0) | .mopas _ => some (0, 0, 0) | .mzero _ _ => some (0, 0, 0)
  | .mld o => some (h.getX o.base, h.getX o.pitch, 0) | .mst o => some (h.getX o.base, h.getX o.pitch, 0)
  | .mrow o => some (h.getX o.xs, 0, 0) | .mcol o => some (h.getX o.xs, 0, 0)
  | .cpy o => some (h.getX o.dst, h.getX o.src, h.getX o.len) | .cpyt o => some (h.getX o.dst, h.getX o.src, h.getX o.handle)
  | .cpyr _ a _ _ => some (h.getX a, 0, 0) | .cbinit a _ _ => some (h.getX a, 0, 0) | .cbwait _ _ _ => some (0, 0, 0)
  | .sopen a _ _ => some (h.getX a, 0, 0) | .sclose _ _ => some (0, 0, 0) | .mbxpop _ a _ => some (h.getX a, 0, 0)
  | .waitmsg _ => some (0, 0, 0) | .msgsend _ a b _ => some (h.getX a, h.getX b, 0) | .rxopen _ a _ _ => some (h.getX a, 0, 0)
  | .rxpop _ a _ _ => some (h.getX a, 0, 0) | .coll o => some (h.getX o.dst, h.getX o.src, h.getX o.count)
  | .collwait _ a _ => some (h.getX a, 0, 0) | .barArrive a _ => some (h.getX a, 0, 0)
  | _ => none

/-- A tensor instruction needs matrix mode and a tile format that its operands pair with (R230, Table 9.1). -/
def TileReady (h : Hart) : Instr → Prop
  | .mopa o => h.csr.mm = true ∧ pairsWith o.fmt h.csr.tfmt = true
  | .mopa4 o => h.csr.mm = true ∧ pairsWith o.fmt h.csr.tfmt = true
  | .mopas o => h.csr.mm = true ∧ pairsWith o.fmt h.csr.tfmt = true
  | .mzero _ _ => h.csr.mm = true
  | .mld _ => h.csr.mm = true
  | .mst _ => h.csr.mm = true
  | .mrow _ => h.csr.mm = true
  | .mcol _ => h.csr.mm = true
  | _ => True

/-- The entry of Table 1.11 that an instruction makes: its words, its operands, and the length, types and start that hold now. -/
def entryOf (h : Hart) (i : Instr) (a b c : Word) : Entry :=
  { insn := instrWords i, opa := a, opb := b, opc := c, vl := h.csr.vl.setWidth 16, vtype := h.csr.vtype.setWidth 16, mvl := h.csr.mvl,
    mtype := h.csr.tfmt.setWidth 16 ||| (if h.csr.mm then 0x0100 else 0), elem := h.csr.vstart.setWidth 16, status := 1, nfault := 0,
    fovf := false, rsv := 0, issued := false, paddrs := [], pos := none, since := 0, limit := 0, restored := false,
    place := h.queue.length + h.heldCount }

/-- The hart with an entry at the end of its queue: vstart becomes 0, and an x destination is pending. -/
def pushed (e : Entry) (i : Instr) (g : Hart) : Hart :=
  match queuedDest i with
  | some d => Hart.setPend { g with queue := g.queue ++ [e], csr := { g.csr with vstart := 0 } } d true
  | none => { g with queue := g.queue ++ [e], csr := { g.csr with vstart := 0 } }

/-! ### Elementwise results (R16, R177 to R187) -/

/-- The entry whose turn it is: the hart's slot, its position and its instruction, which the slot's core executes. -/
def Turn (s : State) (k : HartKey) (h : Hart) (sl : SlotId) (pos : Nat) (e : Entry) (i : Instr) : Prop :=
  s.hart? k = some h ∧ h.inSlot = true ∧ h.sched.slot = some sl ∧ h.turn = some pos ∧ h.queue[pos]? = some e ∧ e.check = some i ∧
  implements h.cls i = true ∧ s.featureOn i = true

/-- The vector registers and the mask are in the slot already. -/
def Present (x : Slot) (vs : List Reg) (ks : List KReg) : Prop :=
  (∀ r, r ∈ vs → x.vValid.getLsbD r.val = true) ∧ ∀ k, k ∈ ks → k = 0 ∨ x.kValid.getLsbD k.val = true

/-- Bits of element `n` of a register at a format: two containers for 64 bits, else the low bits of one. -/
def elem (f : Fmt) (v : Vector Half 512) (n : Nat) : Nat :=
  if bitsW f = 64 then (v[2 * n]?.getD 0).toNat + 2 ^ 32 * (v[2 * n + 1]?.getD 0).toNat else (v[n]?.getD 0).toNat % 2 ^ bitsW f

/-- The container of an element of at most 32 bits that has been written (R16): an integer widened, signed for an .i format and with zeros for an .n
one, any other with zeros above it. -/
def container (f : Fmt) (b : Nat) : Half :=
  if f.isSigned then BitVec.ofInt 32 (intVal f b) else BitVec.ofNat 32 (b % 2 ^ bitsW f)

/-- The second source of a lane. -/
def lane2 (x : Slot) (e : Entry) (f : Fmt) (s2 : Src2) (n : Nat) : Nat :=
  match s2 with
  | .vec r => elem f x.v[r] n
  | .scal _ => if f.isFp then unbox f e.opa else e.opa.toNat % 2 ^ bitsW f

/-- The value of the second source of a floating-point lane. -/
def fl (f : Fmt) (flush : Bool) (b : Nat) : FVal := fpFlushSrc f flush (fpDecode f b)

/-- An integer at the width of a format. -/
def lowBits (f : Fmt) (z : Int) : Nat := (z % (2 ^ bitsW f : Nat)).toNat

/-- The function of a special instruction on exact values, rounded once (R117, R119). -/
def specialOf : Instr → Option (VSpec × (FVal → Nat × Flags))
  | .vexp2 o => some (o, exp2Of o.fmt o.flush)
  | .vlog2 o => some (o, log2Of o.fmt o.flush)
  | .vrcp o => some (o, rcpOf o.fmt o.flush)
  | .vrsqrt o => some (o, rsqrtOf o.fmt o.flush)
  | .vsinpi o => some (o, sinCosOf false o.fmt o.flush)
  | .vcospi o => some (o, sinCosOf true o.fmt o.flush)
  | _ => none

/-- What Table 4.10 gives a special function for infinities, zeros and negative numbers: NaN, a signed infinity, a signed zero or 1, and the flags. -/
inductive SpecialResult where
  | nan
  | inf (neg : Bool)
  | zero (neg : Bool)
  | one
deriving DecidableEq, Repr

/-- Table 4.10 for infinities, zeros and negative numbers; none where Table 4.9 decides. -/
def specialCase : Instr → FVal → Option (SpecialResult × Flags)
  | .vexp2 _, .inf n => some (if n then .zero false else .inf false, 0)
  | .vexp2 _, .fin _ 0 _ => some (.one, 0)
  | .vlog2 _, .inf n => some (if n then (.nan, fNV) else (.inf false, 0))
  | .vlog2 _, .fin _ 0 _ => some (.inf true, fDZ)
  | .vlog2 _, .fin true (_ + 1) _ => some (.nan, fNV)
  | .vrcp _, .inf n => some (.zero n, 0)
  | .vrcp _, .fin n 0 _ => some (.inf n, fDZ)
  | .vrsqrt _, .inf n => some (if n then (.nan, fNV) else (.zero false, 0))
  | .vrsqrt _, .fin n 0 _ => some (.inf n, fDZ)
  | .vrsqrt _, .fin true (_ + 1) _ => some (.nan, fNV)
  | .vsinpi _, .inf _ => some (.nan, fNV)
  | .vsinpi _, .fin n 0 _ => some (.zero n, 0)
  | .vcospi _, .inf _ => some (.nan, fNV)
  | .vcospi _, .fin _ 0 _ => some (.one, 0)
  | _, .nan q => some (.nan, if q then fNV else 0)
  | _, .fin _ _ _ => none
  | _, .inf _ => none

/-- The bits of such a result. -/
def SpecialResult.bits (f : Fmt) : SpecialResult → Nat
  | .nan => canonNan f
  | .inf n => (fpInf f n false).1
  | .zero n => if n then 2 ^ (bitsW f - 1) else 0
  | .one => (fpRound f .rne false false false 1 0).1

/-- An elementwise instruction: destination, sources, mask, format of the result, whether some format has 64 bits, and the bits and
flags of a lane. -/
def laneOf (h : Hart) (x : Slot) (e : Entry) : Instr → Option (Reg × List Reg × KReg × Fmt × Bool × (Nat → Nat × Flags))
  | .vadd o => some (o.vd, o.vs1 :: src2V o.src2, o.k, o.fmt, bitsW o.fmt == 64, fun n => ((elem o.fmt x.v[o.vs1] n + lane2 x e o.fmt o.src2 n) % 2 ^ bitsW o.fmt, 0))
  | .vsub o => some (o.vd, o.vs1 :: src2V o.src2, o.k, o.fmt, bitsW o.fmt == 64, fun n =>
      ((elem o.fmt x.v[o.vs1] n + 2 ^ bitsW o.fmt - lane2 x e o.fmt o.src2 n) % 2 ^ bitsW o.fmt, 0))
  | .vmul o => some (o.vd, o.vs1 :: src2V o.src2, o.k, o.fmt, bitsW o.fmt == 64, fun n => (elem o.fmt x.v[o.vs1] n * lane2 x e o.fmt o.src2 n % 2 ^ bitsW o.fmt, 0))
  | .vand o => some (o.vd, o.vs1 :: src2V o.src2, o.k, o.fmt, bitsW o.fmt == 64, fun n => (elem o.fmt x.v[o.vs1] n &&& lane2 x e o.fmt o.src2 n, 0))
  | .vor o => some (o.vd, o.vs1 :: src2V o.src2, o.k, o.fmt, bitsW o.fmt == 64, fun n => (elem o.fmt x.v[o.vs1] n ||| lane2 x e o.fmt o.src2 n, 0))
  | .vxor o => some (o.vd, o.vs1 :: src2V o.src2, o.k, o.fmt, bitsW o.fmt == 64, fun n => (elem o.fmt x.v[o.vs1] n ^^^ lane2 x e o.fmt o.src2 n, 0))
  | .vsll o => some (o.vd, o.vs1 :: src2V o.src2, o.k, o.fmt, bitsW o.fmt == 64, fun n =>
      (elem o.fmt x.v[o.vs1] n * 2 ^ (lane2 x e o.fmt o.src2 n % bitsW o.fmt) % 2 ^ bitsW o.fmt, 0))
  | .vsrl o => some (o.vd, o.vs1 :: src2V o.src2, o.k, o.fmt, bitsW o.fmt == 64, fun n =>
      (elem o.fmt x.v[o.vs1] n / 2 ^ (lane2 x e o.fmt o.src2 n % bitsW o.fmt), 0))
  | .vmin o => some (o.vd, o.vs1 :: src2V o.src2, o.k, o.fmt, bitsW o.fmt == 64, fun n =>
      (if intVal o.fmt (lane2 x e o.fmt o.src2 n) < intVal o.fmt (elem o.fmt x.v[o.vs1] n) then lane2 x e o.fmt o.src2 n else elem o.fmt x.v[o.vs1] n, 0))
  | .vmax o => some (o.vd, o.vs1 :: src2V o.src2, o.k, o.fmt, bitsW o.fmt == 64, fun n =>
      (if intVal o.fmt (elem o.fmt x.v[o.vs1] n) < intVal o.fmt (lane2 x e o.fmt o.src2 n) then lane2 x e o.fmt o.src2 n else elem o.fmt x.v[o.vs1] n, 0))
  | .vid o => some (o.vd, [], o.k, o.fmt, bitsW o.fmt == 64, fun n => (n, 0))
  | .vfadd o => some (o.vd, o.vs1 :: src2V o.src2, o.k, o.fmt, bitsW o.fmt == 64, fun n =>
      fpSum [fl o.fmt o.flush (elem o.fmt x.v[o.vs1] n), fl o.fmt o.flush (lane2 x e o.fmt o.src2 n)] o.fmt (resolveRm o.rm (h.csr.vfcsr.setWidth 3)) o.flush)
  | .vfmul o => some (o.vd, o.vs1 :: src2V o.src2, o.k, o.fmt, bitsW o.fmt == 64, fun n =>
      fpMul (fl o.fmt o.flush (elem o.fmt x.v[o.vs1] n)) (fl o.fmt o.flush (lane2 x e o.fmt o.src2 n)) o.fmt (resolveRm o.rm (h.csr.vfcsr.setWidth 3)) o.flush)
  | .vfma o => some (o.vd, [o.vs1, o.vs2, o.vs3], o.k, o.fmt, bitsW o.fmt == 64, fun n =>
      fpSum [(fl o.fmt o.flush (elem o.fmt x.v[o.vs1] n)).times (fl o.fmt o.flush (elem o.fmt x.v[o.vs2] n)), fl o.fmt o.flush (elem o.fmt x.v[o.vs3] n)]
        o.fmt (resolveRm o.rm (h.csr.vfcsr.setWidth 3)) o.flush)
  | .vmulh o => some (o.vd, o.vs1 :: src2V o.src2, o.k, o.fmt, bitsW o.fmt == 64, fun n =>
      (lowBits o.fmt (intVal o.fmt (elem o.fmt x.v[o.vs1] n) * intVal o.fmt (lane2 x e o.fmt o.src2 n) / (2 ^ bitsW o.fmt : Nat)), 0))
  | .vdiv o => some (o.vd, o.vs1 :: src2V o.src2, o.k, o.fmt, bitsW o.fmt == 64, fun n =>
      let a := intVal o.fmt (elem o.fmt x.v[o.vs1] n)
      let b := intVal o.fmt (lane2 x e o.fmt o.src2 n)
      (lowBits o.fmt (if b = 0 then -1 else a.tdiv b), 0))
  | .vrem o => some (o.vd, o.vs1 :: src2V o.src2, o.k, o.fmt, bitsW o.fmt == 64, fun n =>
      let a := intVal o.fmt (elem o.fmt x.v[o.vs1] n)
      let b := intVal o.fmt (lane2 x e o.fmt o.src2 n)
      (lowBits o.fmt (if b = 0 then a else a - b * a.tdiv b), 0))
  | .vsra o => some (o.vd, o.vs1 :: src2V o.src2, o.k, o.fmt, bitsW o.fmt == 64, fun n =>
      let a := elem o.fmt x.v[o.vs1] n
      (lowBits o.fmt ((if a < 2 ^ (bitsW o.fmt - 1) then (a : Int) else (a : Int) - (2 ^ bitsW o.fmt : Nat)) / (2 ^ (lane2 x e o.fmt o.src2 n % bitsW o.fmt) : Nat)), 0))
  | .vabs o => some (o.vd, [o.vs1], o.k, o.fmt, bitsW o.fmt == 64, fun n => ((intVal o.fmt (elem o.fmt x.v[o.vs1] n)).natAbs, 0))
  | .vneg o => some (o.vd, [o.vs1], o.k, o.fmt, bitsW o.fmt == 64, fun n => (2 ^ bitsW o.fmt - elem o.fmt x.v[o.vs1] n, 0))
  | .vfsub o => some (o.vd, o.vs1 :: src2V o.src2, o.k, o.fmt, bitsW o.fmt == 64, fun n =>
      fpSum [fl o.fmt o.flush (elem o.fmt x.v[o.vs1] n), (fl o.fmt o.flush (lane2 x e o.fmt o.src2 n)).negate] o.fmt (resolveRm o.rm (h.csr.vfcsr.setWidth 3)) o.flush)
  | .vfdiv o => some (o.vd, o.vs1 :: src2V o.src2, o.k, o.fmt, bitsW o.fmt == 64, fun n =>
      fpDiv (fl o.fmt o.flush (elem o.fmt x.v[o.vs1] n)) (fl o.fmt o.flush (lane2 x e o.fmt o.src2 n)) o.fmt (resolveRm o.rm (h.csr.vfcsr.setWidth 3)) o.flush)
  | .vfsqrt o => some (o.vd, [o.vs1], o.k, o.fmt, bitsW o.fmt == 64, fun n =>
      fpSqrt (fl o.fmt o.flush (elem o.fmt x.v[o.vs1] n)) o.fmt (resolveRm o.rm (h.csr.vfcsr.setWidth 3)) o.flush)
  | .vfms o => some (o.vd, [o.vs1, o.vs2, o.vs3], o.k, o.fmt, bitsW o.fmt == 64, fun n =>
      fpSum [(fl o.fmt o.flush (elem o.fmt x.v[o.vs1] n)).times (fl o.fmt o.flush (elem o.fmt x.v[o.vs2] n)), (fl o.fmt o.flush (elem o.fmt x.v[o.vs3] n)).negate]
        o.fmt (resolveRm o.rm (h.csr.vfcsr.setWidth 3)) o.flush)
  | .vfnma o => some (o.vd, [o.vs1, o.vs2, o.vs3], o.k, o.fmt, bitsW o.fmt == 64, fun n =>
      fpSum [((fl o.fmt o.flush (elem o.fmt x.v[o.vs1] n)).times (fl o.fmt o.flush (elem o.fmt x.v[o.vs2] n))).negate, fl o.fmt o.flush (elem o.fmt x.v[o.vs3] n)]
        o.fmt (resolveRm o.rm (h.csr.vfcsr.setWidth 3)) o.flush)
  | .vfmin o => some (o.vd, o.vs1 :: src2V o.src2, o.k, o.fmt, bitsW o.fmt == 64, fun n =>
      fpMinMax false o.fmt (elem o.fmt x.v[o.vs1] n) (lane2 x e o.fmt o.src2 n))
  | .vfmax o => some (o.vd, o.vs1 :: src2V o.src2, o.k, o.fmt, bitsW o.fmt == 64, fun n =>
      fpMinMax true o.fmt (elem o.fmt x.v[o.vs1] n) (lane2 x e o.fmt o.src2 n))
  | .vfabs o => some (o.vd, [o.vs1], o.k, o.fmt, bitsW o.fmt == 64, fun n => (elem o.fmt x.v[o.vs1] n % 2 ^ (bitsW o.fmt - 1), 0))
  | .vfneg o => some (o.vd, [o.vs1], o.k, o.fmt, bitsW o.fmt == 64, fun n => (elem o.fmt x.v[o.vs1] n + 2 ^ (bitsW o.fmt - 1), 0))
  | .vfcvt o => some (o.vd, [o.vs1], o.k, o.dst, bitsW o.dst == 64 || bitsW o.src == 64, fun n =>
      fpCvt (elem o.src x.v[o.vs1] n) o.src o.dst (resolveRm o.rm (h.csr.vfcsr.setWidth 3)) o.sat o.flush)
  | i => (specialOf i).map fun s =>
      (s.1.vd, [s.1.vs1], s.1.k, s.1.fmt, bitsW s.1.fmt == 64, fun n => s.2 (fl s.1.fmt s.1.flush (elem s.1.fmt x.v[s.1.vs1] n)))

/-- The elements that an entry has: those below its length and VLMAX (R17, R177). -/
def count (e : Entry) (wide : Bool) : Nat := min e.vl.toNat (if wide then 256 else 512)

/-- Where the pass of an entry ends, which begins at its element: with its lane cluster, or with its elements (R183). -/
def passStop (h : Hart) (e : Entry) (wide : Bool) : Nat :=
  let size := if wide then lcsize h.cls / 2 else lcsize h.cls
  if size = 0 then count e wide else min (count e wide) ((e.elem.toNat / size + 1) * size)

/-- After a pass the entry leaves the queue if it is the last one; else it is ACTIVE at the element where the next one begins (R184). -/
def AfterPass (h g : Hart) (pos : Nat) (e : Entry) (wide : Bool) : Prop :=
  if count e wide ≤ passStop h e wide ∨ count e wide ≤ e.elem.toNat then g.queue = h.queue.eraseIdx pos
  else g.queue = h.queue.set pos { e with elem := BitVec.ofNat 16 (passStop h e wide), status := 2 }

/-- The lane is written: it is at or above the entry's start, below `stop`, and its mask bit is 1. -/
def Active (x : Slot) (e : Entry) (stop : Nat) (k : KReg) (n : Nat) : Prop :=
  e.elem.toNat ≤ n ∧ n < stop ∧ (k = 0 ∨ (x.k[k])[n]?.getD false = true)

/-- Bit `n` of a mask register; k0 reads ones (R15, R18). -/
def on (x : Slot) (k : KReg) (n : Nat) : Bool := k == 0 || (x.k[k])[n]?.getD false

/-- That bit is 1. -/
def On (x : Slot) (k : KReg) (n : Nat) : Prop := on x k n = true

/-- VLMAX of a format (R17). -/
def lanes (f : Fmt) : Nat := if bitsW f = 64 then 256 else 512

/-- The whole containers of element `n`. -/
def whole (f : Fmt) (v : Vector Half 512) (n : Nat) : Nat :=
  if bitsW f = 64 then (v[2 * n]?.getD 0).toNat + 2 ^ 32 * (v[2 * n + 1]?.getD 0).toNat else (v[n]?.getD 0).toNat

/-- An integer relation of vcmp (R192). -/
def rel (c : Cond) (a b : Int) : Bool :=
  match c with
  | .eq => a == b | .ne => a != b | .lt => decide (a < b) | .le => decide (a ≤ b) | .gt => decide (b < a) | .ge => decide (b ≤ a)
  | .un => false | .ord => true

/-- The bits of a compare after a pass: those below the start keep their values, as do those above the pass until the last one. -/
def compared (h : Hart) (x : Slot) (e : Entry) (f : Fmt) (k kd : KReg) (r : Nat → Bool) (n : Nat) : Prop :=
  let stop := passStop h e (bitsW f == 64)
  if n < e.elem.toNat ∨ (stop ≤ n ∧ stop < count e (bitsW f == 64)) then On x kd n
  else e.elem.toNat ≤ n ∧ n < stop ∧ On x k n ∧ r n = true

/-- An instruction that writes a mask: the mask, the vectors and masks it reads, whether it is done in passes and then whether of 64-bit elements,
which bits become 1, and the flags of each element. -/
def maskOf (h : Hart) (x : Slot) (e : Entry) : Instr → Option (KReg × List Reg × List KReg × Option Bool × (Nat → Prop) × (Nat → Flags))
  | .kand d a b _ => some (d, [], [a, b, d], none, fun n => On x a n ∧ On x b n, fun _ => 0)
  | .kor d a b _ => some (d, [], [a, b, d], none, fun n => On x a n ∨ On x b n, fun _ => 0)
  | .kxor d a b _ => some (d, [], [a, b, d], none, fun n => On x a n ↔ ¬ On x b n, fun _ => 0)
  | .knot d a _ => some (d, [], [a, d], none, fun n => ¬ On x a n, fun _ => 0)
  | .kset d _ _ => some (d, [], [d], none, fun n => n < e.opa.toNat, fun _ => 0)
  | .vcmp o => some (o.kd, o.vs1 :: src2V o.src2, [o.k, o.kd], some (bitsW o.fmt == 64), compared h x e o.fmt o.k o.kd fun n =>
      rel o.cond (intVal o.fmt (elem o.fmt x.v[o.vs1] n)) (intVal o.fmt (lane2 x e o.fmt o.src2 n)), fun _ => 0)
  | .vfcmp o =>
    let r := fun n => fpCmp o.cond (fpDecode o.fmt (elem o.fmt x.v[o.vs1] n)) (fpDecode o.fmt (lane2 x e o.fmt o.src2 n))
    some (o.kd, o.vs1 :: src2V o.src2, [o.k, o.kd], some (bitsW o.fmt == 64), compared h x e o.fmt o.k o.kd fun n => (r n).1,
      fun n => if e.elem.toNat ≤ n && decide (n < passStop h e (bitsW o.fmt == 64)) && on x o.k n then (r n).2 else 0)
  | _ => none

/-- An instruction that moves whole containers in one pass over its elements, and is done with it (R218). -/
def atOnce : Instr → Bool
  | .vcompress _ => true
  | .vexpand _ => true
  | _ => false

/-- An instruction that moves whole containers: its destination, sources, mask and format, which elements it writes now, and what each
becomes. -/
def moveOf (h : Hart) (x : Slot) (e : Entry) : Instr → Option (Reg × List Reg × KReg × Fmt × (Nat → Prop) × (Nat → Nat))
  | .vmv o => some (o.vd, [o.vs1], o.k, o.fmt, Active x e (passStop h e (bitsW o.fmt == 64)) o.k, whole o.fmt x.v[o.vs1])
  | .vmerge o => some (o.vd, o.vs1 :: src2V o.src2, o.k, o.fmt, fun n => e.elem.toNat ≤ n ∧ n < passStop h e (bitsW o.fmt == 64), fun n =>
      if on x o.k n then
        (match o.src2 with
         | .vec r => whole o.fmt x.v[r] n
         | .scal _ => if bitsW o.fmt = 64 then lane2 x e o.fmt o.src2 n else (narrow o.fmt (lane2 x e o.fmt o.src2 n)).toNat)
      else whole o.fmt x.v[o.vs1] n)
  | .vslideup o => some (o.vd, [o.vs1], o.k, o.fmt, fun n => Active x e (passStop h e (bitsW o.fmt == 64)) o.k n ∧ e.opa.toNat ≤ n, fun n =>
      whole o.fmt x.v[o.vs1] (n - e.opa.toNat))
  | .vslidedn o => some (o.vd, [o.vs1], o.k, o.fmt, Active x e (passStop h e (bitsW o.fmt == 64)) o.k, fun n =>
      if n + e.opa.toNat < lanes o.fmt then whole o.fmt x.v[o.vs1] (n + e.opa.toNat) else 0)
  | .vperm o => some (o.vd, [o.vs1, o.vs2], o.k, o.fmt, Active x e (passStop h e (bitsW o.fmt == 64)) o.k, fun n =>
      if whole o.fmt x.v[o.vs2] n < lanes o.fmt then whole o.fmt x.v[o.vs1] (whole o.fmt x.v[o.vs2] n) else 0)
  | .vcompress o =>
    let l := (List.range (min e.vl.toNat (lanes o.fmt))).filter (on x o.k)
    some (o.vd, [o.vs1], o.k, o.fmt, fun n => n < l.length, fun n => whole o.fmt x.v[o.vs1] (l[n]?.getD 0))
  | .vexpand o => some (o.vd, [o.vs1], o.k, o.fmt, fun n => n < e.vl.toNat ∧ On x o.k n, fun n =>
      whole o.fmt x.v[o.vs1] ((List.range n).filter (on x o.k)).length)
  | _ => none

/-- An instruction that answers in an x register: the register, the vectors and masks it reads, and the answer. -/
def answerOf (x : Slot) (e : Entry) : Instr → Option (Reg × List Reg × List KReg × Word)
  | .kpopc d a _ => some (d, [], [a], BitVec.ofNat 64 ((List.range 512).filter (on x a)).length)
  | .kfirst d a _ => some (d, [], [a], BitVec.ofNat 64 (((List.range 512).find? (on x a)).getD 512))
  | .vmvx o => some (o.xd, [o.vs1], [o.k],
      if e.opa.toNat < lanes o.fmt ∧ on x o.k e.opa.toNat = true then
        (if o.fmt.isSigned then BitVec.ofInt 64 (intVal o.fmt (elem o.fmt x.v[o.vs1] e.opa.toNat)) else BitVec.ofNat 64 (elem o.fmt x.v[o.vs1] e.opa.toNat))
      else 0)
  | _ => none

/-- The step of a fold over elements: the next value, and the flags it adds. -/
def folded (g : Nat → Nat → Nat × Flags) (start : Nat) (l : List Nat) : Nat × Flags :=
  l.foldl (fun a b => ((g a.1 b).1, a.2 ||| (g a.1 b).2)) (start, 0)

/-- A reduction to element 0 of its destination in one pass, with its value and flags (R219): the active elements of vs1 in order, beside element 0
of vs2. A floating-point sum is that of the tree of R115, an inactive element standing as −0; without an active element an extreme compares
element 0 of vs2 with itself. -/
def redOf (h : Hart) (x : Slot) (e : Entry) : Instr → Option (VRed × (Nat × Flags))
  | .vredsum o =>
    let a := fun n => elem o.fmt x.v[o.vs1] n
    let ns := List.range (min e.vl.toNat (lanes o.fmt))
    some (o, if o.fmt.isInt then folded (fun a b => ((a + b) % 2 ^ bitsW o.fmt, 0)) (elem o.fmt x.v[o.vs2] 0) ((ns.filter (on x o.k)).map a)
      else fpTreeSum (elem o.fmt x.v[o.vs2] 0) (ns.map fun n => if on x o.k n then a n else 2 ^ (bitsW o.fmt - 1)) o.fmt
        (resolveRm o.rm (h.csr.vfcsr.setWidth 3)) o.flush)
  | .vredand o => some (o, folded (fun a b => (a &&& b, 0)) (elem o.fmt x.v[o.vs2] 0)
      (((List.range (min e.vl.toNat (lanes o.fmt))).filter (on x o.k)).map (elem o.fmt x.v[o.vs1])))
  | .vredor o => some (o, folded (fun a b => (a ||| b, 0)) (elem o.fmt x.v[o.vs2] 0)
      (((List.range (min e.vl.toNat (lanes o.fmt))).filter (on x o.k)).map (elem o.fmt x.v[o.vs1])))
  | .vredmax o => some (o, extremeOf true o x e)
  | .vredmin o => some (o, extremeOf false o x e)
  | _ => none
where
  /-- The greatest or the least of element 0 of vs2 and the active elements. -/
  extremeOf (mx : Bool) (o : VRed) (x : Slot) (e : Entry) : Nat × Flags :=
    let src := fun b : Nat => if o.flush && isSubnormal o.fmt (fpDecode o.fmt b) then b / 2 ^ (bitsW o.fmt - 1) * 2 ^ (bitsW o.fmt - 1) else b
    let l := ((List.range (min e.vl.toNat (lanes o.fmt))).filter (on x o.k)).map (elem o.fmt x.v[o.vs1])
    let s0 := elem o.fmt x.v[o.vs2] 0
    if o.fmt.isInt then
      folded (fun a b => (if mx then (if intVal o.fmt b < intVal o.fmt a then a else b) else if intVal o.fmt b < intVal o.fmt a then b else a, 0)) s0 l
    else folded (fpMinMax mx o.fmt) (src s0) (if l.isEmpty then [src s0] else l.map src)

/-! ### Vector memory (R201 to R204) -/

/-- A vector load or store: its register, the index register where it has one, its mask, format and hint, whether two of its elements share a byte,
whether it stores, the bytes of its footprint, and the address of each element. -/
structure MemForm where
  v : Reg
  more : List Reg
  k : KReg
  fmt : Fmt
  hint : Hint
  pack : Bool
  store : Bool
  footprint : Nat
  addr : Nat → Word

/-- The forms of Table 8.2 that address memory, for an entry. -/
def memForm (x : Slot) (e : Entry) : Instr → Option MemForm
  | .vld o => some (unit o false)
  | .vst o => some (unit o true)
  | .vlds o => some (strided o false)
  | .vsts o => some (strided o true)
  | .vldx o => some (indexed o false)
  | .vstx o => some (indexed o true)
  | _ => none
where
  /-- Consecutive elements; two of E2M1 share a byte. -/
  unit (o : VMem) (store : Bool) : MemForm :=
    { v := o.v, more := [], k := o.k, fmt := o.fmt, hint := o.hint, pack := o.fmt == .e2m1, store := store, footprint := unitFootprint e o.fmt,
      addr := fun n => e.opa + o.off.signExtend 64 + BitVec.ofNat 64 (if o.fmt == .e2m1 then n / 2 else n * memSize o.fmt) }
  /-- A stride in bytes. -/
  strided (o : VMemIx) (store : Bool) : MemForm :=
    { v := o.v, more := [], k := o.k, fmt := o.fmt, hint := o.hint, pack := false, store := store, footprint := strideFootprint e o.fmt,
      addr := fun n => e.opa + o.off.signExtend 64 + BitVec.ofNat 64 n * e.opb }
  /-- Signed byte offsets in an index vector. -/
  indexed (o : VMemIx) (store : Bool) : MemForm :=
    { v := o.v, more := [o.ix], k := o.k, fmt := o.fmt, hint := o.hint, pack := false, store := store,
      footprint := min e.vl.toNat (lanes o.fmt) * memSize o.fmt,
      addr := fun n => e.opa + o.off.signExtend 64 +
        (if bitsW o.fmt = 64 then BitVec.ofNat 64 (whole o.fmt x.v[o.ix] n) else ((x.v[o.ix])[n]?.getD 0).signExtend 64) }

/-- Elements of a lane cluster (R208). -/
def cluster (h : Hart) (f : Fmt) : Nat := if bitsW f = 64 then lcsize h.cls / 2 else lcsize h.cls

/-- An access of `n` bytes is in HBM of a live die that beats, in a region without a lease, and no host holds its sector. -/
def Quiet (s : State) (pa : Nat) : Prop :=
  (∃ m, placeOf pa = .hbm m) ∧ s.deadAt pa = none ∧ s.silentAt pa = false ∧ s.corrupted pa = false ∧ (s.region (regionOf pa)).closing = none ∧
  ∀ l, (s.region (regionOf pa)).state ≠ .r l

/-- An entry has completed: it has left the queue, and nothing of the hart but its engines and its pending bits has changed. -/
def Completed (h g : Hart) (pos : Nat) : Prop :=
  g.queue = h.queue.eraseIdx pos ∧ g.x = h.x ∧ g.f = h.f ∧ g.pc = h.pc ∧ g.level = h.level ∧ g.csr = h.csr

/-- An entry has completed with an answer in its x register, which is pending no longer (R33). -/
def Answered (h g : Hart) (pos : Nat) (d : Reg) (v : Word) : Prop :=
  g.queue = h.queue.eraseIdx pos ∧ (d ≠ 0 → g.getX d = v ∧ g.xpend.getLsbD d.val = false) ∧ XKept h g [d] ∧ g.f = h.f ∧ g.pc = h.pc ∧
  g.level = h.level ∧ g.csr = h.csr

/-- A fault of an engine entry or of a vector entry at issue, which is saved FAULTED at its element (R206, R244). -/
def faultedTrap (e : Entry) (cause : BitVec 8) (info addr : Word) : QueueTrap :=
  { cause := cause, info := info, addr := addr, status := 3, elem := e.elem, nfault := 0, fovf := false }

/-- A byte of memory after stores of bytes in their order, each at its address. -/
def stored (l : List (Nat × List Byte)) (a : Nat) (b : Byte) : Byte :=
  l.foldl (fun b x => if x.1 ≤ a then (x.2[a - x.1]?).getD b else b) b

/-- A byte of memory after stores of nibbles in their order, each with its element, its address and its value: an odd element takes the upper half
of its byte (R202). -/
def packed (l : List (Nat × Nat × Nat)) (a : Nat) (b : Byte) : Byte :=
  l.foldl (fun b x => if x.2.1 = a then BitVec.ofNat 8 (if x.1 % 2 = 1 then b.toNat % 16 + 16 * x.2.2 else b.toNat / 16 * 16 + x.2.2) else b) b

/-- An entry of the queue has answered, or its memory has: the queue is without it, or holds it with the accesses that are left. -/
def Went (h g : Hart) (pos : Nat) (e : Entry) (rest : List (Nat × BitVec 8 × Nat)) : Prop :=
  g.x = h.x ∧ g.f = h.f ∧ g.pc = h.pc ∧ g.level = h.level ∧ g.csr = h.csr ∧ (rest = [] → g.queue = h.queue.eraseIdx pos) ∧
  (rest ≠ [] → ∃ d, g.queue = h.queue.set pos d ∧ d.paddrs = rest ∧ d.insn = e.insn ∧ d.issued = e.issued)

/-- An entry has issued: its accesses await memory, timed from now on (R211). -/
def Issued (s : State) (h g : Hart) (pos : Nat) (e d : Entry) : Prop :=
  g = { h with queue := h.queue.set pos d } ∧ d = { e with issued := true, status := 2, paddrs := d.paddrs, since := s.time, limit := h.csr.eptlim }

/-- An operand of `n` bytes, aligned to its size, can be read at once by an engine entry (R246). -/
def Readable (s : State) (h : Hart) (va : Word) (n : Nat) (hint : Hint) (x : Xlat) : Prop :=
  va.toNat % n = 0 ∧ s.access h.ctx va .load = .ok x ∧ x.pa % n = 0 ∧ s.interlocked h va n = false ∧ s.behind h va n false = false ∧
  h.pathHolds x.pa n = false ∧ ReadReady s (h.via x) x.pa n (s.vectorAlloc (h.via x) hint n)

/-- The hart waits from now on, and nothing else has changed. -/
def WaitsNow (s t : State) (k : HartKey) (h : Hart) : Prop :=
  t.hart? k = some { h with sched := { h.sched with status := .waiting, waitSince := s.time } } ∧ MemKept s t ∧ OthersKept s t k

/-- A copy has been accepted (R248, R249): its id is the answer and counts on, and the barrier that it names has one copy more in flight. -/
def Accepted (s t : State) (h g : Hart) (pos : Nat) (d : Reg) (c : Copy) : Prop :=
  g.queue = h.queue.eraseIdx pos ∧ (d ≠ 0 → g.getX d = h.eng.copyNext.setWidth 64) ∧ XKept h g [d] ∧ g.f = h.f ∧ g.pc = h.pc ∧ g.csr = h.csr ∧
  g.eng.copyNext = (if h.eng.copyNext = BitVec.allOnes 32 then 1 else h.eng.copyNext + 1) ∧ MemKept s t ∧ t.copies = s.copies ++ [c] ∧
  c.id = h.eng.copyNext ∧ c.hart = h.key ∧
  ∀ b, c.dlv = .barrier b → (g.eng.cb[b]).infl = (h.eng.cb[b]).infl + 1 ∧ (g.eng.cb[b]).count = (h.eng.cb[b]).count ∧
    (g.eng.cb[b]).exp = (h.eng.cb[b]).exp

/-! ### Launches (Table 12.1, R312, R313) -/

/-- The 256 bits of an entry of the entry table. -/
def entryBits (e : EntryRec) : Nat := e.code.toNat + 2 ^ 64 * e.word.toNat + 2 ^ 128 * e.rsv0.toNat + 2 ^ 192 * e.rsv1.toNat

/-- Entry `i` is there and none of the cases of R312 holds for it. -/
def Launchable (p : Part) (i : Nat) (e : EntryRec) : Prop :=
  let n := entryBits e
  i < 4096 ∧ p.entries.lookup i = some e ∧ bitsOf n 96 96 = 1 ∧
  bitsOf n 255 112 = 0 ∧ bitsOf n 101 99 = 0 ∧ bitsOf n 95 93 = 0 ∧ bitsOf n 87 87 = 0 ∧ bitsOf n 83 82 = 0 ∧
  bitsOf n 79 64 ≠ 0 ∧ bitsOf n 92 88 ≤ 24 ∧ bitsOf n 1 0 = 0 ∧ p.asid0 ≤ bitsOf n 111 102 ∧ bitsOf n 111 102 < p.asid0 + p.asidN

/-- The partition's allowed set holds a core of the entry's class. -/
def ClassHeld (p : Part) (e : EntryRec) : Prop :=
  let cls := bitsOf (entryBits e) 81 80
  ∃ c, c < 848 ∧ p.ctl.clusters.getLsbD (clusterOf c) = true ∧ (cls = 3 ∨ (clsOf c).code = cls)

/-- A launch of entry `i` at a nesting depth is refused with a status: that of the first check of R313 that fails. -/
def LaunchRefused (p : Part) (i depth : Nat) (z : Int) : Prop :=
  ((∀ e, ¬ Launchable p i e) ∧ z = -3) ∨
  ∃ e, Launchable p i e ∧
    ((bitsOf (entryBits e) 92 88 < depth ∧ z = -2) ∨
     (depth ≤ bitsOf (entryBits e) 92 88 ∧ ¬ ClassHeld p e ∧ z = -4) ∨
     (depth ≤ bitsOf (entryBits e) 92 88 ∧ ClassHeld p e ∧ 8192 ≤ p.tasks.length ∧ z = -1))

/-- A launch of entry `i` at a nesting depth passes every check of R313. -/
def Launches (p : Part) (i depth : Nat) (e : EntryRec) : Prop :=
  Launchable p i e ∧ depth ≤ bitsOf (entryBits e) 92 88 ∧ ClassHeld p e ∧ p.tasks.length < 8192

/-! ### Tiles (R235 to R239) -/

/-- Bytes of a tile element in memory. -/
def tileBytes (e : Entry) : Nat := if bitsW e.tileFmt = 64 then 8 else 4

/-- Address of a tile element (R237). -/
def tileAt (e : Entry) (a b : Nat) : Word := e.opa + BitVec.ofNat 64 a * e.opb + BitVec.ofNat 64 (b * tileBytes e)

/-- An outer product: its tile, the registers that it reads, and what an element of the square becomes of what it holds (R111 to R113, R235). -/
def outerOf (h : Hart) (x : Slot) (e : Entry) : Instr → Option (Tile × List Reg × (Nat → Nat → Nat → Nat × Flags))
  | .mopa o => some (o.md, [o.vs1, o.vs2], fun a b acc =>
      fpSum [fpDecode e.tileFmt acc, (fpDecode o.fmt (elem o.fmt x.v[o.vs1] a)).times (fpDecode o.fmt (elem o.fmt x.v[o.vs2] b))]
        e.tileFmt (resolveRm o.rm (h.csr.vfcsr.setWidth 3)) false)
  | .mopa4 o => some (o.md, [o.vs1, o.vs2], fun a b acc =>
      if o.fmt.isInt then
        (lowBits .i32 (acc + (((List.range 4).map fun q =>
          intVal o.fmt (elem o.fmt x.v[o.vs1] (4 * a + q)) * intVal o.fmt (elem o.fmt x.v[o.vs2] (4 * b + q))).sum)), 0)
      else fpSum (fpDecode e.tileFmt acc :: products o.fmt x.v[o.vs1] x.v[o.vs2] a b) e.tileFmt (resolveRm o.rm (h.csr.vfcsr.setWidth 3)) false)
  | .mopas o => some (o.md, [o.vs1, o.vs2, o.sa, o.sb], fun a b acc =>
      let sa := ((x.v[o.sa])[a]?.getD 0).toNat % 256
      let sb := ((x.v[o.sb])[b]?.getD 0).toNat % 256
      if sa = 255 ∨ sb = 255 then (canonNan e.tileFmt, fNV)
      else fpSum (fpDecode e.tileFmt acc :: (products o.fmt x.v[o.vs1] x.v[o.vs2] a b).map fun p => p.times (.fin false 1 ((sa : Int) + sb - 254)))
        e.tileFmt (resolveRm o.rm (h.csr.vfcsr.setWidth 3)) false)
  | _ => none
where
  /-- The four exact products of an element. -/
  products (f : Fmt) (u v : Vector Half 512) (a b : Nat) : List FVal :=
    (List.range 4).map fun q => (fpDecode f (elem f u (4 * a + q))).times (fpDecode f (elem f v (4 * b + q)))

end Sys2Proof.Claims
end

