-- ==== Sys2Proof/Certificates/Slice0/Obligations.lean ====
section
/-! DEFINITION. The statements for the provers. -/

open Sys2Proof Sys2Proof.Machine Sys2Proof.Claims

/-- What package reset leaves (R24, R373, Tables 16.4 and 19.2): time reads 0, every region is P with its home die as owner, FEATREQ reads its reset value, and
the one hart is the M-level one of device firmware on Mastiff core 0 (R503; its pc and registers are log 5); memory is in its canonical form. (That HBM and the stores
read 0, that no partition exists, and PARG, PSTAT and PTERM, are the values of log 1 and log 7.) A hart's CSRs start at the values of Tables 1.3 and 1.4. -/
def Obligations.Reset : Prop :=
  Inv State.reset ∧ (∀ a, Mem.get State.reset.mem a = 0) ∧ State.reset.time = 0 ∧ State.reset.harts.map (fun h => (h.key.part, h.level, h.sched.slot)) = [(16, .m, some { core := 0, slot := 0 })] ∧
  State.reset.lines = [] ∧ State.reset.tlb = [] ∧
  (∀ r, (State.reset.region r).state = .p (homeDie (r * 0x200000))) ∧ (∀ p, (State.reset.part p).state = .absent) ∧
  State.reset.featReq = 0x3F ∧ State.reset.parg = 0 ∧ State.reset.pstat = 0 ∧ State.reset.pterm = 0 ∧
  Csrs.reset.eptlim = 0x100000 ∧ Csrs.reset.stklim = 0 ∧ Csrs.reset.cfien = false ∧ Csrs.reset.fcsr = 0 ∧ Csrs.reset.vfcsr = 0 ∧ Csrs.reset.evec = 0 ∧
  Csrs.reset.uvec = 0 ∧ Csrs.reset.udeleg = 0 ∧ Csrs.reset.ie = false ∧ Csrs.reset.tick = 0 ∧ Csrs.reset.root = 0 ∧ Csrs.reset.asid = 0

/-- A step runs the decoded instruction (R47 to R49, R62, R131). Where no event from outside comes and a hart has its turn with nothing to do at the
boundary, the step is exec of the instruction that the words at its pc decode to, in the state that the fetch leaves, after which the next hart's turn
follows and the step ends; an undefined word traps ILLEGAL_INSN; a fetch that fails traps with the report of R49, and one that has to wait stalls its
hart. The words are the bytes at the pc as the hart's die sees them; the second word is read for majors 0x38 to 0x3E alone; a word that a landing check
has passed is not read again. A fetch changes no byte and no hart, but that an L1D may lose a sector that is reserved. An event from outside is executed in the same way.
(The model's choices: one thing a step, an event from outside before any hart's turn, the next hart's turn after this one, time and heartbeats at the end, and a
hart that stalls, are log 2, log 3 and log 76.) -/
def Obligations.StepRunsDecoded : Prop :=
  (∀ (s : State) (h : Hart),
    let b : State := { s with inputs := s.inputs.drop 1 }
    let c : State := { b with cur := some h.key, eventTurn := true }
    s.input? = none → s.eventTurn = false ∨ b.partEvent = none → b.nextHart = some h → c.boundary h = none →
    (∀ u w0 w1 i t, c.fetchInsn h = .insn u w0 w1 → decodeWords w0 w1 = .ok i → exec i u = .next t →
      step s = .next (ended (t.endTurn h true))) ∧
    (∀ u w0 w1 e t, c.fetchInsn h = .insn u w0 w1 → decodeWords w0 w1 = .error e → exec (.illegalWord w0 w1) u = .next t →
      step s = .next (ended (t.endTurn h true))) ∧
    (∀ u r, c.fetchInsn h = .trap u r → h.level = .t ∨ h.queue = [] → step s = .next (ended ((u.trap h.key r).endTurn h true))) ∧
    (∀ u, c.fetchInsn h = .wait u → step s = .next (ended ((u.modHart h.key fun g => { g with stall := true }).endTurn h true)))) ∧
  (∀ (s : State) (h : Hart) (va : Word), s.codeFailed h va = none →
    (∀ x, s.access h.ctx va .fetch = .ok x → FetchReady s h va x →
      ∃ u, s.fetchGet h va = .word u (BitVec.ofNat 32 (leNat (s.view (h.via x) x.pa 4))) ∧ HartsSame s u ∧ u.cur = s.cur ∧ MemKept s u) ∧
    (∀ e, h.checked.lookup va = none → s.access h.ctx va .fetch = .error e → s.fetchGet h va = .trap s (.denied e .fetch va))) ∧
  (∀ (s : State) (h : Hart),
    (∀ w, h.checked.lookup h.pc = some w → s.fetchGet h h.pc = .word s w) ∧
    (∀ u w, s.fetchGet h h.pc = .word u w →
      (w.toNat < 0x38 * 2 ^ 26 ∨ 0x3F * 2 ^ 26 ≤ w.toNat → s.fetchInsn h = .insn u w 0) ∧
      (0x38 * 2 ^ 26 ≤ w.toNat → w.toNat < 0x3F * 2 ^ 26 →
        (∀ y v, u.fetchGet h (h.pc + 4) = .word y v → s.fetchInsn h = .insn y w v) ∧
        (∀ y t, u.fetchGet h (h.pc + 4) = .trap y t → s.fetchInsn h = .trap y t)))) ∧
  (∀ (s t : State) (i : Instr), s.input? = some i → exec i { s with inputs := s.inputs.drop 1 } = .next t → step s = .next (ended t.unstall))

/-- No step stops the machine: whatever the state, a step answers a next state. -/
def Obligations.StepNeverStops : Prop := ∀ s : State, ∃ t, step s = .next t

/-- Every step keeps the canonical form of memory. -/
def Obligations.StepKeepsMemory : Prop := ∀ s t : State, Inv s → step s = .next t → Inv t

/-- Decoding and encoding agree (R47, R52, R55, R62, R75): the words of every well-formed instruction decode to it, and whatever decodes to an
instruction is its words. -/
def Obligations.EncodeDecode : Prop :=
  (∀ (i : Instr) (w v : Half), wf i = true → encode i = [w] → decodeWords w v = .ok i) ∧
  (∀ (i : Instr) (w v : Half), wf i = true → encode i = [w, v] → decodeWords w v = .ok i) ∧
  (∀ (i : Instr) (w v : Half), decodeWords w v = .ok i → wf i = true ∧ (encode i = [w] ∨ encode i = [w, v]))

/-- The words of Table 3.13, and one word of each kind put together from the fields of its format (Tables 2.1 to 2.4, 3.1 to 3.12). -/
def Obligations.DecodedWords : Prop :=
  insnOf 0xD0000002 0 = some .exit ∧
  insnOf 0x854C5F40 0 = some (.amoadd_d 10 12 11 .acqRel .system) ∧
  insnOf 0x854C5F80 0 = none ∧
  insnOf 0x90611083 0 = some (.fdiv 3 1 2 true .dyn) ∧
  insnOf 0x90000105 0 = none ∧
  insnOf 0xA0000000 0 = none ∧
  insnOf 0xF8000000 0 = some (.vdef 0 0 0) ∧
  insnOf 0xDC400002 0 = some (.hintClass 2) ∧
  insnOf (0x01#6 ++ 3#5 ++ 4#5 ++ 5#5 ++ 0x000#11) 0 = some (.add 3 4 5) ∧
  insnOf (0x1F#6 ++ 7#5 ++ 2#5 ++ 0xFFF8#16) 0 = some (.std 7 2 0xFFF8) ∧
  insnOf (0x10#6 ++ 1#5 ++ 2#5 ++ 0x0003#16) 0 = some (.beq 1 2 3) ∧
  insnOf (0x17#6 ++ 0x3FFFFFF#26) 0 = some (.call 0x3FFFFFF) ∧
  insnOf (0x0E#6 ++ 9#5 ++ 0x1FFFFF#21) 0 = some (.lup 9 0x1FFFFF) ∧
  insnOf (0x2C#6 ++ 5#5 ++ 6#5 ++ 0x101#12 ++ 2#4) 0 = some (.csrset 5 6 0x101) ∧
  insnOf (0x31#6 ++ 0#10 ++ 3#2 ++ 4#3 ++ 0#3 ++ 0x81#8) 0 = some (.rfence .acqRel .package 0x81) ∧
  insnOf (0x38#6 ++ 1#5 ++ 2#5 ++ 3#5 ++ 0#5 ++ 7#3 ++ 4#3) (0x0010#16 ++ 0#6 ++ 0#1 ++ 0#3 ++ 0#1 ++ 0#1 ++ 3#4) =
    some (.vadd { vd := 1, vs1 := 2, src2 := .vec 3, k := 7, fmt := .i32, hint := 3 }) ∧
  insnOf (0x3A#6 ++ 1#5 ++ 2#5 ++ 0#5 ++ 0#5 ++ 0#3 ++ 2#3) (0x0000#16 ++ 0x7FF#11 ++ 1#1 ++ 0#4) =
    some (.vld { v := 1, base := 2, k := 0, fmt := .f32, off := 0x7FF, hint := 0 }) ∧
  insnOf (0x3C#6 ++ 1#5 ++ 2#5 ++ 3#5 ++ 0#5 ++ 0#3 ++ 0#3) (0x0010#16 ++ 0#6 ++ 0#1 ++ 1#3 ++ 0#1 ++ 1#1 ++ 0#4) =
    some (.mopa { md := 1, vs1 := 2, vs2 := 3, fmt := .f16, rm := .rne, hint := 0 }) ∧
  insnOf (0x3D#6 ++ 1#5 ++ 2#5 ++ 3#5 ++ 4#5 ++ 63#6) (0x0000#16 ++ 0#11 ++ 0#1 ++ 0#4) =
    some (.cpy { xd := 1, dst := 2, src := 3, len := 4, dlv := .barrier 63, hint := 0 }) ∧
  insnOf (0x3E#6 ++ 0#5 ++ 2#5 ++ 3#5 ++ 4#5 ++ 0#6) (0x0003#16 ++ 0#11 ++ 1#1 ++ 0#4) = some (.tlbinv 2 3 4 true 0)

/-- The integer family (R121 to R126): a result that the stack limit lets pass is written, and nothing else changes but the pc
and the counts of a retirement.
R135: a write of x2 below stklim at T traps STACK_LIMIT, with the value in eaddr and word 0 in einfo; x2 keeps its value. -/
def Obligations.IntegerResults : Prop :=
  (∀ (s : State) (h : Hart) (i : Instr) (d : Reg) (v : Word), intValue h i = some (d, v) → Ready s h i → ¬ limited h d v →
      exec i s = .next (done s h i fun g => g.setX d v)) ∧
  (∀ (s : State) (h : Hart) (i : Instr) (d : Reg) (v : Word), intValue h i = some (d, v) → Ready s h i → limited h d v →
      exec i s = .next (trapped s h (.scalar 0x0A (word0 i) v)))

/-- R128: a branch of majors 0x10 to 0x15 goes to PC + sext(off16) × 4 where its condition holds, and on otherwise; every class executes it.
R129: j and call go to PC + sext(off26) × 4, whatever stands there, and call writes the address of the next instruction to x1. -/
def Obligations.Branches : Prop :=
  (∀ (s : State) (h : Hart) (i : Instr) (c : Prop) (off : BitVec 16), branchOf h i = some (c, off) → Ready s h i →
      (c → exec i s = .next (jumped s h i id (h.pc + off.signExtend 64 * 4))) ∧ (¬ c → exec i s = .next (done s h i id))) ∧
  (∀ (s : State) (h : Hart) (off : BitVec 26),
      (Ready s h (.j off) → exec (.j off) s = .next (jumped s h (.j off) id (h.pc + off.signExtend 64 * 4))) ∧
      (Ready s h (.call off) →
        exec (.call off) s = .next (jumped s h (.call off) (fun g => g.setX 1 (h.pc + 4)) (h.pc + off.signExtend 64 * 4)))) ∧
  (∀ (h : Hart) (c : Cls) (a b : Reg) (off : BitVec 16) (far : BitVec 26),
      let x := h.getX a
      let y := h.getX b
      let word := fun major : BitVec 6 => [major ++ BitVec.ofNat 5 a.val ++ BitVec.ofNat 5 b.val ++ off]
      (branchOf h (.beq a b off) = some (x = y, off) ∧ encode (.beq a b off) = word 0x10 ∧ implements c (.beq a b off) = true) ∧
      (branchOf h (.bne a b off) = some (x ≠ y, off) ∧ encode (.bne a b off) = word 0x11 ∧ implements c (.bne a b off) = true) ∧
      (branchOf h (.blt a b off) = some (x.toInt < y.toInt, off) ∧ encode (.blt a b off) = word 0x12 ∧ implements c (.blt a b off) = true) ∧
      (branchOf h (.bge a b off) = some (y.toInt ≤ x.toInt, off) ∧ encode (.bge a b off) = word 0x13 ∧ implements c (.bge a b off) = true) ∧
      (branchOf h (.bltn a b off) = some (x.toNat < y.toNat, off) ∧ encode (.bltn a b off) = word 0x14 ∧ implements c (.bltn a b off) = true) ∧
      (branchOf h (.bgen a b off) = some (y.toNat ≤ x.toNat, off) ∧ encode (.bgen a b off) = word 0x15 ∧ implements c (.bgen a b off) = true) ∧
      (encode (.j far) = [0x16#6 ++ far] ∧ implements c (.j far) = true) ∧ (encode (.call far) = [0x17#6 ++ far] ∧ implements c (.call far) = true))

/-- R147, R149: a load reads the bytes that the hart's die sees, least significant first, widens them and writes its register;
memory and every other register keep their values. (It meets no copy, and no store of its own that is still in the store path, log 20.) -/
def Obligations.Loads : Prop :=
  ∀ (s : State) (h : Hart) (i : Instr) (d : Reg) (va : Word) (n : Nat) (ext : Nat → Word) (x : Xlat),
    loadOf h i = some (d, va, n, ext) → Ready s h i → va.toNat % n = 0 → s.access h.ctx va .load = .ok x → s.scalarLocked h va n = false →
    h.pathHolds x.pa n = false → AtHand s h x n false →
    ∃ t g, exec i s = .next t ∧ t.hart? h.key = some g ∧ (d ≠ 0 → g.getX d = ext (leNat (s.view (h.via x) x.pa n))) ∧
      HartKept h g i [d] ∧ OthersAlike s t h.key ∧ MemKept s t

/-- R147, R150: a store writes the low bytes of its register, least significant first, at the address that its page gives, and
nothing else of memory. (It does not stay in the store path, log 20, and no older read of the hart is still to come for its bytes, R286.) -/
def Obligations.Stores : Prop :=
  ∀ (s : State) (h : Hart) (i : Instr) (va : Word) (n : Nat) (v : Word) (x : Xlat),
    storeOf h i = some (va, n, v) → Inv s → Ready s h i → va.toNat % n = 0 → s.access h.ctx va .store = .ok x → s.scalarLocked h va n = false →
    s.storeWaits h va n = false → h.key.part ≠ 16 → s.deadAt x.pa = none → WriteAtOnce s h x →
    ∃ t g, exec i s = .next t ∧ t.hart? h.key = some g ∧ (∀ j, j < n → Mem.get t.mem (x.pa + j) = (v >>> (8 * j)).setWidth 8) ∧
      g.path = [] ∧ HartKept h g i [] ∧ OthersKeptButResv s t h.key ∧ MemKeptBut s t x.pa n

/-- R157, R158: an atomic reads memory, writes what its operation gives at once, and leaves the old value in its register. -/
def Obligations.Atomics : Prop :=
  ∀ (s : State) (h : Hart) (i : Instr) (d : Reg) (va : Word) (n : Nat) (o : Order) (sc : Scope) (p : Option (AtomicKind × Nat × Nat))
    (f : Nat → Option Nat) (x : Xlat),
    atomOf h i = some (d, va, n, o, sc, p, f) → Inv s → Ready s h i → va.toNat % n = 0 → s.access h.ctx va .atomic = .ok x →
    h.sent = false → s.rmwWaits h va x.pa n = false → h.key.part ≠ 16 → s.hostWrites = [] → Released s h o sc → AtHand s h x n true →
    let old := leNat ((s.renew (h.via x) x.pa).view (h.via x) x.pa n)
    (x.pa % n = 0 → old = s.readNat x.pa n) ∧
    ∃ t g, exec i s = .next t ∧ t.hart? h.key = some g ∧ (d ≠ 0 → g.getX d = widen n old) ∧ HartKept h g i [d] ∧ OthersKeptButResv s t h.key ∧
      match f old with
      | some v => (∀ j, j < n → Mem.get t.mem (x.pa + j) = BitVec.ofNat 8 (v / 256 ^ j)) ∧ MemKeptBut s t x.pa n
      | none => MemKept s t

/-- R163 to R166: to host memory in PCIe mode an atomic that has an AtomicOp sends it with its operands and waits; until its completion comes it stays where it
is, and no check is made again; then the register takes the value that the host held, or the instruction traps with the completion's reason, and REMOTE_DEAD where the
port dies first. Any other atomic traps SYS_ATOMIC_UNSUPPORTED with REASON 0x20, and one that the port does not let out, with 0x21. -/
def Obligations.PcieAtomics : Prop :=
  ∀ (s : State) (h : Hart) (i : Instr) (d : Reg) (va : Word) (n : Nat) (o : Order) (sc : Scope) (p : Option (AtomicKind × Nat × Nat))
    (f : Nat → Option Nat), atomOf h i = some (d, va, n, o, sc, p, f) → Ready s h i →
    let info := fun reason : BitVec 32 => (word0 i).setWidth 32 ++ reason
    (∀ (x : Xlat) (port : Fin 2), va.toNat % n = 0 → s.access h.ctx va .atomic = .ok x → placeOf x.pa = .host port → s.ports[port].cxl = false →
      (∀ kind a b, p = some (kind, a, b) → s.ports[port].atomicEnable = true → s.rmwWaits h va x.pa n = false → s.deadAt x.pa = none →
        h.req = .none → s.silentAt x.pa = false → Released s h o sc →
        ∃ t g, exec i s = .next t ∧ t.hart? h.key = some g ∧ g.req = .atomicOp x.pa port n kind a b ∧ g.stall = true ∧ g.pc = h.pc ∧ MemKept s t ∧
          t.out = s.out ++ [.pcieAtomic port.val x.pa n kind a b]) ∧
      (h.sent = false → h.level = .t ∨ h.queue = [] →
        (p = none → exec i s = .next (trapped s h (.scalar 0x10 (info 0x20) va))) ∧
        (p ≠ none → s.ports[port].atomicEnable = false → exec i s = .next (trapped s h (.scalar 0x10 (info 0x21) va))))) ∧
    (∀ pa port m kind a b, h.req = .atomicOp pa port m kind a b →
      (s.deadAt pa = none → exec i s = .next (s.modHart h.key fun g => { g with stall := true })) ∧
      (∀ z inc, s.deadAt pa = some (z, inc) → h.level = .t ∨ h.queue = [] → exec i s = .next (trapped s h (.scalar 0x17 (inc.setWidth 64) va)))) ∧
    (∀ pa w, h.req = .atomicDone pa (.ok w) →
      ∃ t g, exec i s = .next t ∧ t.hart? h.key = some g ∧ g.req = .none ∧ (d ≠ 0 → g.getX d = widen n (low n w)) ∧ HartKept h g i [d] ∧ MemKept s t) ∧
    (∀ pa, h.level = .t ∨ h.queue = [] →
      (h.req = .atomicDone pa .unsupported → exec i s = .next (trapped s h (.scalar 0x10 (info 0x01) va))) ∧
      (h.req = .atomicDone pa .abort → exec i s = .next (trapped s h (.scalar 0x11 (info 0x04) va))) ∧
      (h.req = .atomicDone pa .poisoned → exec i s = .next (trapped s h (.scalar 0x11 (info 0x08) va))) ∧
      (h.req = .timedOut pa true → exec i s = .next (trapped s h (.scalar 0x11 (info 0x10) va))))

/-- R159 to R162: ldres loads and reserves its 64-byte sector; stcond under a reservation of its sector stores and answers 0, without one it
stores nothing and answers 1, and either way it ends the reservation. Outside a constrained sequence a reservation whose sector the L1D has
lost is none. To host memory in PCIe mode both trap SYS_ATOMIC_UNSUPPORTED with REASON 0x20 (R163). -/
def Obligations.Reservations : Prop :=
  ∀ (s : State) (h : Hart) (d a b : Reg) (o : Order) (sc : Scope) (wide : Bool) (x : Xlat) (i j : Instr) (n : Nat),
    n = (if wide then 8 else 4) → i = (if wide then .ldres_d d a o sc else .ldres_w d a o sc) →
    j = (if wide then .stcond_d d a b o sc else .stcond_w d a b o sc) → (h.getX a).toNat % n = 0 →
    let mine := h.resv = some (x.pa / 64 * 64) ∧ (h.resvLost = false ∨ h.resvSeq ≠ none)
    (Ready s h i → s.access h.ctx (h.getX a) .load = .ok x → s.scalarLocked h (h.getX a) n = false → h.pathHolds x.pa n = false →
      AtHand s h x n true →
      let v := leNat ((s.renew (h.via x) x.pa).view (h.via x) x.pa n)
      (x.pa % n = 0 → h.key.part ≠ 16 → v = s.readNat x.pa n) ∧
      ∃ t g, exec i s = .next t ∧ t.hart? h.key = some g ∧ g.resv = some (x.pa / 64 * 64) ∧ g.resvLost = false ∧ g.resvSeq = some 0 ∧
        (d ≠ 0 → g.getX d = widen n v) ∧ HartKept h g i [d] ∧ OthersAlike s t h.key ∧ MemKept s t) ∧
    (Ready s h j → Inv s → s.access h.ctx (h.getX a) .store = .ok x → s.rmwWaits h (h.getX a) x.pa n = false → Released s h o sc → mine →
      h.key.part ≠ 16 → s.hostWrites = [] → AtHand s h x n true →
      ∃ t g, exec j s = .next t ∧ t.hart? h.key = some g ∧ g.resv = none ∧ g.getX d = 0 ∧ HartKept h g j [d] ∧ OthersKeptButResv s t h.key ∧
        (∀ m, m < n → Mem.get t.mem (x.pa + m) = (h.getX b >>> (8 * m)).setWidth 8) ∧ MemKeptBut s t x.pa n) ∧
    (Ready s h j → s.access h.ctx (h.getX a) .store = .ok x → s.onPcie x.pa = false → s.rmwWaits h (h.getX a) x.pa n = false →
      Released s h o sc → ¬ mine →
      ∃ t g, exec j s = .next t ∧ t.hart? h.key = some g ∧ g.resv = none ∧ (d ≠ 0 → g.getX d = 1) ∧ HartKept h g j [d] ∧ OthersKept s t h.key ∧
        MemKept s t) ∧
    (h.level = .t ∨ h.queue = [] → s.onPcie x.pa = true →
      (Ready s h i → s.access h.ctx (h.getX a) .load = .ok x →
        exec i s = .next (trapped s h (.scalar 0x10 ((word0 i).setWidth 32 ++ 0x20#32) (h.getX a)))) ∧
      (Ready s h j → s.access h.ctx (h.getX a) .store = .ok x →
        exec j s = .next (trapped s h (.scalar 0x10 ((word0 j).setWidth 32 ++ 0x20#32) (h.getX a)))))

/-- R147: a misaligned scalar access traps MISALIGNED with the address in eaddr, before translation; a translation that fails traps LOAD_PAGE, or STORE_PAGE for what
writes, with the address in eaddr and in einfo, as Table 18.4 lays it out, the reason, whether it writes, and the level at which the walk stopped: an address whose bits
63:56 differ and an asid outside the partition's range stop before a walk (R147, R438, R442); a walk that fails, a page that reaches nothing, and a page that does
not permit the access (Table 18.2, R437) at the level of their entry; then VAULT_FAULT, with its reason and the page's vault index (R152, R155). A fetch that fails reports
the same as FETCH_PAGE. -/
def Obligations.AccessTraps : Prop :=
  (∀ (s : State) (h : Hart) (i : Instr) (va : Word) (n : Nat), addrOf h i = some (va, n) → Ready s h i → h.sent = false → h.level = .t ∨ h.queue = [] →
    let need := needOf h i
    let traps := fun (cause : BitVec 8) (info : Nat) => exec i s = .next (trapped s h (.scalar cause (BitVec.ofNat 64 info) va))
    let page := fun (reason level : Nat) => traps (if need = .load then 0x06 else 0x07) (level + 2 ^ 8 * reason + (if need = .load then 0 else 2 ^ 16))
    let owned := (s.part h.key.part).ownsAsid h.csr.asid
    (va.toNat % n ≠ 0 → traps 0x04 0) ∧
    (va.toNat % n = 0 →
      (va.extractLsb' 56 8 ≠ 0 → va.extractLsb' 56 8 ≠ 0xFF → page 2 0xFF) ∧
      (h.level ≠ .m → canonical va = true →
        (owned = false → page 0 0xFF) ∧
        (∀ lv, owned = true → s.tlbHit h.ctx (va.toNat % 2 ^ 57) = none →
          s.walk h.ctx (va.toNat % 2 ^ 57) 4 (h.csr.root.toNat * 4096) = .error lv → page 0 lv) ∧
        (∀ e, owned = true → s.tlbHit h.ctx (va.toNat % 2 ^ 57) = some e → s.resolve h.ctx.home (e.ppage + (va.toNat % 2 ^ 57 - e.vpage)) = none →
          page 0 e.level) ∧
        (∀ x, s.translate h.ctx va = .ok x →
          let rd := x.entry.perm.getLsbD 2
          let w := x.entry.perm.getLsbD 3
          let u := x.entry.perm.getLsbD 5
          let may := (need = .load → rd = true) ∧ (need = .store → w = true) ∧ (need = .atomic → rd = true ∧ w = true) ∧ (h.level = .t → u = true)
          (¬ may → page 1 x.entry.level) ∧
          (may → s.cached x.pa = true → x.vault ≠ 255 →
            ((s.part h.key.part).vault? x.vault = none → traps 0x08 (256 * x.vault.toNat)) ∧
            (∀ v, (s.part h.key.part).vault? x.vault = some v →
              (v.state = .dropping → traps 0x08 (1 + 256 * x.vault.toNat)) ∧
              (v.state ≠ .dropping → need ≠ .load → v.write = 3 → traps 0x08 (2 + 256 * x.vault.toNat)))))))) ∧
  (∀ (s : State) (h : Hart) (va : Word) (reason level : Nat), h.checked.lookup va = none → s.codeFailed h va = none →
    s.access h.ctx va .fetch = .error (.page reason level) →
    s.fetchGet h va = .trap s (.scalar 0x05 (BitVec.ofNat 64 (level + 256 * reason)) va))

/-- R130 to R132: jx, callx and ret go to a target that is a multiple of 4, and jx and callx pass the landing check where that applies; callx writes
its link; land only moves the pc on. The first ret after a delegated trap of a queued instruction puts what it held back into the queue (R450), at the positions of the
queue (log 75, DEDUCED).
R130, R131, R134: an indirect jump, ret among them, to an address that is no multiple of 4 traps MISALIGNED with the target in eaddr; at T with
cfien set one to a word that is no land traps LANDING; the link register keeps its value. A word that passes is the next one that executes. -/
def Obligations.IndirectJumps : Prop :=
  (∀ (s : State) (h : Hart) (d a : Reg), h.getX a &&& 3 = 0 →
      (Ready s h (.jx a) → h.csr.cfien = false ∨ h.level ≠ .t → exec (.jx a) s = .next (jumped s h (.jx a) id (h.getX a))) ∧
      (Ready s h (.callx d a) → h.csr.cfien = false ∨ h.level ≠ .t →
        exec (.callx d a) s = .next (jumped s h (.callx d a) (fun g => g.setX d (h.pc + 4)) (h.getX a))) ∧
      (∀ u, h.csr.cfien = true → h.level = .t → s.fetchGet h (h.getX a) = .word u 0x34000003 →
        (Ready s h (.jx a) → exec (.jx a) s =
          .next (jumped u h (.jx a) (fun g => { g with checked := (h.getX a, 0x34000003) :: g.checked }) (h.getX a))) ∧
        (Ready s h (.callx d a) → exec (.callx d a) s =
          .next (jumped u h (.callx d a) (fun g => Hart.setX { g with checked := (h.getX a, 0x34000003) :: g.checked } d (h.pc + 4)) (h.getX a)))) ∧
      (Ready s h (.ret a) → h.held = .none ∨ h.level ≠ .t → exec (.ret a) s = .next (jumped s h (.ret a) id (h.getX a))) ∧
      (∀ es, Ready s h (.ret a) → h.level = .t → h.held = .queue es → h.queue = [] → h.cls.code = h.heldCls.toNat →
        exec (.ret a) s = .next (jumped s h (.ret a) (fun g =>
          { g with queue := g.queue ++ (es.map Entry.saved).zipIdx.map fun (y : Entry × Nat) => { y.1 with place := g.queue.length + y.2 }, held := .none,
                   imgHeld := 0 }) (h.getX a)))) ∧
  (∀ (s : State) (h : Hart) (a : Reg), Ready s h (.ret a) → h.level = .t ∨ h.queue = [] → h.getX a &&& 3 ≠ 0 →
      exec (.ret a) s = .next (trapped s h (.scalar 0x04 0 (h.getX a)))) ∧
  (∀ (s : State) (h : Hart), Ready s h .land → exec .land s = .next (done s h .land id)) ∧
  (∀ (s : State) (h : Hart) (d a : Reg) (i : Instr), i = .jx a ∨ i = .callx d a → Ready s h i → h.level = .t ∨ h.queue = [] →
      (h.getX a &&& 3 ≠ 0 → exec i s = .next (trapped s h (.scalar 0x04 0 (h.getX a)))) ∧
      (h.getX a &&& 3 = 0 → h.csr.cfien = true → h.level = .t →
        (∀ u w, s.fetchGet h (h.getX a) = .word u w → w ≠ 0x34000003 →
          exec i s = .next (trapped u h (.scalar 0x0B (w.setWidth 64) (h.getX a)))) ∧
        (∀ u t, s.fetchGet h (h.getX a) = .trap u t → exec i s = .next (trapped u h { t with addr := h.getX a }))))

/-- R168 to R172: the scalar floating-point family. The result is boxed, and the flags gather in fcsr. -/
def Obligations.FloatResults : Prop :=
  ∀ (s : State) (h : Hart) (i : Instr), Ready s h i →
    (∀ d f b fl, fpValue h i = some (d, f, b, fl) →
      exec i s = .next (done s h i fun g => { g.setF d (box f b) with csr := { g.csr with fcsr := g.csr.fcsr ||| fl } })) ∧
    (∀ d v fl, fxValue h i = some (d, v, fl) →
      exec i s = .next (done s h i fun g => { g.setX d v with csr := { g.csr with fcsr := g.csr.fcsr ||| fl } })) ∧
    (∀ d a, i = .fmvf d a → exec i s = .next (done s h i fun g => g.setF d (h.getX a)))

/-- R323: a CSR that is assigned is read; a write gives its fields their new values and returns the old value.
R323: a CSR number without a register, and a write of a read-only one, trap ILLEGAL_INSN.
Tables 1.3, 1.4 and 22.4, with the layouts of Tables 1.5 to 1.9, 10.9, 17.2, 18.6 and 18.10: what each number reads as, and what a write leaves in it: reserved bits
read 0 and take nothing, evec and uvec lose bits 1:0, estatus takes PP unless it is 3, the mode of fcsr and vfcsr stays where 6 or 7 is written, vstart stops at 512,
OVF of fqctl is cleared by a 1, vown takes the writer's own identity or leaves its slot without owner (R453), and mfreq takes steps of 100 between 800 and the clamp (R506). -/
def Obligations.CsrInstructions : Prop :=
  ((∀ (s : State) (h : Hart) (i : Instr), Ready s h i →
      (∀ d n v, i = .csrrd d n → csrRead s h n = some v → csrReadWaits n = false ∨ h.queue = [] →
        exec i s = .next (done s h i fun g => g.setX d v)) ∧
      (∀ d n f c old, csrOf h i = some (d, n, f, c) → csrRead s h n = some old → csrWriteWaits n = false ∨ h.queue = [] →
        exec i s = .next (done (csrWrite s h n (f old) c) h i fun g => g.setX d old))) ∧
  (∀ (s : State) (h : Hart) (i : Instr), Ready s h i → h.level = .t ∨ h.queue = [] →
      (∀ d n, i = .csrrd d n → csrRead s h n = none → exec i s = .next (trapped s h (.illegal i))) ∧
      (∀ d n f c, csrOf h i = some (d, n, f, c) → csrRead s h n = none → exec i s = .next (trapped s h (.illegal i)))) ∧
  (∀ (s : State) (h : Hart) (i : Instr) (d : Reg) (n : BitVec 12) (f : Word → Word) (c : Word), csrOf h i = some (d, n, f, c) →
      s.curHart? = some h → s.featureOn i = true → minLevel i ≤ h.level.code.toNat → csrReadOnly n = true → h.level = .t ∨ h.queue = [] →
      exec i s = .next (trapped s h (.illegal i))) ∧
  (∀ n : BitVec 12, csrReadOnly n = true ↔ n.toNat ∈ [0x001, 0x002, 0x004, 0x005, 0x006, 0x007, 0x010, 0x011, 0x012, 0x013, 0x014, 0x015, 0x016, 0x029,
      0x02A, 0x030, 0x031, 0x10D, 0x202, 0x203, 0x204])) ∧
  (∀ (s : State) (h : Hart),
    let bit := fun b : Bool => BitVec.ofBool b
    let c := h.csr
    let p := s.part h.key.part
    csrRead s h 0x000 = some (c.fcsr.setWidth 64) ∧ csrRead s h 0x001 = some (c.vl.setWidth 64) ∧ csrRead s h 0x002 = some (c.vtype.setWidth 64) ∧
    csrRead s h 0x003 = some (c.vstart.setWidth 64) ∧ csrRead s h 0x004 = some (c.mvl.setWidth 64) ∧
    csrRead s h 0x005 = some (0#55 ++ bit c.mm ++ 0#4 ++ c.tfmt) ∧ csrRead s h 0x006 = some (BitVec.ofNat 64 h.queue.length) ∧
    csrRead s h 0x007 = some (match h.cls with | .mastiff => 0 | .hound => 128 | .whippet => 32) ∧ csrRead s h 0x008 = some (c.vfcsr.setWidth 64) ∧
    csrRead s h 0x010 = some c.tick ∧ csrRead s h 0x011 = some (BitVec.ofNat 64 s.time) ∧ csrRead s h 0x012 = some (BitVec.ofNat 64 h.key.id) ∧
    (h.core < 848 → csrRead s h 0x013 = some (0#42 ++ BitVec.ofNat 2 (clusterInDie h.core) ++ 0#1 ++ BitVec.ofNat 3 (dieOf h.core) ++ 0#6 ++ BitVec.ofNat 10 h.core)) ∧
    csrRead s h 0x014 = some (match h.cls with | .mastiff => 0x0000 | .hound => 0x0401 | .whippet => 0x1002) ∧ csrRead s h 0x015 = some h.taskWord ∧
    csrRead s h 0x016 = some (BitVec.ofNat 64 h.key.part.val) ∧ csrRead s h 0x020 = some c.uvec ∧ csrRead s h 0x021 = some (c.ucause.setWidth 64) ∧
    csrRead s h 0x022 = some c.uepc ∧ csrRead s h 0x023 = some c.uinfo ∧ csrRead s h 0x024 = some c.uaddr ∧ csrRead s h 0x025 = some c.stklim ∧
    csrRead s h 0x026 = some c.eptlim ∧ csrRead s h 0x027 = some (0#63 ++ bit c.cfien) ∧ csrRead s h 0x028 = some c.udeleg ∧
    (h.eng.mbx.length ≤ 64 → h.eng.spill.length ≤ 1024 →
      csrRead s h 0x029 = some (0#37 ++ BitVec.ofNat 11 h.eng.spill.length ++ 0#7 ++ bit h.eng.ovf ++ 0#1 ++ BitVec.ofNat 7 h.eng.mbx.length)) ∧
    csrRead s h 0x02A = some c.migcount ∧ csrRead s h 0x030 = some (0#58 ++ (s.featReq ||| 1)) ∧ csrRead s h 0x031 = some 0x1000E ∧
    csrRead s h 0x100 = some (0#56 ++ bit c.qtrap ++ 0#1 ++ c.pp ++ bit c.pie ++ bit c.ie ++ h.level.code) ∧ csrRead s h 0x101 = some c.evec ∧
    csrRead s h 0x102 = some (c.ecause.setWidth 64) ∧ csrRead s h 0x103 = some c.epc ∧ csrRead s h 0x104 = some c.einfo ∧ csrRead s h 0x105 = some c.eaddr ∧
    csrRead s h 0x106 = some c.escratch ∧ csrRead s h 0x107 = some (c.asid.setWidth 64) ∧ csrRead s h 0x108 = some (0#8 ++ c.root ++ 0#12) ∧
    (∀ i, h.sched.slot = some i → csrRead s h 0x109 = some ((s.slot i).hart ++ 0#15 ++ bit (s.slot i).valid ++ 0#6 ++ (s.slot i).asid)) ∧
    csrRead s h 0x10A = some (0#62 ++ bit c.fix ++ bit c.pin) ∧ csrRead s h 0x10B = some (0#63 ++ bit c.step) ∧
    csrRead s h 0x10C = some (0#8 ++ p.fq.base ++ p.fq.sizeLog ++ 0#5 ++ bit p.fq.ovf ++ bit p.fq.irq ++ bit p.fq.en) ∧
    csrRead s h 0x10D = some (0#16 ++ p.ctl.quantum ++ 0#8 ++ p.ctl.weight ++ 0#1 ++ p.ctl.clusters) ∧ csrRead s h 0x200 = some s.misland ∧
    (∀ n : Fin 24, s.misland.toNat = n.val → csrRead s h 0x201 = some (BitVec.ofNat 64 (s.islands[n]).freq)) ∧
    csrRead s h 0x202 = some (BitVec.ofNat 64 s.power) ∧ (∀ d : Fin 6, dieOf h.core = d.val → csrRead s h 0x203 = some s.mecc[d]) ∧
    csrRead s h 0x204 = some (0#16 ++ s.limit.violations ++ 0#15 ++ bit s.limit.locked) ∧
    (∀ n : BitVec 12, n.toNat ∉ List.range 0x009 ++ (List.range 7).map (0x010 + ·) ++ (List.range 11).map (0x020 + ·) ++ [0x030, 0x031] ++
      (List.range 14).map (0x100 + ·) ++ (List.range 5).map (0x200 + ·) → csrRead s h n = none)) ∧
  (∀ (s : State) (h : Hart) (w clear : Word), s.hart? h.key = some h →
    let c := h.csr
    let leaves := fun (n : BitVec 12) (k : Csrs) => (csrWrite s h n w clear).hart? h.key = some { h with csr := k } ∧ MemKept s (csrWrite s h n w clear) ∧
      OthersKept s (csrWrite s h n w clear) h.key
    let fp := fun old : BitVec 9 => w.extractLsb' 4 5 ++ 0#1 ++ (if w.extractLsb' 0 3 = 6#3 ∨ w.extractLsb' 0 3 = 7#3 then old.extractLsb' 0 3 else w.extractLsb' 0 3)
    leaves 0x000 { c with fcsr := fp c.fcsr } ∧ leaves 0x008 { c with vfcsr := fp c.vfcsr } ∧
    leaves 0x003 { c with vstart := if w.toNat < 512 then w.extractLsb' 0 10 else 512 } ∧
    leaves 0x020 { c with uvec := w &&& ~~~ 3#64 } ∧ leaves 0x021 { c with ucause := w.extractLsb' 0 8 } ∧ leaves 0x022 { c with uepc := w } ∧
    leaves 0x023 { c with uinfo := w } ∧ leaves 0x024 { c with uaddr := w } ∧ leaves 0x025 { c with stklim := w } ∧ leaves 0x026 { c with eptlim := w } ∧
    leaves 0x027 { c with cfien := w.getLsbD 0 } ∧ leaves 0x028 { c with udeleg := 0#46 ++ w.extractLsb' 15 3 ++ 0#3 ++ w.extractLsb' 10 2 ++ 0#10 } ∧
    leaves 0x100 { c with ie := w.getLsbD 2, pie := w.getLsbD 3, pp := if w.extractLsb' 4 2 = 3#2 then c.pp else w.extractLsb' 4 2, qtrap := w.getLsbD 7 } ∧
    leaves 0x101 { c with evec := w &&& ~~~ 3#64 } ∧ leaves 0x102 { c with ecause := w.extractLsb' 0 8 } ∧ leaves 0x103 { c with epc := w } ∧
    leaves 0x104 { c with einfo := w } ∧ leaves 0x105 { c with eaddr := w } ∧ leaves 0x106 { c with escratch := w } ∧
    leaves 0x107 { c with asid := w.extractLsb' 0 10 } ∧ leaves 0x108 { c with root := w.extractLsb' 12 44 } ∧
    leaves 0x10A { c with pin := w.getLsbD 0, fix := w.getLsbD 1 } ∧ leaves 0x10B { c with step := w.getLsbD 0 } ∧
    ((csrWrite s h 0x10C w clear).part h.key.part).fq =
      { base := w.extractLsb' 12 44, sizeLog := if (w.extractLsb' 8 4).toNat < 4 then 4 else w.extractLsb' 8 4,
        ovf := (s.part h.key.part).fq.ovf && !clear.getLsbD 2, irq := w.getLsbD 1, en := w.getLsbD 0 } ∧
    (∀ i, h.sched.slot = some i →
      let t := csrWrite s h 0x109 w clear
      let own := (w.extractLsb' 32 32).toNat = h.key.id ∧ w.extractLsb' 0 10 = c.asid
      (w.getLsbD 16 = true → ¬ own → t = s) ∧
      (w.getLsbD 16 = true → own → (t.slot i).valid = true ∧ (t.slot i).hart = w.extractLsb' 32 32 ∧ (t.slot i).asid = c.asid ∧ (t.slot i).owner = h.key.part ∧
        (t.slot i).vValid = 0 ∧ (t.slot i).kValid = 0 ∧ (t.slot i).mValid = 0) ∧
      (w.getLsbD 16 = false → (t.slot i).valid = false ∧ (t.slot i).hart = w.extractLsb' 32 32 ∧ (t.slot i).asid = w.extractLsb' 0 10)) ∧
    (csrWrite s h 0x200 w clear).misland = (if w.toNat < 24 then w else s.misland) ∧
    (∀ n : Fin 24, s.misland.toNat = n.val → ((csrWrite s h 0x201 w clear).islands[n]).mhz =
      min (if (s.islands[n]).clamped then 800 else 3300) (max 800 (w.toNat / 100 * 100))))

/-- R28, R325: a trap taken at S saves the cause, the pc, einfo and eaddr; estatus takes the old level in PP and the old IE in PIE, and IE
becomes 0; the hart goes on at S at evec. Only a STEP keeps the reservation (R161), unless the image of the queue is written over its sector; that a trapping stcond ends it
too, where R160 says that such a trap leaves it, is log 33 (DEDUCED). No x or f register changes.
R325: with evec 0 the partition of the hart is terminated, and the cause and the pc are reported. -/
def Obligations.TrapEntry : Prop :=
  (∀ (s : State) (h : Hart) (t : Trap), s.hart? h.key = some h → h.csr.evec ≠ 0 →
      ∃ g, (s.trapS h.key t).hart? h.key = some g ∧ g.pc = h.csr.evec ∧ g.level = .s ∧ g.csr.ecause = t.cause ∧ g.csr.epc = h.pc ∧
        g.csr.einfo = t.info ∧ g.csr.eaddr = t.addr ∧ g.csr.pp = h.level.code ∧ g.csr.pie = h.csr.ie ∧ g.csr.ie = false ∧
        g.csr.qtrap = t.queued ∧ (t.cause ≠ 0x0D → g.resv = none) ∧ (t.cause = 0x0D →
          (∀ a r, h.level = .t → h.area = some a → h.resv = some r →
            r + 64 ≤ a + 0x800 ∨ a + 0x840 + 48 * ((s.heldEntries h).length + h.queue.length) ≤ r) → g.resv = h.resv) ∧ g.x = h.x ∧ g.f = h.f ∧
        (h.level = .t → h.area ≠ none → g.queue = [] ∧ g.xpend = 0 ∧ g.fpend = 0)) ∧
  (∀ (s : State) (h : Hart) (t : Trap), s.hart? h.key = some h → h.csr.evec = 0 →
      (s.trapS h.key t).out = (s.endPart h.key.part).out ++ [.terminated h.key.part.val t.cause h.pc] ∧
      (s.trapS h.key t).hart? h.key = none)

/-- R136: a trap is delegated at T, with its bit of udeleg 1 and uvec not 0, where its cause is one of 0x0A, 0x0B, 0x0F, 0x10 and 0x11; any other trap, and
one raised at S, goes to S. R137: a delegated trap writes the u CSRs and goes to uvec at T; the S-level CSRs keep their values. R139, R458: with single step on, a STEP is due after it. -/
def Obligations.DelegatedTrap : Prop :=
  (∀ (h : Hart) (c : BitVec 8), h.delegates c = true ↔ h.level = .t ∧ h.csr.udeleg.getLsbD c.toNat = true ∧ h.csr.uvec ≠ 0 ∧
    (c = 0x0A ∨ c = 0x0B ∨ c = 0x0F ∨ c = 0x10 ∨ c = 0x11)) ∧
  (∀ (s : State) (h : Hart) (t : Trap), s.hart? h.key = some h → h.delegates t.cause = false → s.trap h.key t = s.trapS h.key t) ∧
  ∀ (s : State) (h : Hart) (t : Trap), s.hart? h.key = some h → h.level = .t → h.csr.uvec ≠ 0 → h.csr.udeleg.getLsbD t.cause.toNat = true →
    t.cause = 0x0A ∨ t.cause = 0x0B ∨ t.cause = 0x0F ∨ t.cause = 0x10 ∨ t.cause = 0x11 →
    ∃ g, (s.trap h.key t).hart? h.key = some g ∧ g.pc = h.csr.uvec ∧ g.level = .t ∧
      g.csr = { h.csr with ucause := t.cause, uepc := h.pc, uinfo := t.info, uaddr := t.addr } ∧ g.x = h.x ∧ g.f = h.f ∧ g.queue = h.queue ∧
      (h.csr.step = false → g.sched.stepDue = none) ∧ (h.csr.step = true → g.sched.stepDue = some (h.stepInfo t))

/-- R23: the checks before an instruction, of which the first that fails decides: strict decode, for an undefined word and for an inactive feature, traps
ILLEGAL_INSN; then a level below the instruction's traps PRIVILEGE; then a write of a wholly RO CSR traps ILLEGAL_INSN (R22, R80); then a class that
lacks it raises a class miss. At T the traps come at once, whatever the queue holds; at S they wait for the handler's own entries (R448). R40: a class miss waits for the
queue to drain; then it traps CLASS_ABSENT under PIN, and else moves the hart to a core whose class has the instruction. -/
def Obligations.ChecksInOrder : Prop :=
  ∀ (s : State) (h : Hart) (i : Instr), s.curHart? = some h →
    let waits := exec i s = .next (s.modHart h.key fun g => { g with stall := true })
    let fails := fun t : Trap => (h.level = .t ∨ h.queue = [] → exec i s = .next (trapped s h t)) ∧ (h.level ≠ .t → h.queue ≠ [] → waits)
    (∀ w0 w1, i = .illegalWord w0 w1 →
      (h.level = .t ∨ h.queue = [] →
        exec i s = .next (s.trap h.key (.scalar 0x01 (if longMajor (w0.extractLsb' 26 6) then w1 ++ w0 else w0.setWidth 64) 0))) ∧
      (h.level ≠ .t → h.queue ≠ [] → waits)) ∧
    (encode i ≠ [] →
      (s.featureOn i = false → fails (.illegal i)) ∧
      (s.featureOn i = true → h.level.code.toNat < minLevel i → fails (.scalar 0x03 (instrWords i) 0)) ∧
      (s.featureOn i = true → minLevel i ≤ h.level.code.toNat →
        (writesReadOnly i = true → fails (.illegal i)) ∧
        (writesReadOnly i = false → implements h.cls i = false →
          (h.queue ≠ [] → exec i s = .next (s.modHart h.key fun g => { g with sched := { g.sched with missed := some i }, stall := true })) ∧
          (h.queue = [] → h.csr.pin = true → exec i s = .next (trapped (s.modHart h.key fun g => g.countMiss i) h (.scalar 0x02 0 0))) ∧
          (h.queue = [] → h.csr.pin = false →
            exec i s = .next ((s.modHart h.key fun g => g.countMiss i).missMove h.key (fun c => implements (clsOf c) i) (some i) .classMiss)))))

/-- R324: ecall at T traps ECALL_T and ebreak traps BREAK; ecall at S with a number that is no firmware call answers −1 in x8.
R324, R449: eret at T, and with PP 2, traps PRIVILEGE with its word in einfo; at S eret goes on at epc, at the level in PP, with IE from PIE; with PP = 1 nothing is re-issued. (That a pc takes bits 63:2 of
epc is DEDUCED, log 19.) -/
def Obligations.CallsAndReturns : Prop :=
  (∀ (s : State) (h : Hart),
    (Ready s h .ecall → h.level = .t → exec .ecall s = .next (trapped s h (.scalar 0x0E 0 0))) ∧
    (Ready s h .ecall → h.level ≠ .t → (h.getX 8).toNat < 0x100 ∨ 0x107 < (h.getX 8).toNat →
      exec .ecall s = .next (done s h .ecall fun g => g.setX 8 (BitVec.allOnes 64))) ∧
    (Ready s h .ebreak → h.level = .t ∨ h.queue = [] →
      exec .ebreak s = .next (trapped s h (.scalar 0x0C 0xB4000001 0)))) ∧
  (∀ (s : State) (h : Hart), Ready s h .eret → s.hart? h.key = some h →
    (h.level = .t ∨ h.csr.pp = 2 ∧ h.queue = [] →
      exec .eret s = .next (trapped s h (.scalar 0x03 0xB4000002 0))) ∧
    (h.level ≠ .t → h.csr.pp = 1 → h.held = .none → h.imgOuter = none → ∃ t g, exec .eret s = .next t ∧ t.hart? h.key = some g ∧ g.pc = h.csr.epc &&& ~~~ 3#64 ∧ g.level = .s ∧
      g.csr.ie = h.csr.pie ∧ g.csr.qtrap = false ∧ g.x = h.x ∧ g.f = h.f ∧ g.queue = h.queue ∧ MemKept s t ∧ OthersKept s t h.key) ∧
    (∀ a, h.level ≠ .t → h.csr.pp = 0 → h.queue = [] → h.area = some a → s.imageCount a = 0 → ∃ t g, exec .eret s = .next t ∧ t.hart? h.key = some g ∧
      g.pc = h.csr.epc &&& ~~~ 3#64 ∧ g.level = .t ∧ g.csr.ie = h.csr.pie ∧ g.csr.qtrap = false ∧ g.x = h.x ∧ g.f = h.f ∧ g.queue = [] ∧
      MemKept s t ∧ OthersKept s t h.key))

/-- R37, R449, R454: eret to T, with an image saved in the context area, re-issues it: the entries go back into the queue in their order, those that a delegated
trap held are held again, the registers of the image become pending, COUNT reads 0, and the hart goes on at epc at T with IE from PIE; with a vector
entry and a vown that does not name the hart nothing is re-issued, and VECTOR_OWNER is taken at S as if at that pc with the oldest such entry's
position; a COUNT above 32 traps ILLEGAL_INSN with QTRAP 1 and position 32, and an image of another class under PIN traps CLASS_ABSENT. A resumption re-issues an image in the same way (R451). -/
def Obligations.ImageReissue : Prop :=
  (∀ (s : State) (h : Hart) (a : Nat), Ready s h .eret → s.hart? h.key = some h → h.level ≠ .t → h.csr.pp = 0 → h.queue = [] → h.area = some a →
    0 < s.imageCount a →
    let pc := h.csr.epc &&& ~~~ 3#64
    let back := fun (cause : BitVec 8) (n : Nat) => ∃ t g, exec .eret s = .next t ∧ t.hart? h.key = some g ∧ g.level = .s ∧ g.pc = h.csr.evec ∧
      g.csr.ecause = cause ∧ g.csr.epc = pc ∧ g.csr.einfo = BitVec.ofNat 64 n ∧ g.csr.eaddr = 0 ∧ g.csr.qtrap = true ∧ g.csr.pp = 0 ∧ g.csr.ie = false ∧
      g.csr.pie = h.csr.pie ∧ g.queue = [] ∧ g.x = h.x ∧ g.f = h.f ∧ MemKept s t
    (s.imageCls a = h.cls.code → s.imageCount a ≤ 32 →
      (Inv s → s.owns h = true ∨ firstVector (s.imageEntries a) = none →
        ∃ t g, exec .eret s = .next t ∧ t.hart? h.key = some g ∧ g.level = .t ∧ g.pc = pc ∧ g.csr.ie = h.csr.pie ∧ g.csr.qtrap = false ∧
          g.queue = (s.imageEntries a).drop h.imgHeld ∧
          g.held = (if h.imgHeld = 0 then .none else .queue ((s.imageEntries a).take h.imgHeld)) ∧ g.xpend = s.imageXpend a ∧ g.fpend = s.imageFpend a ∧
          t.imageCount a = 0 ∧ g.x = h.x ∧ g.f = h.f ∧ MemKeptBut s t (a + 0x800) 1) ∧
      (∀ n, h.csr.evec ≠ 0 → s.owns h = false → firstVector (s.imageEntries a) = some n → back 0x14 n)) ∧
    (s.imageCls a = h.cls.code → 32 < s.imageCount a → h.csr.evec ≠ 0 → back 0x01 32) ∧
    (s.imageCls a ≠ h.cls.code → h.csr.pin = true → exec .eret s = .next (trapped s h (.scalar 0x02 0 0)))) ∧
  (∀ (s : State) (h : Hart) (a : Nat), s.hart? h.key = some h → h.area = some a → h.imgHeld = 0 → 0 < s.imageCount a → s.imageCount a ≤ 32 →
    s.imageCls a = h.cls.code →
    (s.owns h = true ∨ firstVector (s.imageEntries a) = none → Inv s →
      ∃ g, (s.restoreImage h.key).hart? h.key = some g ∧ g.queue = s.imageEntries a ∧ g.xpend = s.imageXpend a ∧ g.fpend = s.imageFpend a ∧
        (s.restoreImage h.key).imageCount a = 0 ∧ g.x = h.x ∧ g.f = h.f) ∧
    (∀ n, s.owns h = false → firstVector (s.imageEntries a) = some n → h.csr.evec ≠ 0 →
      ∃ g, (s.restoreImage h.key).hart? h.key = some g ∧ g.csr.ecause = 0x14 ∧ g.csr.qtrap = true ∧ g.csr.einfo = BitVec.ofNat 64 n ∧
        g.csr.epc = h.pc ∧ g.csr.eaddr = 0 ∧ g.csr.pp = h.level.code ∧ g.level = .s ∧ MemKept s (s.restoreImage h.key)))

/-- R298, R299, R303, R304, R326: a fence completes once what it orders is performed: an acquire once no read of the hart is pending, a release once
nothing of the hart is pending and nothing waits at its scope; xfence and ifence once the accesses of both streams are performed, and after ifence
no line of the core's L1I, no word fetched before and no bytes that a PCIe read has brought before serve a fetch. A fence of slots looks at its slots alone. None changes a
register or memory; a release at a scope that does not wait for a closing region leaves in that region that its die is covered (log 13).
R298, R299: a fence whose condition does not hold yet stays where it is, with no effect but that its hart stalls. -/
def Obligations.Fences : Prop :=
  (∀ (s : State) (h : Hart) (o : Order) (sc : Scope) (m : BitVec 8),
      (Ready s h (.fence .acquire sc) → s.readsPending h = false → exec (.fence .acquire sc) s = .next (done s h (.fence .acquire sc) id)) ∧
      (o = .release ∨ o = .acqRel → Ready s h (.fence o sc) → ordRelease s h sc = none →
        exec (.fence o sc) s = .next (done (s.cover h sc fun _ => true) h (.fence o sc) id)) ∧
      (Ready s h .xfence → s.streamsPending h = false → exec .xfence s = .next (done s h .xfence id)) ∧
      (Ready s h .ifence → s.streamsPending h = false →
        exec .ifence s = .next (done { s with l1i := s.l1i.filter fun e => e.core != h.core, asked := s.asked.filter fun a => !a.here } h .ifence fun g =>
          { g with checked := [] })) ∧
      (Ready s h (.rfence .acquire sc m) → s.slotsPending h (h.fullSlots m) true = false →
        exec (.rfence .acquire sc m) s = .next (done s h (.rfence .acquire sc m) id)) ∧
      (o = .release ∨ o = .acqRel → Ready s h (.rfence o sc m) → s.slotsPending h (h.fullSlots m) false = false →
        (release s h sc fun a => a.slots &&& h.fullSlots m != 0) = none → 
          exec (.rfence o sc m) s = .next (done (s.cover h sc fun a => a.slots &&& h.fullSlots m != 0) h (.rfence o sc m) id))) ∧
  (∀ (s : State) (h : Hart) (sc : Scope), s.hart? h.key = some h →
      (Ready s h (.fence .acquire sc) → s.readsPending h = true → ∃ t, exec (.fence .acquire sc) s = .next t ∧ t.hart? h.key = some { h with stall := true } ∧ MemKept s t) ∧
      (Ready s h .xfence → s.streamsPending h = true → ∃ t, exec .xfence s = .next t ∧ t.hart? h.key = some { h with stall := true } ∧ MemKept s t))

/-- R300, R302: rslot binds a slot to a range once older memory entries have left the queue; a length of 0 empties it; a length above
2^48, a range past 2^64, and a range that is not canonical trap RANGE_SLOT with their reason. rslott binds a slot to the range of a
descriptor's box. What the slot counted before is untagged. While an older memory entry is queued, both wait.
R300, R302: rslot and rslott complete: with no entry that accesses memory in the queue, a range of 1 to 2^48 bytes whose ends are canonical and
which does not pass 2^64, and a length of 0, and a handle whose box lies within the address space, each leave their slot bound as the rule
says, every other slot as it was, nothing counted in the slot any more, and the pc at the next instruction. -/
def Obligations.RangeSlots : Prop :=
  (∀ (s : State) (h : Hart) (n : Fin 8) (a b : Reg),
    (h.memoryDone = true →
      (Ready s h (.rslot n a b) →
        let len := (h.getX b).toNat
        let fits := canonical (h.getX a) = true ∧ canonical (h.getX a + BitVec.ofNat 64 (len - 1)) = true
        (len = 0 → exec (.rslot n a b) s = .next (done (s.setSlot h.key n RangeSlot.empty) h (.rslot n a b) id)) ∧
        (len ≠ 0 → len ≤ 2 ^ 48 → (h.getX a).toNat + len ≤ 2 ^ 64 → fits →
          exec (.rslot n a b) s = .next (done (s.setSlot h.key n { base := h.getX a, len := len, handle := none }) h (.rslot n a b) id)) ∧
        (h.level = .t ∨ h.queue = [] →
          (2 ^ 48 < len → exec (.rslot n a b) s = .next (trapped s h (.scalar 0x15 (BitVec.ofNat 64 (256 * n.val)) (h.getX a)))) ∧
          (len ≠ 0 → len ≤ 2 ^ 48 → 2 ^ 64 < (h.getX a).toNat + len →
            exec (.rslot n a b) s = .next (trapped s h (.scalar 0x15 (BitVec.ofNat 64 (1 + 256 * n.val)) (h.getX a)))) ∧
          (len ≠ 0 → len ≤ 2 ^ 48 → (h.getX a).toNat + len ≤ 2 ^ 64 → ¬ fits →
            exec (.rslot n a b) s = .next (trapped s h (.scalar 0x15 (BitVec.ofNat 64 (2 + 256 * n.val)) (h.getX a)))))) ∧
      (Ready s h (.rslott n a) →
        (∀ d, s.handle h (h.getX a) = .ok d →
          (0 ≤ (d.range 0).1 → (d.range 0).1 + (d.range 0).2 ≤ (2 ^ 64 : Nat) →
            exec (.rslott n a) s = .next (done (s.setSlot h.key n
              { base := BitVec.ofInt 64 (d.range 0).1, len := (d.range 0).2, handle := some ((h.getX a).setWidth 16) }) h (.rslott n a) id)) ∧
          ((d.range 0).1 < 0 ∨ (2 ^ 64 : Nat) < (d.range 0).1 + (d.range 0).2 → h.level = .t ∨ h.queue = [] →
            exec (.rslott n a) s = .next (trapped s h (.scalar 0x15 (BitVec.ofNat 64 (1 + 256 * n.val)) d.base)))) ∧
        (∀ r, s.handle h (h.getX a) = .error r → h.level = .t ∨ h.queue = [] →
          exec (.rslott n a) s = .next (trapped s h (.scalar 0x09 (handleInfo (h.getX a) r) 0))))) ∧
    (h.memoryDone = false →
      (Ready s h (.rslot n a b) → exec (.rslot n a b) s = .next (s.modHart h.key fun g => { g with stall := true })) ∧
      (Ready s h (.rslott n a) → exec (.rslott n a) s = .next (s.modHart h.key fun g => { g with stall := true })))) ∧
  (∀ (s : State) (h : Hart) (n : Fin 8) (a b : Reg), (∀ e, e ∈ h.queue → e.isInsn accessesMemory = false) →
    let completes := fun (i : Instr) (r : RangeSlot) =>
      ∃ t g, exec i s = .next t ∧ t.hart? h.key = some g ∧ g.slots = h.slots.set n r ∧ g.pc = h.pc + BitVec.ofNat 64 (4 * (encode i).length) ∧
        g.x = h.x ∧ g.f = h.f ∧ g.level = h.level ∧ g.queue = h.queue ∧ g.eng = h.eng ∧
        (∀ y, y ∈ g.outst → y.slots.getLsbD n.val = false) ∧ (∀ c, c ∈ t.copies → c.hart = h.key → c.slots.getLsbD n.val = false) ∧
        OthersKept s t h.key ∧ MemKept s t
    (Ready s h (.rslot n a b) → h.getX b = 0 → completes (.rslot n a b) { base := 0, len := 0, handle := none }) ∧
    (Ready s h (.rslot n a b) → h.getX b ≠ 0 → (h.getX b).toNat ≤ 2 ^ 48 → (h.getX a).toNat + (h.getX b).toNat ≤ 2 ^ 64 →
      canonical (h.getX a) = true → canonical (h.getX a + h.getX b - 1) = true →
      completes (.rslot n a b) { base := h.getX a, len := (h.getX b).toNat, handle := none }) ∧
    (∀ d, Ready s h (.rslott n a) → s.handle h (h.getX a) = .ok d → 0 ≤ (d.range 0).1 → (d.range 0).1 + (d.range 0).2 ≤ (2 ^ 64 : Nat) →
      completes (.rslott n a) { base := BitVec.ofInt 64 (d.range 0).1, len := (d.range 0).2, handle := some ((h.getX a).setWidth 16) }))

/-- R306, R308: bar.init arms a block: VALID where COUNT is not 0, ARRIVED 0, PHASE one further; bar.wait goes on without an arrival
record, or once the phase of its record has ended, which removes the record, and waits before, as it does while an arrival of its hart is queued. A block
that is misaligned traps MISALIGNED, and one in host memory SYS_ATOMIC_UNSUPPORTED with REASON 0x22. -/
def Obligations.Barriers : Prop :=
  (∀ (s : State) (h : Hart) (a b : Reg) (sc : Scope) (x : Xlat), s.hart? h.key = some h →
    (h.getX a).toNat % 64 = 0 → s.access h.ctx (h.getX a) .atomic = .ok x → Plain x.pa → s.deadAt x.pa = none → s.silentAt x.pa = false → s.corrupted x.pa = false →
    let free := h.arriving (h.getX a) = false ∧ s.scalarLocked h (h.getX a) 64 = false ∧ h.pathHolds x.pa 64 = false
    (Ready s h (.barInit a b sc) → Inv s → h.key.part ≠ 16 → h.arriving (h.getX a) = false → s.rmwWaits h (h.getX a) x.pa 64 = false →
      s.writeWaits x.pa sc = none → s.hostWrites = [] →
      ∃ t g, exec (.barInit a b sc) s = .next t ∧ t.hart? h.key = some g ∧ HartKept h g (.barInit a b sc) [] ∧
        t.readNat x.pa 4 % 2 = (if (h.getX b).toNat % 2 ^ 32 = 0 then 0 else 1) ∧ t.readNat (x.pa + 4) 4 = (h.getX b).toNat % 2 ^ 32 ∧
        t.readNat (x.pa + 8) 4 = 0 ∧ t.readNat (x.pa + 12) 4 = (s.readNat (x.pa + 12) 4 + 1) % 2 ^ 32 ∧ MemKeptBut s t x.pa 16) ∧
    (Ready s h (.barWait a sc) → free → h.eng.arrivals.lookup (h.getX a) = none →
      ∃ t g, exec (.barWait a sc) s = .next t ∧ t.hart? h.key = some g ∧ HartKept h g (.barWait a sc) [] ∧ MemKept s t) ∧
    (∀ p, Ready s h (.barWait a sc) → free → h.eng.arrivals.lookup (h.getX a) = some p → p ≠ s.phase x.pa →
      ∃ t g, exec (.barWait a sc) s = .next t ∧ t.hart? h.key = some g ∧ g.pc = h.pc + 4 ∧ g.eng.arrivals.lookup (h.getX a) = none ∧ MemKept s t) ∧
    (Ready s h (.barWait a sc) → free → h.eng.arrivals.lookup (h.getX a) = some (s.phase x.pa) →
      ∃ t g, exec (.barWait a sc) s = .next t ∧ t.hart? h.key = some g ∧ g.sched.status = .waiting ∧ g.pc = h.pc ∧ g.x = h.x ∧ MemKept s t) ∧
    (Ready s h (.barWait a sc) → h.arriving (h.getX a) = true →
      ∃ t g, exec (.barWait a sc) s = .next t ∧ t.hart? h.key = some g ∧ g.sched.status = .waiting ∧ g.pc = h.pc ∧ g.x = h.x ∧ MemKept s t)) ∧
  (∀ (s : State) (h : Hart) (a b : Reg) (sc : Scope) (i : Instr), i = .barInit a b sc ∨ i = .barWait a sc → Ready s h i → h.level = .t ∨ h.queue = [] →
    ((h.getX a).toNat % 64 ≠ 0 → exec i s = .next (trapped s h (.scalar 0x04 0 (h.getX a)))) ∧
    (∀ x n, (h.getX a).toNat % 64 = 0 → s.access h.ctx (h.getX a) .atomic = .ok x → placeOf x.pa = .host n →
      exec i s = .next (trapped s h (.scalar 0x10 ((word0 i).setWidth 32 ++ 0x22#32) (h.getX a)))))

/-- R306: when nothing older of its hart is outstanding, an arrival fires: ARRIVED rises by one, or, where COUNT is reached, becomes
0 while PHASE rises; the hart records the phase, and the entry leaves the queue. While something older is outstanding, nothing happens. -/
def Obligations.BarrierArrivalFires : Prop :=
  ∀ (s : State) (h : Hart) (pos : Nat) (e : Entry) (i : SlotId) (a : Reg) (sc : Scope),
    s.hart? h.key = some h → h.queue[pos]? = some e → h.sched.slot = some i → e.check = some (.barArrive a sc) → e.status = 4 →
    (s.beforeMarker h pos e = true → exec (.barArriveFire h.key pos) s = .next s) ∧
    (∀ v pa, Inv s → h.key.part ≠ 16 → s.beforeMarker h pos e = false → s.unsettled h sc = false → release s h sc (fun _ => true) = none →
      markerBlock s h e = .ok (v, pa) → Plain pa → s.deadAt pa = none → s.silentAt pa = false → s.corrupted pa = false → s.hostWrites = [] → s.readNat pa 4 % 2 = 1 →
      ∃ t g, exec (.barArriveFire h.key pos) s = .next t ∧ t.hart? h.key = some g ∧ g.queue = h.queue.eraseIdx pos ∧ g.x = h.x ∧ g.pc = h.pc ∧
        (h.eng.arrivals.length < 8 → g.eng.arrivals.lookup e.opa = some (s.phase pa)) ∧ MemKeptBut s t pa 16 ∧
        (let count := s.readNat (pa + 4) 4
         let arrived := (s.readNat (pa + 8) 4 + 1) % 2 ^ 32
         t.readNat (pa + 4) 4 = count ∧ t.readNat (pa + 8) 4 = (if count ≤ arrived then 0 else arrived) ∧
         t.readNat (pa + 12) 4 = (if count ≤ arrived then (s.readNat (pa + 12) 4 + 1) % 2 ^ 32 else s.readNat (pa + 12) 4)))

/-- R61, R335: hints. The null hint and hint.fuse change nothing; hint.class, hint.live, hint.place and hint.pause leave their request with
Collie; hint.pref fetches sectors, once what it asks for has come. No register and no byte of memory changes, and the pc moves on.
R335: the hart that hint.pause holds goes on when its cycles are over, and not before. (That hint.live keeps its 32 bits, that hint.pref asks before it moves on, and the state that
hint.class and hint.place leave are log 55; that a pause is counted in whole nanoseconds upward is log 85.) -/
def Obligations.Hints : Prop :=
  (∀ (s : State) (h : Hart),
      (∀ b, Ready s h (.nullHint b) → exec (.nullHint b) s = .next (done s h (.nullHint b) id)) ∧
      (∀ n, Ready s h (.hintFuse n) → exec (.hintFuse n) s = .next (done s h (.hintFuse n) id)) ∧
      (∀ c, Ready s h (.hintClass c) →
        exec (.hintClass c) s = .next (done s h (.hintClass c) fun g => { g with sched := { g.sched with hintClass := BitVec.ofNat 2 c.val } })) ∧
      (∀ m, Ready s h (.hintLive true m) → exec (.hintLive true m) s = .next (done s h (.hintLive true m) fun g =>
        { g with sched := { g.sched with hintLive := m ++ g.sched.hintLive.setWidth 16 } })) ∧
      (∀ m, Ready s h (.hintLive false m) → exec (.hintLive false m) s = .next (done s h (.hintLive false m) fun g =>
        { g with sched := { g.sched with hintLive := g.sched.hintLive.extractLsb' 16 16 ++ m } })) ∧
      (∀ d v c, Ready s h (.hintPlace d v c) → h.csr.pin = true → exec (.hintPlace d v c) s = .next (done s h (.hintPlace d v c) id)) ∧
      (∀ d v c, Ready s h (.hintPlace d v c) → h.csr.pin = false → exec (.hintPlace d v c) s = .next (done s h (.hintPlace d v c) fun g =>
        { g with sched := { g.sched with hintPlace := some (d.toNat, if v then some c.toNat else none), goPlace := true } })) ∧
      (Ready s h (.hintPause 0) → exec (.hintPause 0) s = .next (done s h (.hintPause 0) id)) ∧
      (∀ n, Ready s h (.hintPause n) → n ≠ 0 → exec (.hintPause n) s = .next (done s h (.hintPause n) fun g =>
        { g with sched := { g.sched with pauseUntil := some (s.time + s.cyclesNs h.core n.toNat) } })) ∧
      (∀ w a n, Ready s h (.hintPref w a n) →
        let l := s.prefSectors h w (h.getX a) (if n = 0 then 65536 else n.toNat)
        ((∀ x, x ∈ l → s.readWaits x.pa (s.cacheDie (h.via x) x.pa) = false ∧ InPlace s (h.via x) x.pa ∧
            ∀ y, y ∈ s.readNeeds (h.via x) x.pa 1 (some false) → (s.cxlState y).grants rdAny = true) →
          ∃ t g, exec (.hintPref w a n) s = .next t ∧ t.hart? h.key = some g ∧ HartKept h g (.hintPref w a n) [] ∧ OthersAlike s t h.key ∧ MemKept s t) ∧
        (∀ x, x ∈ l → s.readWaits x.pa (s.cacheDie (h.via x) x.pa) = true →
          exec (.hintPref w a n) s = .next (s.modHart h.key fun g => { g with stall := true })))) ∧
  (∀ (s : State) (k : HartKey) (h : Hart) (u : Nat), s.hart? k = some h → h.sched.pauseUntil = some u →
      (u ≤ s.time → exec (.hintPauseEnd k) s = .next (s.modHart k fun g => { g with sched := { g.sched with pauseUntil := none } })) ∧
      (s.time < u → exec (.hintPauseEnd k) s = .next s))

/-- R312, R313, R316, R317: launch answers the first failing check's status (−3 for an invalid entry, −2 where the new task's depth exceeds DEPTH, −4 where the allowed set
holds no core of the class, −1 where the pool is full, in that order), or the new task's handle; join answers −5 without such a task, 0 or −6
for one that has ended, and frees its record; exit ends the hart; yield ends the hart's quantum among its partition's harts.
R316: a task that the kernel has ended ends its harts; a join of it then answers −6. -/
def Obligations.Tasks : Prop :=
  (∀ (s : State) (h : Hart) (d a b : Reg), s.hart? h.key = some h →
      (∀ z, Ready s h (.launch d a b) →
        LaunchRefused (s.part h.key.part) (h.getX a).toNat ((match s.taskOf h with | some t => t.depth | none => 0) + 1) z →
        exec (.launch d a b) s = .next (done s h (.launch d a b) fun g => g.setX d (BitVec.ofInt 64 z))) ∧
      (∀ e, Ready s h (.launch d a b) → ordRelease s h .package = none →
        Launches (s.part h.key.part) (h.getX a).toNat ((match s.taskOf h with | some t => t.depth | none => 0) + 1) e →
        let n := s.newTask h.key.part (.hart h.task) (h.getX a).toNat e ((match s.taskOf h with | some t => t.depth | none => 0) + 1) (h.getX b) h.core
        exec (.launch d a b) s = .next (done n.1 h (.launch d a b) fun g => g.setX d (n.2.setWidth 64))) ∧
      (Ready s h (.join d a) →
        ((s.part h.key.part).tasks.find? fun t => zext64 t.handle == h.getX a && t.source == .hart h.task && t.handle != h.task) = none →
        exec (.join d a) s = .next (done s h (.join d a) fun g => g.setX d (BitVec.ofInt 64 (-5)))) ∧
      (∀ t, Ready s h (.join d a) →
        ((s.part h.key.part).tasks.find? fun t => zext64 t.handle == h.getX a && t.source == .hart h.task && t.handle != h.task) = some t →
        (t.pending = false ∧ t.live = 0 →
          exec (.join d a) s = .next (done
            (s.modPart h.key.part fun q => { q with tasks := q.tasks.filter fun u => u.handle != t.handle }) h (.join d a)
            fun g => g.setX d (if t.terminated then BitVec.ofInt 64 (-6) else 0))) ∧
        (t.pending = true ∨ t.live ≠ 0 →
          ∃ u g, exec (.join d a) s = .next u ∧ u.hart? h.key = some g ∧ g.sched.status = .waiting ∧ g.pc = h.pc ∧ g.x = h.x)) ∧
      (Ready s h .exit → h.queue = [] → ordRelease s h .package = none →
        exec .exit s = .next (s.endHart h.key) ∧ (s.endHart h.key).hart? h.key = none) ∧
      (Ready s h .exit → h.queue ≠ [] → exec .exit s = .next (s.modHart h.key fun g => { g with stall := true })) ∧
      (Ready s h .yield → exec .yield s = .next ((done s h .yield id).endQuantum h.key fun p => partNo p == h.key.part))) ∧
  (∀ (s : State) (p : Fin 16) (hd : Half) (t : Task), (s.part (partNo p)).task? hd = some t → t.live ≠ 0 ∨ t.pending = true →
      ∃ u, exec (.taskTerminated p hd) s = .next u ∧ (∀ g, u.hart? g.key = some g → g.key.part = partNo p → g.task ≠ hd))

/-- R321, R322: fclaim answers −2 without the farm and −1 when every strip is claimed, waits at the limits, and otherwise claims the next
strip; wmwait goes on once the watermark has been reached, or without the farm. -/
def Obligations.Farms : Prop :=
  ∀ (s : State) (h : Hart) (d a b : Reg), s.hart? h.key = some h →
    (Ready s h (.fclaim d a) → (s.part h.key.part).farm? (h.getX a) = none →
      exec (.fclaim d a) s = .next (done s h (.fclaim d a) fun g => g.setX d (BitVec.ofInt 64 (-2)))) ∧
    (∀ f, Ready s h (.fclaim d a) → (s.part h.key.part).farm? (h.getX a) = some f → f.total ≤ f.claim * f.strip →
      exec (.fclaim d a) s = .next (done s h (.fclaim d a) fun g => g.setX d (BitVec.ofInt 64 (-1)))) ∧
    (∀ f, Ready s h (.fclaim d a) → (s.part h.key.part).farm? (h.getX a) = some f → f.claim * f.strip < f.total →
      f.claim < f.mark / f.strip + 4096 → (s.part h.key.part).upstreamReady f = true →
      ∃ t g, exec (.fclaim d a) s = .next t ∧ t.hart? h.key = some g ∧ (d ≠ 0 → g.getX d = BitVec.ofNat 64 f.claim) ∧ g.pc = h.pc + 4 ∧
        XKept h g [d] ∧ FKept h g [] ∧ MemKept s t ∧ (t.part h.key.part).farms = (s.part h.key.part).farms.map (fun u => if u.slot = f.slot then { f with claim := f.claim + 1 } else u)) ∧
    (∀ f, Ready s h (.fclaim d a) → (s.part h.key.part).farm? (h.getX a) = some f → f.claim * f.strip < f.total →
      f.mark / f.strip + 4096 ≤ f.claim ∨ (s.part h.key.part).upstreamReady f = false →
      ∃ t g, exec (.fclaim d a) s = .next t ∧ t.hart? h.key = some g ∧ g.sched.status = .waiting ∧ g.pc = h.pc ∧ g.x = h.x) ∧
    (∀ f, Ready s h (.wmwait a b) → (s.part h.key.part).farm? (h.getX a) = some f → min (h.getX b).toNat f.total ≤ f.mark →
      exec (.wmwait a b) s = .next (done s h (.wmwait a b) id)) ∧
    (Ready s h (.wmwait a b) → (s.part h.key.part).farm? (h.getX a) = none → exec (.wmwait a b) s = .next (done s h (.wmwait a b) id)) ∧
    (∀ f n, Ready s h (.wmpub a b) → (s.part h.key.part).farm? (h.getX a) = some f → ordRelease s h .package = none →
      h.eng.strips.lookup f.handle = some n →
      ∃ t g, exec (.wmpub a b) s = .next t ∧ t.hart? h.key = some g ∧ g.pc = h.pc + 4 ∧ g.x = h.x ∧ g.f = h.f ∧ MemKept s t ∧
        (t.part h.key.part).farms = (s.part h.key.part).farms.map (fun u => if u.slot = f.slot then f.publish n (h.getX b).toNat else u)) ∧
    (∀ v x, Ready s h (.farm d a) → (h.getX a).toNat % 64 = 0 → s.access h.ctx (h.getX a) .load = .ok x → s.scalarLocked h (h.getX a) 64 = false →
      h.pathHolds x.pa 64 = false → AtHand s h x 64 false → v = leNat (s.view (h.via x) x.pa 64) →
      let bad := bitsOf v 511 192 ≠ 0 ∨ bitsOf v 127 96 ≠ 0 ∨ bitsOf v 95 64 = 0 ∨ 2 ^ 48 ≤ bitsOf v 63 0 ∨
        (bitsOf v 191 128 ≠ 0 ∧ (s.part h.key.part).farm? (BitVec.ofNat 64 (bitsOf v 191 128)) = none)
      (bad →
        ∃ t g, exec (.farm d a) s = .next t ∧ t.hart? h.key = some g ∧ (d ≠ 0 → g.getX d = BitVec.ofInt 64 (-3)) ∧ HartKept h g (.farm d a) [d] ∧ MemKept s t) ∧
      (¬ bad → 256 ≤ (s.part h.key.part).farms.length →
        ∃ t g, exec (.farm d a) s = .next t ∧ t.hart? h.key = some g ∧ (d ≠ 0 → g.getX d = BitVec.ofInt 64 (-1)) ∧ HartKept h g (.farm d a) [d] ∧ MemKept s t) ∧
      (¬ bad → (s.part h.key.part).farms.length < 256 →
        ∃ t g f, exec (.farm d a) s = .next t ∧ t.hart? h.key = some g ∧ (d ≠ 0 → g.getX d = BitVec.ofNat 64 (f.slot + 65536 * f.gen.toNat)) ∧
          HartKept h g (.farm d a) [d] ∧ MemKept s t ∧ (t.part h.key.part).farms = (s.part h.key.part).farms ++ [f] ∧ f.task = h.task ∧
          f.total = bitsOf v 63 0 ∧ f.strip = bitsOf v 95 64 ∧ f.claim = 0 ∧ f.mark = 0))

/-- R31 to R33, R188, R230, R243: a queued instruction enters the queue as an entry with its operands captured, and completes in the scalar
stream; vstart becomes 0 and an x destination is pending until the entry completes.
R31, R33, R188, R230: without matrix mode or a pairing tile format a tensor instruction traps ILLEGAL_INSN; a vector one whose slot's vown
does not name the hart traps VECTOR_OWNER; a full queue, and a ninth result owed, hold the instruction back. (That entries which the hart holds for a trap take places among the 32 is
log 86; that a result for x0 is not owed is log 40; the number of an entry's place is log 75.) -/
def Obligations.QueuedCommit : Prop :=
  (∀ (s : State) (h : Hart) (i : Instr) (a b c : Word), captured h i = some (a, b, c) → Ready s h i → TileReady h i →
    (touchesVector i = true → s.owns h = true) → h.queue.length + h.heldCount < 32 → ((queuedDest i).isSome = true → h.owed < 8) →
    exec i s = .next (done s h i (pushed (entryOf h i a b c) i))) ∧
  (∀ (s : State) (h : Hart) (i : Instr) (a b c : Word), captured h i = some (a, b, c) → Ready s h i →
    (¬ TileReady h i → h.level = .t ∨ h.queue = [] → exec i s = .next (trapped s h (.illegal i))) ∧
    (TileReady h i → touchesVector i = true → s.owns h = false → h.level = .t ∨ h.queue = [] →
      exec i s = .next (trapped s h (.scalar 0x14 0 0))) ∧
    (TileReady h i → (touchesVector i = true → s.owns h = true) →
      32 ≤ h.queue.length + h.heldCount ∨ ((queuedDest i).isSome = true ∧ 8 ≤ h.owed) →
      exec i s = .next (s.modHart h.key fun g => { g with stall := true })))

/-- R173, R228, R229: setvl grants the lesser of the request, VLMAX and the lanes of the slot, and sets vl and vtype; msetvl does so for the
matrix unit, enters matrix mode and sets the tile format; mexit leaves it, and both tiles become zero. -/
def Obligations.LengthsAndModes : Prop :=
  ∀ (s : State) (h : Hart) (o : SetLen) (sl : SlotId) (hint : Hint), h.sched.slot = some sl →
    (Ready s h (.setvl o) →
      let n := min (h.getX o.req).toNat (min (if bitsW o.fmt = 64 then 256 else 512) (if bitsW o.fmt = 64 then (s.slot sl).lanes / 2 else (s.slot sl).lanes))
      exec (.setvl o) s = .next (done s h (.setvl o) fun g =>
        Hart.setX { g with csr := { g.csr with vl := BitVec.ofNat 10 n, vtype := o.fmt.code } } o.xd (BitVec.ofNat 64 n))) ∧
    (Ready s h (.msetvl o) →
      let n := min (h.getX o.req).toNat (min (mvlMax o.fmt) (s.slot sl).matrix)
      exec (.msetvl o) s = .next (done s h (.msetvl o) fun g =>
        Hart.setX { g with csr := { g.csr with mvl := BitVec.ofNat 8 n, mm := true, tfmt := o.fmt.code } } o.xd (BitVec.ofNat 64 n))) ∧
    (Ready s h (.mexit hint) → h.csr.mm = false → exec (.mexit hint) s = .next (done s h (.mexit hint) id)) ∧
    (Ready s h (.mexit hint) → h.csr.mm = true → s.owns h = true → h.queue = [] → s.hart? h.key = some h →
      ∃ t g, exec (.mexit hint) s = .next t ∧ t.hart? h.key = some g ∧ g.csr.mm = false ∧ g.csr.tfmt = 0 ∧ g.csr.mvl = 0 ∧ g.tilesAway = 0 ∧
        (t.slot sl).m = Vector.replicate 2 (Vector.replicate 128 (Vector.replicate 128 0)) ∧ g.x = h.x ∧ g.f = h.f ∧ MemKept s t)

/-- R16, R177 to R187, R189 to R191, R196 to R199: an elementwise entry writes its active lanes, each from the sources' lanes, a narrow element with the
rest of its container as R16 says; every container of a lane that is not active keeps its bits, and so does every other register. Flags gather in vfcsr. An issue does one pass (R183, R184); after the last
one the entry leaves the queue.
R118, R223: an infinity, a zero, a negative number or a NaN gives a special function the result and the flags of Table 4.10. -/
def Obligations.LaneResults : Prop :=
  (∀ (s : State) (k : HartKey) (h : Hart) (sl : SlotId) (pos : Nat) (e : Entry) (i : Instr) (vd : Reg) (srcs : List Reg) (m : KReg) (f : Fmt)
    (wide : Bool) (v : Nat → Nat × Flags),
    Turn s k h sl pos e i → laneOf h (s.slot sl) e i = some (vd, srcs, m, f, wide, v) → Present (s.slot sl) (vd :: srcs) [m] →
    ∃ t g, exec (.vqEntryIssue k) s = .next t ∧ t.hart? k = some g ∧ AfterPass h g pos e wide ∧ g.x = h.x ∧ g.f = h.f ∧ g.pc = h.pc ∧
      MemKept s t ∧
      (∀ n, n < (if wide then 256 else 512) → Active (s.slot sl) e (passStop h e wide) m n → elem f (t.slot sl).v[vd] n = (v n).1 % 2 ^ bitsW f) ∧
      (bitsW f ≠ 64 → ∀ n, n < (if wide then 256 else 512) → Active (s.slot sl) e (passStop h e wide) m n →
        (t.slot sl).v[vd][n]? = some (container f (v n).1)) ∧
      (∀ n, n < (if bitsW f = 64 then 256 else 512) → ¬ Active (s.slot sl) e (passStop h e wide) m n →
        wholeElem (isWide f) (t.slot sl).v[vd] n = wholeElem (isWide f) (s.slot sl).v[vd] n) ∧
      (∀ r : Reg, r ≠ vd → (t.slot sl).v[r] = (s.slot sl).v[r]) ∧ (t.slot sl).k = (s.slot sl).k ∧
      (∀ b, b < 9 → (g.csr.vfcsr.getLsbD b = true ↔
        h.csr.vfcsr.getLsbD b = true ∨ ∃ n, n < 512 ∧ Active (s.slot sl) e (passStop h e wide) m n ∧ (v n).2.getLsbD b = true))) ∧
  (∀ (i : Instr) (o : VSpec) (g : FVal → Nat × Flags), specialOf i = some (o, g) → o.fmt.isFp = true → o.fmt ≠ .e4m3 → o.fmt ≠ .e2m1 → o.fmt ≠ .e8m0 →
    ∀ v r fl, specialCase i v = some (r, fl) → g v = (r.bits o.fmt, fl))

/-- R180, R192, R197, R216: a compare writes the result of each active element from the start on into its mask register and, with its last
pass, 0 into every other bit; the mask operations write all 512 bits. A write to k0 is discarded. No vector register changes. -/
def Obligations.MaskResults : Prop :=
  ∀ (s : State) (k : HartKey) (h : Hart) (sl : SlotId) (pos : Nat) (e : Entry) (i : Instr) (kd : KReg) (vs : List Reg) (ks : List KReg)
    (w : Option Bool) (v : Nat → Prop) (fl : Nat → Flags),
    Turn s k h sl pos e i → maskOf h (s.slot sl) e i = some (kd, vs, ks, w, v, fl) → Present (s.slot sl) vs ks →
    ∃ t g, exec (.vqEntryIssue k) s = .next t ∧ t.hart? k = some g ∧ (match w with | some wide => AfterPass h g pos e wide | none => g.queue = h.queue.eraseIdx pos) ∧ g.x = h.x ∧ g.f = h.f ∧ g.pc = h.pc ∧
      MemKept s t ∧ (kd ≠ 0 → ∀ n, n < 512 → (On (t.slot sl) kd n ↔ v n)) ∧
      (∀ r : KReg, r ≠ kd ∨ kd = 0 → (t.slot sl).k[r] = (s.slot sl).k[r]) ∧ (t.slot sl).v = (s.slot sl).v ∧
      (∀ b, b < 9 → (g.csr.vfcsr.getLsbD b = true ↔ h.csr.vfcsr.getLsbD b = true ∨ ∃ n, n < 512 ∧ (fl n).getLsbD b = true))

/-- R91, R193, R194, R217: the moves, the merge and the permutes move whole containers; an element that the instruction does not write keeps
its bits. Moves, merges, slides and vperm do one pass at a time (R184, R218). -/
def Obligations.MoveResults : Prop :=
  ∀ (s : State) (k : HartKey) (h : Hart) (sl : SlotId) (pos : Nat) (e : Entry) (i : Instr) (vd : Reg) (srcs : List Reg) (m : KReg) (f : Fmt)
    (w : Nat → Prop) (v : Nat → Nat),
    Turn s k h sl pos e i → moveOf h (s.slot sl) e i = some (vd, srcs, m, f, w, v) → Present (s.slot sl) (vd :: srcs) [m] →
    ∃ t g, exec (.vqEntryIssue k) s = .next t ∧ t.hart? k = some g ∧ (if atOnce i then g.queue = h.queue.eraseIdx pos else AfterPass h g pos e (bitsW f == 64)) ∧ g.x = h.x ∧ g.f = h.f ∧ g.pc = h.pc ∧
      g.csr = h.csr ∧ MemKept s t ∧
      (∀ n, n < lanes f → w n → whole f (t.slot sl).v[vd] n = v n) ∧
      (∀ n, n < lanes f → ¬ w n → whole f (t.slot sl).v[vd] n = whole f (s.slot sl).v[vd] n) ∧
      (∀ r : Reg, r ≠ vd → (t.slot sl).v[r] = (s.slot sl).v[r]) ∧ (t.slot sl).k = (s.slot sl).k

/-- R33, R195, R216: kpopc, kfirst and vmvx answer in their x register, which is pending no longer; no vector register and no mask
changes. -/
def Obligations.VectorAnswers : Prop :=
  ∀ (s : State) (k : HartKey) (h : Hart) (sl : SlotId) (pos : Nat) (e : Entry) (i : Instr) (d : Reg) (vs : List Reg) (ks : List KReg) (v : Word),
    Turn s k h sl pos e i → answerOf (s.slot sl) e i = some (d, vs, ks, v) → Present (s.slot sl) vs ks →
    ∃ t g, exec (.vqEntryIssue k) s = .next t ∧ t.hart? k = some g ∧ g.queue = h.queue.eraseIdx pos ∧ (d ≠ 0 → g.getX d = v) ∧
      (d ≠ 0 → g.xpend.getLsbD d.val = false) ∧ XKept h g [d] ∧ g.f = h.f ∧ g.pc = h.pc ∧ MemKept s t ∧ (t.slot sl).v = (s.slot sl).v ∧
      (t.slot sl).k = (s.slot sl).k

/-- R16, R219 to R222: a reduction to element 0 of vd, with the rest of its container as R16 says, folds element 0 of vs2 and the active elements of vs1: integer sums, bitwise folds and extremes, and for
a floating-point format the sum by the tree of R115 and the extremes of R110, with their flags; with no element it does nothing. vredosum adds in
element order, a lane cluster at a time, from element 0 of vs2 or from the partial sum in vd. vredq on a queue that is not open traps ILLEGAL_INSN; it
awaits the memory of the next element of its queue, or the element; with none to take it is done; the last one is added and ends it. -/
def Obligations.Reductions : Prop :=
  (∀ (s : State) (k : HartKey) (h : Hart) (sl : SlotId) (pos : Nat) (e : Entry) (i : Instr) (o : VRed) (v : Nat × Flags),
    Turn s k h sl pos e i → redOf h (s.slot sl) e i = some (o, v) → Present (s.slot sl) [o.vd, o.vs1, o.vs2] [o.k] →
    ∃ t u, exec (.vqEntryIssue k) s = .next t ∧ t.hart? k = some u ∧ u.queue = h.queue.eraseIdx pos ∧ u.x = h.x ∧ u.f = h.f ∧ u.pc = h.pc ∧ MemKept s t ∧
      u.csr = (if e.vl = 0 then h.csr else { h.csr with vfcsr := h.csr.vfcsr ||| v.2 }) ∧
      (0 < e.vl.toNat → elem o.fmt (t.slot sl).v[o.vd] 0 = v.1 % 2 ^ bitsW o.fmt) ∧
      (0 < e.vl.toNat → bitsW o.fmt ≠ 64 → (t.slot sl).v[o.vd][0]? = some (container o.fmt v.1)) ∧
      (∀ n, n < lanes o.fmt → n ≠ 0 ∨ e.vl = 0 → whole o.fmt (t.slot sl).v[o.vd] n = whole o.fmt (s.slot sl).v[o.vd] n) ∧
      (∀ r : Reg, r ≠ o.vd → (t.slot sl).v[r] = (s.slot sl).v[r]) ∧ (t.slot sl).k = (s.slot sl).k) ∧
  (∀ (s : State) (k : HartKey) (h : Hart) (sl : SlotId) (pos : Nat) (e : Entry) (o : VRed),
    Turn s k h sl pos e (.vredosum o) → Present (s.slot sl) [o.vd, o.vs1, o.vs2] [o.k] →
    let ns := (List.range (count e (bitsW o.fmt == 64))).filter fun n =>
      decide (e.elem.toNat ≤ n) && decide (n < passStop h e (bitsW o.fmt == 64)) && on (s.slot sl) o.k n
    let v := folded (if o.fmt.isInt then fun a b => ((a + b) % 2 ^ bitsW o.fmt, 0) else fpAddBits o.fmt (resolveRm o.rm (h.csr.vfcsr.setWidth 3)) o.flush)
      (elem o.fmt (s.slot sl).v[if e.elem = 0 then o.vs2 else o.vd] 0) (ns.map (elem o.fmt (s.slot sl).v[o.vs1]))
    ∃ t u, exec (.vqEntryIssue k) s = .next t ∧ t.hart? k = some u ∧ AfterPass h u pos e (bitsW o.fmt == 64) ∧ u.x = h.x ∧ u.f = h.f ∧ u.pc = h.pc ∧
      MemKept s t ∧ u.csr = (if e.vl = 0 then h.csr else { h.csr with vfcsr := h.csr.vfcsr ||| v.2 }) ∧
      (0 < e.vl.toNat → elem o.fmt (t.slot sl).v[o.vd] 0 = v.1 % 2 ^ bitsW o.fmt) ∧
      (0 < e.vl.toNat → bitsW o.fmt ≠ 64 → (t.slot sl).v[o.vd][0]? = some (container o.fmt v.1)) ∧
      (∀ n, n < lanes o.fmt → n ≠ 0 ∨ e.vl = 0 → whole o.fmt (t.slot sl).v[o.vd] n = whole o.fmt (s.slot sl).v[o.vd] n) ∧
      (∀ r : Reg, r ≠ o.vd → (t.slot sl).v[r] = (s.slot sl).v[r]) ∧ (t.slot sl).k = (s.slot sl).k) ∧
  (∀ (s : State) (k : HartKey) (h : Hart) (sl : SlotId) (pos : Nat) (e : Entry) (o : VRedQ), Turn s k h sl pos e (.vredq o) →
    let j : Job := { hart := h, slot := sl, entry := e }
    let q := Fin.ofNat 16 e.opa.toNat
    let size := bitsW o.fmt / 8
    (h.eng.rx[q] = none → exec (.vqEntryIssue k) s = .next (s.queueTrap k pos (faultedTrap e 0x01 0 0))) ∧
    (h.eng.rx[q] ≠ none → count e (bitsW o.fmt == 64) ≤ e.elem.toNat →
      ∃ t g, exec (.vqEntryIssue k) s = .next t ∧ t.hart? k = some g ∧ Completed h g pos ∧ MemKept s t ∧ t.slots = s.slots) ∧
    (h.eng.rx[q] ≠ none → e.elem.toNat < count e (bitsW o.fmt == 64) → e.paddrs = [] →
      (∀ u x va, nextElem q size o.hint j 4096 s = .at_ u x va ∨ nextElem q size o.hint j 4096 s = .waits u x va →
        ∃ t g d, exec (.vqEntryIssue k) s = .next t ∧ t.hart? k = some g ∧ g.queue = h.queue.set pos d ∧ g.x = h.x ∧ g.csr = h.csr ∧
          d = { e with issued := true, status := 2, paddrs := [(e.elem.toNat, x.vault, x.pa)], since := u.time, limit := h.csr.eptlim }) ∧
      (∀ u, nextElem q size o.hint j 4096 s = .empty u →
        ∃ t g, exec (.vqEntryIssue k) s = .next t ∧ t.hart? k = some g ∧ g.queue = h.queue.set pos { e with issued := true } ∧ g.x = h.x ∧
          g.csr = h.csr)) ∧
    (∀ p u x va w b, e.issued = true → e.paddrs = [p] → count e (bitsW o.fmt == 64) = e.elem.toNat + 1 → Present (s.slot sl) [o.vd, o.vs2] [] →
      s.deadAt p.2.2 = none → s.corrupted p.2.2 = false → nextElem q size o.hint j 4096 s = .at_ u x va → takeElem q size o.hint j u = some (w, b) →
      let acc := elem o.fmt (s.slot sl).v[if e.elem = 0 then o.vs2 else o.vd] 0
      let v : Nat × Flags := if o.fmt.isInt then ((acc + b) % 2 ^ bitsW o.fmt, 0) else fpAddBits o.fmt (h.csr.vfcsr.setWidth 3 |> resolveRm .dyn) o.flush acc b
      ∃ t g, exec (.vectorMemoryResponse k .data) s = .next t ∧ t.hart? k = some g ∧ g.queue = h.queue.eraseIdx pos ∧ g.x = h.x ∧ g.f = h.f ∧ g.pc = h.pc ∧
        elem o.fmt (t.slot sl).v[o.vd] 0 = v.1 % 2 ^ bitsW o.fmt ∧
        g.csr = { h.csr with vfcsr := h.csr.vfcsr ||| v.2 } ∧
        (∀ n, n < lanes o.fmt → n ≠ 0 → whole o.fmt (t.slot sl).v[o.vd] n = whole o.fmt (s.slot sl).v[o.vd] n) ∧
        (∀ r : Reg, r ≠ o.vd → (t.slot sl).v[r] = (s.slot sl).v[r]) ∧ (t.slot sl).k = (s.slot sl).k))

/-- R111 to R113, R235, R236, R239: an outer product adds to every element of the tile's square one product, four, or four with block scales, in one
rounding, or modulo 2^32 for integers, gathers its flags in vfcsr, and leaves every other element of its tile and the other tile as they are; mzero clears the whole
tile. mrow and mcol move a row or a column of the square between a tile and a vector; one beyond MVL reads 0 and takes nothing. (That the four scaled products of mopas are terms of
their own beside the accumulator is log 25; the sign of a product that is zero is log 100.) -/
def Obligations.TileResults : Prop :=
  ∀ (s : State) (k : HartKey) (h : Hart) (sl : SlotId) (pos : Nat) (e : Entry),
    let w := isWide e.tileFmt
    let m := e.mvl.toNat
    (∀ i md vs g, Turn s k h sl pos e i → outerOf h (s.slot sl) e i = some (md, vs, g) → Present (s.slot sl) vs [] →
      (s.slot sl).mValid.getLsbD md.val = true → h.csr.mm = true → m ≤ mvlMax e.tileFmt →
      ∃ t u, exec (.vqEntryIssue k) s = .next t ∧ t.hart? k = some u ∧ u.queue = h.queue.eraseIdx pos ∧ u.x = h.x ∧ u.f = h.f ∧ u.pc = h.pc ∧ MemKept s t ∧
        (∀ a b, a < m → b < m → tileElem w (t.slot sl).m[md] a b = (g a b (tileElem w (s.slot sl).m[md] a b)).1 % 2 ^ bitsW e.tileFmt) ∧
        (∀ a b, a < 128 → b < mvlMax e.tileFmt → m ≤ a ∨ m ≤ b → tileElem w (t.slot sl).m[md] a b = tileElem w (s.slot sl).m[md] a b) ∧
        (∀ z : Tile, z ≠ md → (t.slot sl).m[z] = (s.slot sl).m[z]) ∧ (t.slot sl).v = (s.slot sl).v ∧ (t.slot sl).k = (s.slot sl).k ∧
        u.csr = { h.csr with vfcsr := u.csr.vfcsr } ∧
        (∀ c, c < 9 → (u.csr.vfcsr.getLsbD c = true ↔
          h.csr.vfcsr.getLsbD c = true ∨ ∃ a b, a < m ∧ b < m ∧ (g a b (tileElem w (s.slot sl).m[md] a b)).2.getLsbD c = true))) ∧
    (∀ md hint, Turn s k h sl pos e (.mzero md hint) →
      ∃ t g, exec (.vqEntryIssue k) s = .next t ∧ t.hart? k = some g ∧ Completed h g pos ∧ MemKept s t ∧
        (∀ a b, a < 128 → b < 128 → tileElem false (t.slot sl).m[md] a b = 0) ∧ (∀ z : Tile, z ≠ md → (t.slot sl).m[z] = (s.slot sl).m[z]) ∧
        (t.slot sl).v = (s.slot sl).v) ∧
    (∀ o (col : Bool), Turn s k h sl pos e (if col then .mcol o else .mrow o) → Present (s.slot sl) [o.v] [] →
      (s.slot sl).mValid.getLsbD o.tile.val = true → h.csr.mm = true → m ≤ mvlMax e.tileFmt →
      let x := s.slot sl
      let row := fun c : Nat => if col then c else e.opa.toNat
      let at_ := fun c : Nat => if col then e.opa.toNat else c
      ∃ t g, exec (.vqEntryIssue k) s = .next t ∧ t.hart? k = some g ∧ Completed h g pos ∧ MemKept s t ∧ (t.slot sl).k = x.k ∧
        (o.toTile = true → (t.slot sl).v = x.v ∧ (∀ z : Tile, z ≠ o.tile → (t.slot sl).m[z] = x.m[z]) ∧
          (∀ c, c < m → e.opa.toNat < m → tileElem w (t.slot sl).m[o.tile] (row c) (at_ c) = wholeElem w x.v[o.v] c) ∧
          (∀ a b, a < 128 → b < mvlMax e.tileFmt → (∀ c, c < m → e.opa.toNat < m → (row c, at_ c) ≠ (a, b)) →
            tileElem w (t.slot sl).m[o.tile] a b = tileElem w x.m[o.tile] a b)) ∧
        (o.toTile = false → (t.slot sl).m = x.m ∧ (∀ r : Reg, r ≠ o.v → (t.slot sl).v[r] = x.v[r]) ∧
          (∀ c, c < m → wholeElem w (t.slot sl).v[o.v] c = (if e.opa.toNat < m then tileElem w x.m[o.tile] (row c) (at_ c) else 0)) ∧
          (∀ c, m ≤ c → c < (if w then 256 else 512) → wholeElem w (t.slot sl).v[o.v] c = wholeElem w x.v[o.v] c)))

/-- R205, R237, R238: mld and mst issue once every element of the rows that are left is aligned and may be accessed, and no copy and no older access of the
stream meets one; each answer of memory brings one row into the tile, or stores one row, and the entry leaves with its last. -/
def Obligations.TileMemory : Prop :=
  ∀ (s : State) (k : HartKey) (h : Hart) (sl : SlotId) (pos : Nat) (e : Entry) (o : TMem) (store : Bool),
    Turn s k h sl pos e (if store then .mst o else .mld o) → h.csr.mm = true → e.mvl.toNat ≤ mvlMax e.tileFmt →
    let w := isWide e.tileFmt
    let m := e.mvl.toNat
    let need : Need := if store then .store else .load
    (e.issued = false → (s.slot sl).mValid.getLsbD o.md.val = true → e.elem.toNat < m →
      (∀ a b, e.elem.toNat ≤ a → a < m → b < m → (tileAt e a b).toNat % tileBytes e = 0 ∧ (∃ y, s.access h.ctx (tileAt e a b) need = .ok y) ∧
        s.interlocked h (tileAt e a b) (tileBytes e) = false ∧ s.behind h (tileAt e a b) (tileBytes e) store = false) →
      ∃ t g d, exec (.vqEntryIssue k) s = .next t ∧ t.hart? k = some g ∧ Issued s h g pos e d ∧ MemKept s t ∧ t.slots = s.slots ∧
        d.paddrs.length = (m - e.elem.toNat) * m ∧
        ∀ a b y, e.elem.toNat ≤ a → a < m → b < m → s.access h.ctx (tileAt e a b) need = .ok y →
          d.paddrs[(a - e.elem.toNat) * m + b]? = some (a, y.vault, y.pa)) ∧
    (e.issued = false → m ≤ e.elem.toNat → ∃ t g, exec (.vqEntryIssue k) s = .next t ∧ t.hart? k = some g ∧ Completed h g pos ∧ MemKept s t) ∧
    (∀ p l, e.issued = true → e.paddrs = p :: l → k.part ≠ 16 →
      let now := e.paddrs.filter fun x => x.1 == p.1
      let rest := e.paddrs.filter fun x => x.1 != p.1
      (store = false → s.stale = [] → p.1 < 128 → now.length ≤ mvlMax e.tileFmt →
        (∀ x, x ∈ now → h.pathHolds x.2.2 (tileBytes e) = false ∧
          ReadReady s (h.ctx.via x.2.1) x.2.2 (tileBytes e) (s.vectorAlloc (h.ctx.via x.2.1) o.hint (m * max (m * tileBytes e) e.opb.toInt.natAbs))) →
        ∃ t g, exec (.vectorMemoryResponse k .data) s = .next t ∧ t.hart? k = some g ∧ Went h g pos e rest ∧ MemKept s t ∧
          (∀ b x, now[b]? = some x → tileElem w (t.slot sl).m[o.md] p.1 b = s.readNat x.2.2 (tileBytes e)) ∧
          (∀ a b, a < 128 → b < mvlMax e.tileFmt → a ≠ p.1 ∨ now.length ≤ b → tileElem w (t.slot sl).m[o.md] a b = tileElem w (s.slot sl).m[o.md] a b) ∧
          (∀ z : Tile, z ≠ o.md → (t.slot sl).m[z] = (s.slot sl).m[z]) ∧ (t.slot sl).v = (s.slot sl).v ∧ (t.slot sl).k = (s.slot sl).k) ∧
      (store = true → Inv s → (∀ x, x ∈ now → Quiet s x.2.2 ∧ x.2.2 % tileBytes e = 0) →
        ∃ t g, exec (.vectorMemoryResponse k .data) s = .next t ∧ t.hart? k = some g ∧ Went h g pos e rest ∧ (t.slot sl).m = (s.slot sl).m ∧
          (t.slot sl).v = (s.slot sl).v ∧ ∀ a, Mem.get t.mem a =
            stored (now.zipIdx.map fun x => (x.1.2.2, leBytes (tileBytes e) (tileElem w (s.slot sl).m[o.md] p.1 x.2))) a (Mem.get s.mem a)))

/-- R201 to R205, R208, R209, R211, R214, R215: a vector load or store of Table 8.2 whose active elements are aligned, may be accessed and meet no copy and no older
access of the stream issues with every access translated, and is done with no active element; each answer of memory to a load brings one lane cluster,
whose elements alone change, a narrow one with the rest of its container as R16 says, and the entry leaves with its last; a cluster that reaches the progress limit traps
ELEMENT_PROGRESS with the port and the address of the lowest element that still awaits something. vld.st needs a stream of its format; it takes the elements of a lane cluster once the strip buffer holds them, zeros beyond the stream's end, and its last
cluster moves the stream's position; the position of its first issue stands with the entry and its stream until then. -/
def Obligations.VectorLoads : Prop :=
  (∀ (s : State) (k : HartKey) (h : Hart) (sl : SlotId) (pos : Nat) (e : Entry) (i : Instr) (m : MemForm),
    Turn s k h sl pos e i → memForm (s.slot sl) e i = some m → Present (s.slot sl) (m.v :: m.more) [m.k] →
    let need : Need := if m.store then .store else .load
    let active := Active (s.slot sl) e (count e (bitsW m.fmt == 64)) m.k
    let size := memSize m.fmt
    (e.issued = false → (∀ n, active n → (m.addr n).toNat % size = 0 ∧ (∃ y, s.access h.ctx (m.addr n) need = .ok y) ∧
        s.interlocked h (m.addr n) size = false ∧ s.behind h (m.addr n) size m.store = false) →
      ((∃ n, active n) →
        ∃ t g d, exec (.vqEntryIssue k) s = .next t ∧ t.hart? k = some g ∧ Issued s h g pos e d ∧ MemKept s t ∧ t.slots = s.slots ∧
          ∀ n z, (n, z) ∈ d.paddrs ↔ active n ∧ ∃ y, s.access h.ctx (m.addr n) need = .ok y ∧ z = (y.vault, y.pa)) ∧
      ((∀ n, ¬ active n) → ∃ t g, exec (.vqEntryIssue k) s = .next t ∧ t.hart? k = some g ∧ Completed h g pos ∧ MemKept s t ∧ t.slots = s.slots)) ∧
    (∀ p l, e.issued = true → e.paddrs = p :: l →
      let c := cluster h m.fmt
      let now := e.paddrs.filter fun x => x.1 / c == p.1 / c
      let rest := e.paddrs.filter fun x => x.1 / c != p.1 / c
      (m.store = false → k.part ≠ 16 → s.stale = [] → (e.paddrs.map (·.1)).Nodup →
        (∀ x, x ∈ now → x.1 < lanes m.fmt ∧ h.pathHolds x.2.2 size = false ∧
          ReadReady s (h.ctx.via x.2.1) x.2.2 size (s.vectorAlloc (h.ctx.via x.2.1) m.hint m.footprint)) →
        ∃ t g, exec (.vectorMemoryResponse k .data) s = .next t ∧ t.hart? k = some g ∧ Went h g pos e rest ∧ MemKept s t ∧
          (∀ x, x ∈ now → elem m.fmt (t.slot sl).v[m.v] x.1 =
            s.readNat x.2.2 size / (if m.pack = true ∧ x.1 % 2 = 1 then 16 else 1) % 2 ^ bitsW m.fmt) ∧
          (bitsW m.fmt ≠ 64 → ∀ x, x ∈ now → (t.slot sl).v[m.v][x.1]? =
            some (container m.fmt (s.readNat x.2.2 size / (if m.pack = true ∧ x.1 % 2 = 1 then 16 else 1)))) ∧
          (∀ n, n < lanes m.fmt → (∀ x, x ∈ now → x.1 ≠ n) → whole m.fmt (t.slot sl).v[m.v] n = whole m.fmt (s.slot sl).v[m.v] n) ∧
          (∀ r : Reg, r ≠ m.v → (t.slot sl).v[r] = (s.slot sl).v[r]) ∧ (t.slot sl).k = (s.slot sl).k) ∧
      (e.limit ≠ 0 → e.limit.toNat ≤ (s.time - e.since) * s.mhzOf h.core / 1000 →
        let awaited := fun x => s.awaits { hart := h, slot := sl, entry := e } (if m.store then .store size 0 false else .load size 0 0) x
        let reports := fun x : Nat × BitVec 8 × Nat => exec (.elementProgress k) s = .next (s.queueTrap k pos
          { cause := 0x0F, info := queueInfo (s.portCode h x.2.1 x.2.2) x.1 0 false, addr := m.addr x.1, status := 2,
            elem := BitVec.ofNat 16 (max (p.1 / c * c) e.elem.toNat), nfault := 0, fovf := false })
        (∀ x, now.find? awaited = some x → reports x) ∧ ((∀ x, x ∈ now → awaited x = false) → reports p)) ∧
      (e.limit = 0 → exec (.elementProgress k) s = .next s))) ∧
  (∀ (s : State) (k : HartKey) (h : Hart) (sl : SlotId) (pos : Nat) (e : Entry) (o : VPop), Turn s k h sl pos e (.vld_st o) →
    (h.eng.streams[o.st] = none → exec (.vqEntryIssue k) s = .next (s.queueTrap k pos (faultedTrap e 0x01 0 0))) ∧
    (∀ b, h.eng.streams[o.st] = some b → b.fmt ≠ o.fmt.code → exec (.vqEntryIssue k) s = .next (s.queueTrap k pos (faultedTrap e 0x01 0 0))) ∧
    (∀ b, h.eng.streams[o.st] = some b → b.fmt = o.fmt.code → e.restored = false ∨ (e.issued = true ∧ e.pos ≠ none) → Present (s.slot sl) [o.vd] [o.k] →
      e.elem.toNat < count e (bitsW o.fmt == 64) →
      let base := e.pos.getD b.pos
      let stop := passStop h e (bitsW o.fmt == 64)
      let there := fun n => b.length ≤ base + n ∨ (b.buf.lookup (base + n)).isSome = true
      ((∀ n, Active (s.slot sl) e stop o.k n → there n) →
        ∃ t g, exec (.vqEntryIssue k) s = .next t ∧ t.hart? k = some g ∧ g.x = h.x ∧ g.f = h.f ∧ g.pc = h.pc ∧ g.csr = h.csr ∧ MemKept s t ∧
          (∀ n, Active (s.slot sl) e stop o.k n → elem o.fmt (t.slot sl).v[o.vd] n =
            (if b.length ≤ base + n then 0 else leNat ((b.buf.lookup (base + n)).getD (0, [])).2) % 2 ^ bitsW o.fmt) ∧
          (bitsW o.fmt ≠ 64 → ∀ n, Active (s.slot sl) e stop o.k n → (t.slot sl).v[o.vd][n]? =
            some (container o.fmt (if b.length ≤ base + n then 0 else leNat ((b.buf.lookup (base + n)).getD (0, [])).2))) ∧
          (∀ n, n < lanes o.fmt → ¬ Active (s.slot sl) e stop o.k n → whole o.fmt (t.slot sl).v[o.vd] n = whole o.fmt (s.slot sl).v[o.vd] n) ∧
          (∀ r : Reg, r ≠ o.vd → (t.slot sl).v[r] = (s.slot sl).v[r]) ∧ (t.slot sl).k = (s.slot sl).k ∧
          (count e (bitsW o.fmt == 64) ≤ stop → g.queue = h.queue.eraseIdx pos ∧ g.eng.streams[o.st] =
            some { b with pos := b.pos + count e (bitsW o.fmt == 64), first := if e.pos = none then b.first else b.first.tail,
                          buf := b.buf.filter fun x => decide (b.pos + count e (bitsW o.fmt == 64) ≤ x.1) }) ∧
          (stop < count e (bitsW o.fmt == 64) → ∃ d z, g.queue = h.queue.set pos d ∧ d.elem = BitVec.ofNat 16 stop ∧ d.status = 2 ∧
            g.eng.streams[o.st] = some z ∧ z.pos = b.pos ∧ z.buf = b.buf ∧
            z.first = (if e.pos = none then b.pos :: b.first else b.first))) ∧
      (∀ n, Active (s.slot sl) e stop o.k n → ¬ there n →
        ∃ t g d, exec (.vqEntryIssue k) s = .next t ∧ t.hart? k = some g ∧ g.x = h.x ∧ g.csr = h.csr ∧ MemKept s t ∧ t.slots = s.slots ∧
          g.queue = h.queue.set pos d ∧ d.elem = e.elem ∧ d.issued = true)))

/-- R201 to R204, R209: an answer of memory to a vector store writes the elements of one lane cluster to their addresses in ascending order, an E2M1 element
of the unit form as half of its byte; every other byte of memory, and every register, is as before, and the entry leaves with its last
cluster. -/
def Obligations.VectorStores : Prop :=
  ∀ (s : State) (k : HartKey) (h : Hart) (sl : SlotId) (pos : Nat) (e : Entry) (i : Instr) (m : MemForm) (p : Nat × BitVec 8 × Nat)
    (l : List (Nat × BitVec 8 × Nat)),
    Turn s k h sl pos e i → memForm (s.slot sl) e i = some m → m.store = true → e.issued = true → e.paddrs = p :: l → k.part ≠ 16 → Inv s →
    let c := cluster h m.fmt
    let now := e.paddrs.filter fun x => x.1 / c == p.1 / c
    let rest := e.paddrs.filter fun x => x.1 / c != p.1 / c
    (∀ x, x ∈ now → Quiet s x.2.2 ∧ x.2.2 % memSize m.fmt = 0) →
    ∃ t g, exec (.vectorMemoryResponse k .data) s = .next t ∧ t.hart? k = some g ∧ Went h g pos e rest ∧ (t.slot sl).v = (s.slot sl).v ∧
      (t.slot sl).k = (s.slot sl).k ∧
      (m.pack = false → ∀ a, Mem.get t.mem a =
        stored (now.map fun x => (x.2.2, leBytes (memSize m.fmt) (elem m.fmt (s.slot sl).v[m.v] x.1))) a (Mem.get s.mem a)) ∧
      (m.pack = true → ∀ a, Mem.get t.mem a =
        packed (now.map fun x => (x.1, x.2.2, elem m.fmt (s.slot sl).v[m.v] x.1)) a (Mem.get s.mem a))

/-- R37, R205, R206, R209, R212, R448, R450: run-ahead of a vector load or store traps MISALIGNED with the lowest misaligned element's address, else
LOAD_PAGE, STORE_PAGE or VAULT with that of the first element that fails and a fault record for each failing page, the first at the head of the synchronous fault
list; an error in a lane cluster traps MEMORY_ERROR or REMOTE_DEAD with the failing element; a saved entry that fails its checks traps ILLEGAL_INSN.
Such a trap saves einfo with the entry's position (that with which it entered the queue: log 75, DEDUCED), the faulting address and the pc: at S from T with the queue in its image, at T where it is delegated, the
entry and every younger one held, ELEM within its bound (Table 1.11), and at S itself with them discarded. -/
def Obligations.VectorTraps : Prop :=
  (∀ (s : State) (k : HartKey) (h : Hart) (sl : SlotId) (pos : Nat) (e : Entry) (i : Instr) (m : MemForm),
    Turn s k h sl pos e i → memForm (s.slot sl) e i = some m → Present (s.slot sl) (m.v :: m.more) [m.k] →
    let active := Active (s.slot sl) e (count e (bitsW m.fmt == 64)) m.k
    let need : Need := if m.store then .store else .load
    (e.issued = false →
      (∀ n, active n → (m.addr n).toNat % memSize m.fmt ≠ 0 → (∀ j, j < n → active j → (m.addr j).toNat % memSize m.fmt = 0) →
        exec (.vqEntryIssue k) s = .next (s.queueTrap k pos (faultedTrap e 0x04 0 (m.addr n)))) ∧
      (∀ n d, Inv s → (∀ j, active j → (m.addr j).toNat % memSize m.fmt = 0) → active n → s.access h.ctx (m.addr n) need = .error d →
        (∀ j, j < n → active j → ∃ y, s.access h.ctx (m.addr j) need = .ok y) →
        let what := match d with
          | .page reason _ => ((if m.store then 7 else 6 : Nat), reason, (0 : Nat))
          | .vault reason v => (8, reason + 3, v.toNat)
        ∃ t q, exec (.vqEntryIssue k) s = .next (t.queueTrap k pos q) ∧ q.cause = BitVec.ofNat 8 what.1 ∧ q.addr = m.addr n ∧ q.status = 3 ∧ q.elem = e.elem ∧
          q.info = queueInfo 0 0 q.nfault.toNat q.fovf ∧ 0 < q.nfault.toNat ∧ q.nfault.toNat ≤ 16 ∧ (q.fovf = true → q.nfault = 16) ∧
          ((∀ j, active j → j ≠ n → ∃ y, s.access h.ctx (m.addr j) need = .ok y) → q.nfault = 1) ∧ (h.area = none → t = s) ∧
          (∀ a, h.area = some a → MemKeptBut s t (a + 0x1000) 512 ∧ t.readNat (a + 0x1000) 32 = what.1 + 2 ^ 8 * (what.2.1 % 2 ^ 56) +
            2 ^ 64 * what.2.2 + 2 ^ 96 * n + 2 ^ 140 * ((m.addr n).toNat / 4096) + 2 ^ 192 * (m.addr n).toNat))) ∧
    (∀ p l n, e.issued = true → e.paddrs = p :: l →
      let c := cluster h m.fmt
      let now := e.paddrs.filter fun x => x.1 / c == p.1 / c
      (∃ x, x ∈ now ∧ x.1 = n) → (∀ x, x ∈ now → s.deadAt x.2.2 = none ∧ s.corrupted x.2.2 = false) →
      let q := fun cause : BitVec 8 =>
        ({ cause := cause, info := queueInfo 0 n 0 false, addr := m.addr n, status := 2, elem := BitVec.ofNat 16 (max (p.1 / c * c) e.elem.toNat),
           nfault := 0, fovf := false } : QueueTrap)
      exec (.vectorMemoryResponse k (.error n)) s = .next (s.queueTrap k pos (q 0x13)) ∧
        exec (.vectorMemoryResponse k (.dead n)) s = .next (s.queueTrap k pos (q 0x17)))) ∧
  (∀ (s : State) (k : HartKey) (h : Hart) (sl : SlotId) (pos : Nat) (e : Entry), s.hart? k = some h → h.inSlot = true → h.sched.slot = some sl →
    h.turn = some pos → h.queue[pos]? = some e → e.check = none → exec (.vqEntryIssue k) s = .next (s.queueTrap k pos (faultedTrap e 0x01 0 0))) ∧
  (∀ (s : State) (k : HartKey) (h : Hart) (pos : Nat) (e : Entry) (q : QueueTrap), s.hart? k = some h → h.queue[pos]? = some e → h.sent = false →
    let info := q.info + BitVec.ofNat 64 e.place
    (h.delegates q.cause = false → h.csr.evec ≠ 0 →
      ∃ g, (s.queueTrap k pos q).hart? k = some g ∧ g.level = .s ∧ g.pc = h.csr.evec ∧ g.csr.ecause = q.cause ∧ g.csr.epc = h.pc ∧ g.csr.einfo = info ∧
        g.csr.eaddr = q.addr ∧ g.csr.qtrap = true ∧ g.csr.pp = h.level.code ∧ g.x = h.x ∧ g.f = h.f ∧
        (h.level ≠ .t → g.queue = h.queue.take pos) ∧
        (∀ a, h.level = .t → h.area = some a → h.queue.length + (s.heldEntries h).length ≤ 32 → Inv s →
          g.queue = [] ∧ (s.queueTrap k pos q).imageCount a = (s.heldEntries h).length + h.queue.length)) ∧
    (h.delegates q.cause = true →
      ∃ g l, (s.queueTrap k pos q).hart? k = some g ∧ g.level = .t ∧ g.pc = h.csr.uvec ∧
        g.csr = { h.csr with ucause := q.cause, uepc := h.pc, uinfo := info, uaddr := q.addr } ∧ g.queue = h.queue.take pos ∧ g.held = .queue l ∧
        l.length = h.queue.length - pos + (s.heldEntries h).length ∧ (∃ d, l.head? = some d ∧ d.insn = e.insn ∧ d.status = q.status ∧
          (e.restored = true ∨ q.elem.toNat ≤ e.bound → d.elem = q.elem) ∧ (e.restored = false → e.bound < q.elem.toNat → d.elem.toNat = e.bound) ∧
          d.nfault = q.nfault) ∧ g.x = h.x ∧ g.f = h.f ∧ MemKept s (s.queueTrap k pos q)))

/-- R62, R318, R447, R50: an undefined word traps ILLEGAL_INSN with its word or words in einfo; a hart at its run limit traps RUN_LIMIT with its
entry in einfo and is an ordinary hart from then on; an interrupt that can be taken traps with its source in einfo.
R457 to R459: with single step on, an instruction that completes at T makes a STEP due, of its address, with bit 1 where it has moved the hart; at its next
boundary at T, with the queue empty, the hart takes STEP and executes nothing, also where an interrupt is due; with entries queued it waits for them; at S nothing
is stepped. STEP saves the next pc in epc, the report in einfo and 0 in eaddr, and the hart goes on at S at evec. -/
def Obligations.BoundaryTraps : Prop :=
  ∀ (s : State) (h : Hart),
    (∀ w0 w1, s.curHart? = some h → h.level = .t ∨ h.queue = [] → exec (.illegalWord w0 w1) s =
      .next (s.trap h.key (.scalar 0x01 (if longMajor (w0.extractLsb' 26 6) then w1 ++ w0 else w0.setWidth 64) 0))) ∧
    (s.hart? h.key = some h → h.csr.evec ≠ 0 → h.limitDue = true → (s.part h.key.part).state = .running →
      ∃ t g, exec (.runLimit h.key) s = .next t ∧ t.hart? h.key = some g ∧ g.csr.ecause = 0x16 ∧ g.csr.einfo = BitVec.ofNat 64 h.entry ∧
        g.csr.epc = h.pc ∧ g.pc = h.csr.evec ∧ g.level = .s ∧ g.rtc = false ∧ g.x = h.x ∧ g.f = h.f) ∧
    (∀ src rest, s.hart? h.key = some h → h.csr.evec ≠ 0 → h.irqs = src :: rest → h.interruptible = true →
      ∃ t g, exec (.interrupt h.key) s = .next t ∧ t.hart? h.key = some g ∧ g.csr.ecause = 0x80 ∧ g.csr.einfo = BitVec.ofNat 64 src ∧
        g.csr.epc = h.pc ∧ g.pc = h.csr.evec ∧ g.level = .s ∧ g.csr.ie = false ∧ g.csr.pie = h.csr.ie ∧ g.irqs = rest ∧ g.x = h.x ∧ g.f = h.f) ∧
    (s.hart? h.key = some h → h.level = .s → h.csr.ie = false → exec (.interrupt h.key) s = .next s) ∧
    (∀ i f pc, s.hart? h.key = some h → (∀ g : Hart, (f g).key = g.key) → ∃ g, (jumped s h i f pc).hart? h.key = some g ∧
      (h.level = .t → h.csr.step = true → g.sched.stepDue = some ((h.pc &&& ~~~ 3#64) ||| (if h.hasMoved = true then 2 else 0))) ∧
      (h.level = .t → h.csr.step = false → g.sched.stepDue = none) ∧ (h.level ≠ .t → g.sched.stepDue = (f h).sched.stepDue)) ∧
    (∀ info, h.sched.resume = false → h.sched.rotate = false → h.sent = false → h.level = .t → h.csr.step = true → h.sched.stepDue = some info →
      let b : State := { s with inputs := s.inputs.drop 1 }
      let c : State := { b with cur := some h.key, eventTurn := true }
      (h.queue = [] → s.hart? h.key = some h → h.csr.evec ≠ 0 →
        (∃ g, (c.stepTrap h.key info).hart? h.key = some g ∧ g.csr.ecause = 0x0D ∧ g.csr.einfo = info ∧ g.csr.eaddr = 0 ∧ g.csr.epc = h.pc ∧
          g.pc = h.csr.evec ∧ g.level = .s ∧ g.csr.pp = 0 ∧ g.csr.qtrap = false ∧ g.sched.stepDue = none ∧ g.irqs = h.irqs ∧ g.x = h.x ∧ g.f = h.f) ∧
        (s.input? = none → s.eventTurn = false ∨ b.partEvent = none → b.nextHart = some h →
          step s = .next (ended ((c.stepTrap h.key info).endTurn h false)))) ∧
      (h.queue ≠ [] → h.sched.status ≠ .waiting → s.boundary h = some (.next (s.modHart h.key fun g => { g with stall := true })))) ∧
    (h.level ≠ .t → h.dueStep = none)

/-- R245, R257, R267, R274, R306, R316, R322, R413: an event lets a waiting hart try its instruction again, which join, fclaim, wmwait and bar.wait do by executing, and the
head of the queue, for cbinit, cbwait, waitmsg and collwait, by issuing: a join whose task has ended, or is none, a fclaim that may claim, has nothing to claim or no farm, a wmwait whose
farm is gone or has reached its mark, a bar.wait whose phase has ended, a cbinit of a barrier with no copy in flight, a cbwait that has its bytes or nothing more to come, a waitmsg with
a message and a collwait with a status, or of no handle, complete, and the hart runs on. A hart that does not wait is left alone. -/
def Obligations.WaitsEnd : Prop :=
  ∀ (s : State) (h : Hart), s.hart? h.key = some h →
    (h.sched.status ≠ .waiting → exec (.waitResume h.key) s = .next s) ∧
    (h.sched.status = .waiting →
      (∀ i u, h.waitFor = some i → (∃ d a, i = .join d a ∨ i = .fclaim d a ∨ i = .wmwait d a) ∨ (∃ a sc, i = .barWait a sc) →
        exec i { s with cur := some h.key } = .next u →
        exec (.waitResume h.key) s = .next { u with cur := if u.cur = some h.key then s.cur else u.cur }) ∧
      (h.waitFor = none → exec (.waitResume h.key) s = exec (.vqEntryIssue h.key) s) ∧
      (let goes := fun (i : Instr) (l : List Reg) (P : State → Hart → Prop) => h.waitFor = some i → Ready { s with cur := some h.key } h i →
         ∃ t g, exec (.waitResume h.key) s = .next t ∧ t.cur = s.cur ∧ t.hart? h.key = some g ∧ g.pc = h.pc + 4 ∧ g.sched.status = .running ∧
           g.waitFor = none ∧ XKept h g l ∧ g.f = h.f ∧ MemKept s t ∧ P t g
       let p := s.part h.key.part
       (∀ d a : Reg,
         let own := p.tasks.find? fun t => zext64 t.handle == h.getX a && t.source == .hart h.task && t.handle != h.task
         let gives := fun v : Word => goes (.join d a) [d] fun t g => (d ≠ 0 → g.getX d = v) ∧ OthersKept s t h.key
         (own = none → gives (BitVec.ofInt 64 (-5))) ∧
         (∀ t, own = some t → t.pending = false → t.live = 0 → gives (if t.terminated then BitVec.ofInt 64 (-6) else 0))) ∧
       (∀ d a : Reg,
         let gives := fun v : Word => goes (.fclaim d a) [d] fun t g => (d ≠ 0 → g.getX d = v) ∧ OthersKept s t h.key
         (p.farm? (h.getX a) = none → gives (BitVec.ofInt 64 (-2))) ∧
         (∀ f, p.farm? (h.getX a) = some f →
           (f.total ≤ f.claim * f.strip → gives (BitVec.ofInt 64 (-1))) ∧
           (f.claim * f.strip < f.total → f.claim < f.mark / f.strip + 4096 → p.upstreamReady f = true → gives (BitVec.ofNat 64 f.claim)))) ∧
       (∀ a b : Reg, (∀ f, p.farm? (h.getX a) = some f → min (h.getX b).toNat f.total ≤ f.mark) → goes (.wmwait a b) [] fun t _ => OthersKept s t h.key) ∧
       (∀ (a : Reg) (sc : Scope) (x : Xlat), (h.getX a).toNat % 64 = 0 → s.access h.ctx (h.getX a) .atomic = .ok x → Plain x.pa → s.deadAt x.pa = none →
         s.silentAt x.pa = false → s.corrupted x.pa = false → h.arriving (h.getX a) = false → s.scalarLocked h (h.getX a) 64 = false →
         h.pathHolds x.pa 64 = false → h.eng.arrivals.lookup (h.getX a) ≠ some (s.phase x.pa) →
         goes (.barWait a sc) [] fun _ g => g.eng.arrivals.lookup (h.getX a) = none)) ∧
      (∀ sl pos e i, Turn s h.key h sl pos e i → h.waitFor = none →
        (∃ a b hint, i = .cbinit a b hint ∧ (h.eng.cb[b]).infl = 0) ∨
        (∃ d b hint, i = .cbwait d b hint ∧ ((h.eng.cb[b]).infl = 0 ∨ (h.eng.cb[b]).exp ≤ (h.eng.cb[b]).count)) ∨
        (∃ hint, i = .waitmsg hint ∧ h.eng.mbx ≠ []) ∨
        (∃ d a hint, i = .collwait d a hint ∧ ((∀ c, c ∈ h.eng.colls → c.1.setWidth 64 ≠ e.opa) ∨
          ∃ hd z, h.eng.colls.find? (fun c => c.1.setWidth 64 == e.opa) = some (hd, some z))) →
        ∃ t g, exec (.waitResume h.key) s = .next t ∧ t.hart? h.key = some g ∧ g.queue = h.queue.eraseIdx pos ∧ g.sched.status = .running ∧ g.pc = h.pc ∧
          g.f = h.f ∧ MemKept s t))

/-- R331, R332, R334: vquery reads a doubleword of a vault's record; vdrop starts a walk; vdef, vresize and tdset answer the status of the
first check that fails (of tdset in the order of log 31), or 0 with their effect; tdget reads a doubleword of a descriptor. Hint code 1 has the read of
the record fill its line in any vault (R83, Table 14.4). -/
def Obligations.VaultInstructions : Prop :=
  ∀ (s : State) (h : Hart) (d a b : Reg) (hint : Hint), s.hart? h.key = some h →
    (Ready s h (.vquery d a b) →
      let i : BitVec 8 := (h.getX a).setWidth 8
      let r := match (s.part h.key.part).vault? i with | some v => v.record | none => i.toNat
      exec (.vquery d a b) s = .next (done s h (.vquery d a b) fun g =>
        g.setX d (if (h.getX b).toNat < 32 then BitVec.ofNat 64 (r / 2 ^ (64 * (h.getX b).toNat)) else 0))) ∧
    (Ready s h (.vdrop d a) →
      let i : BitVec 8 := (h.getX a).setWidth 8
      (i = 255 → exec (.vdrop d a) s = .next (done s h (.vdrop d a) fun g => g.setX d 2)) ∧
      (i ≠ 255 → (s.part h.key.part).vault? i = none → exec (.vdrop d a) s = .next (done s h (.vdrop d a) fun g => g.setX d 6)) ∧
      (∀ v, i ≠ 255 → (s.part h.key.part).vault? i = some v → v.state ≠ .active →
        exec (.vdrop d a) s = .next (done s h (.vdrop d a) fun g => g.setX d 7)) ∧
      (∀ v, i ≠ 255 → (s.part h.key.part).vault? i = some v → v.state = .active →
        ∃ t g w, exec (.vdrop d a) s = .next t ∧ t.hart? h.key = some g ∧ g.getX d = 0 ∧ HartKept h g (.vdrop d a) [d] ∧ MemKept s t ∧
          OthersKept s t h.key ∧ (t.part h.key.part).vault? i = some w ∧ w.state = .dropping ∧ w.shares = v.shares)) ∧
    (Ready s h (.tdget d a b) →
      let z := (s.part h.key.part).tdOf h.csr.asid
      exec (.tdget d a b) s = .next (done s h (.tdget d a b) fun g =>
        g.setX d (if (h.getX a).toNat < z.2 ∧ (h.getX b).toNat < 8 then s.readWord (z.1 + 64 * (h.getX a).toNat + 8 * (h.getX b).toNat) else 0))) ∧
    (∀ x, (h.getX b).toNat % 256 = 0 → s.access h.ctx (h.getX b) .load = .ok x → s.scalarLocked h (h.getX b) 256 = false →
      h.pathHolds x.pa 256 = false → AtHand s h x 256 false →
      (hint = 1 → ∀ y, y ∈ s.readNeeds (h.via x) x.pa 256 (some true) → Granted (s.cxlState y) false) →
      let r := leNat (s.view (h.via x) x.pa 256)
      let p := s.part h.key.part
      let n := Vault.ofRecord r
      (Ready s h (.vdef d b hint) →
        let z : Word := if (p.vault? n.index).isSome then 1 else if vdrBad r then 2 else if p.conflict n.index (waysOf n.shares n.ways) then 3
          else if p.outside (waysOf n.shares n.ways) then 4 else 0
        ∃ t g, exec (.vdef d b hint) s = .next t ∧ t.hart? h.key = some g ∧ (d ≠ 0 → g.getX d = z) ∧ HartKept h g (.vdef d b hint) [d] ∧
          MemKept s t ∧ OthersAlike s t h.key ∧ (t.part h.key.part).vaults = (if z = 0 then p.vaults ++ [n] else p.vaults)) ∧
      (Ready s h (.vresize d a b hint) →
        let i : BitVec 8 := (h.getX a).setWidth 8
        (p.vault? i = none → ∃ t g, exec (.vresize d a b hint) s = .next t ∧ t.hart? h.key = some g ∧ (d ≠ 0 → g.getX d = 6) ∧
          HartKept h g (.vresize d a b hint) [d] ∧ MemKept s t ∧ (t.part h.key.part).vaults = p.vaults) ∧
        (∀ v, p.vault? i = some v →
          let z : Word := if v.state ≠ .active then 7 else if vdrBad r then 2 else if p.conflict i (waysOf n.shares n.ways) then 3
            else if p.outside (waysOf n.shares n.ways) then 4 else if n.index ≠ i ∨ n.lineLog ≠ v.lineLog ∨ n.write ≠ v.write then 5 else 0
          ∃ t g w, exec (.vresize d a b hint) s = .next t ∧ t.hart? h.key = some g ∧ (d ≠ 0 → g.getX d = z) ∧
            HartKept h g (.vresize d a b hint) [d] ∧ MemKept s t ∧ (t.part h.key.part).vault? i = some w ∧ (z ≠ 0 → w = v) ∧
            (z = 0 → w.state = .migrating ∧ w.shares = n.shares ∧ w.ways = n.ways ∧ w.oldShares = v.shares ∧ w.oldWays = v.ways ∧
              w.gen = v.gen ∧ w.issuer = some h.key)))) ∧
    (∀ x, Inv s → (h.getX b).toNat % 64 = 0 → s.access h.ctx (h.getX b) .load = .ok x → s.scalarLocked h (h.getX b) 64 = false →
      h.pathHolds x.pa 64 = false → AtHand s h x 64 false →
      (hint = 1 → ∀ y, y ∈ s.readNeeds (h.via x) x.pa 64 (some true) → Granted (s.cxlState y) false) →
      Ready s h (.tdset d a b hint) →
      let r := leNat (s.view (h.via x) x.pa 64)
      (∀ z, (s.part h.key.part).tdCheck h.key.part.val (h.getX a) r = .error z →
        ∃ t g, exec (.tdset d a b hint) s = .next t ∧ t.hart? h.key = some g ∧ (d ≠ 0 → g.getX d = BitVec.ofNat 64 z) ∧
          HartKept h g (.tdset d a b hint) [d] ∧ MemKept s t) ∧
      (∀ pa m, (s.part h.key.part).tdCheck h.key.part.val (h.getX a) r = .ok pa → placeOf pa = .hbm m → h.key.part ≠ 16 → s.deadAt pa = none →
        s.writeWaits pa .package = none → s.hostWrites = [] → x.pa % 64 = 0 → pa % 64 = 0 → regionOf pa ≠ regionOf x.pa →
        ∃ t g, exec (.tdset d a b hint) s = .next t ∧ t.hart? h.key = some g ∧ g.getX d = 0 ∧ g.pc = h.pc + 8 ∧ XKept h g [d] ∧ FKept h g [] ∧
          t.readNat pa 64 = r ∧ MemKeptBut s t pa 64))

/-- R327, R328, R440: cinv, cwb and cflush over a readable range wait for older accesses of its bytes and for what would keep a write-back from being performed at
system scope, and then treat its lines: cinv and cflush leave no line
of the range, cwb leaves none dirty; cwb and cflush change no byte; cinv gives each dirty sector of a line that lies wholly inside the range the value of memory
again, which the line saved, and changes no other byte. A length of 0 does nothing; a range that fails its checks traps. tlbinv sends its message to every awake core and waits; a core that has performed what used the translations discards those
that the message covers and acknowledges; with the last acknowledgement tlbinv completes. -/
def Obligations.CacheMaintenance : Prop :=
  (∀ (s : State) (h : Hart) (i : Instr) (y : Treat) (a b : Reg), Inv s → s.hart? h.key = some h →
      (i = .cinv a b ∧ y = .inv) ∨ (i = .cwb a b ∧ y = .wb) ∨ (i = .cflush a b ∧ y = .flush) → Ready s h i →
      let need := if y = .inv then (if h.level = .t then some Need.store else none) else some Need.load
      (h.getX b = 0 → exec i s = .next (done s h i id)) ∧
      (∀ t, h.getX b ≠ 0 → rangeCheck s h (h.getX a) (h.getX b).toNat need (y == .inv) = .error t → h.level = .t ∨ h.queue = [] →
        exec i s = .next (trapped s h t)) ∧
      (∀ l, h.getX b ≠ 0 → rangeCheck s h (h.getX a) (h.getX b).toNat need (y == .inv) = .ok l → s.rangeBusy h (h.getX a) (h.getX b).toNat = false →
        (∀ x, x ∈ l → s.writeBackWaits h.key.part x = false) → (release s h .package fun _ => true) = none → s.corrupt = [] →
        ∃ t g, exec i s = .next t ∧ t.hart? h.key = some g ∧ HartKept h g i [] ∧ OthersKeptButResv s t h.key ∧
          (y ≠ .inv → MemKept s t) ∧
          ((∀ m old, m ∈ s.lines → Sector.dirty old ∈ m.sectors → old.length = 64) →
            (∀ p, (∀ m x, m ∈ s.lines → x ∈ l → m.holds p = true → m.inPiece h.key.part x = true → m.within x = false ∨ (m.sector p).isDirty = false) →
              Mem.get t.mem p = Mem.get s.mem p) ∧
            ∀ m n old p, y = .inv → m ∈ s.lines → (∃ x, x ∈ l ∧ m.inPiece h.key.part x = true) →
              (∀ x, x ∈ l → m.inPiece h.key.part x = true → m.within x = true) → m.sectors[n]? = some (.dirty old) →
              m.tag + 64 * n ≤ p → p < m.tag + 64 * n + 64 → (∀ q, q ∈ s.lines → q.holds p = true → q = m) →
              old[p - (m.tag + 64 * n)]? = some (Mem.get t.mem p)) ∧
          ∀ m x, m ∈ t.lines → x ∈ l → m.inPiece h.key.part x = true → y = .wb ∧ ∀ z, z ∈ m.sectors → z.isDirty = false)) ∧
  (∀ (s : State) (h : Hart) (a b c : Reg) (all : Bool) (hint : Hint), s.hart? h.key = some h →
      let who : Option (BitVec 10) := if all then none else some ((h.getX a).setWidth 10)
      let same := fun t : TlbInv => t.hart == h.key && t.asid == who && t.base == (h.getX b).toNat && t.len == (h.getX c).toNat
      (Ready s h (.tlbinv a b c all hint) → s.tlbinvs.find? same = none →
        ∃ t g r, exec (.tlbinv a b c all hint) s = .next t ∧ t.hart? h.key = some g ∧ g = { h with stall := true } ∧ t.tlbinvs = s.tlbinvs ++ [r] ∧
          same r = true ∧ r.part = h.key.part ∧ r.waiting = s.awakeCores ∧ MemKept s t) ∧
      (∀ r, Ready s h (.tlbinv a b c all hint) → s.tlbinvs.find? same = some r → r.waiting = [] →
        exec (.tlbinv a b c all hint) s =
          .next (done { s with tlbinvs := s.tlbinvs.filter fun u => u.id != r.id } h (.tlbinv a b c all hint) id)) ∧
      (∀ r n, r ∈ s.tlbinvs → (∀ u, u ∈ s.tlbinvs → u.id = r.id → u = r) → n ∈ r.waiting → s.coreBusy r.part n = false → s.invOwns r = true →
        ∃ t, exec (.tlbinvAck r.id n) s = .next t ∧ t.harts = s.harts ∧ MemKept s t ∧ { r with waiting := r.waiting.filter (· != n) } ∈ t.tlbinvs ∧
          ∀ e, e ∈ t.tlb → e.core = n → e.part = r.part → (r.asid = none ∨ e.global = true ∨ r.asid = some e.asid) →
            pageMeets r.base r.len e.vpage e.size = false))

/-- R332, R358: a step of a vault's walk drops the next line of the old placement that does not stand at its new place, and counts it where
it is dirty; after the last line a migrating vault is active with the next generation, and a dropped vault is free. No byte changes. -/
def Obligations.VaultWalks : Prop :=
  ∀ (s : State) (p : Fin 17) (n : Fin 256) (v : Vault), (s.part p).vault? (BitVec.ofNat 8 n.val) = some v →
    (v.state ≠ .migrating → v.state ≠ .dropping → exec (.vaultWalkStep p n) s = .next s) ∧
    (v.state = .migrating → s.nextLine p v = none →
      ∃ t w, exec (.vaultWalkStep p n) s = .next t ∧ MemKept s t ∧ (t.part p).vault? v.index = some w ∧ w.state = .active ∧ w.gen = v.gen + 1 ∧
        w.shares = v.shares ∧ w.oldShares = []) ∧
    (v.state = .dropping → s.nextLine p v = none →
      ∃ t, exec (.vaultWalkStep p n) s = .next t ∧ MemKept s t ∧ (t.part p).vault? v.index = none) ∧
    (∀ k l, v.state = .dropping ∨ (v.state = .migrating ∧ v.placed l = false) → s.nextLine p v = some (k, l) →
      ∃ t w, exec (.vaultWalkStep p n) s = .next t ∧ MemKept s t ∧ l ∉ t.lines ∧ (t.part p).vault? v.index = some w ∧ w.walk = k + 1 ∧
        w.wback = v.wback + (if l.sectors.any Sector.isDirty then 1 else 0) ∧ w.state = v.state)

/-- Table 15.3, R373 to R376, R387: a die's request at a region's entry: P leaves its owner alone and turns to F for another die; a write in F
leaves the writer as the one holder of its sector; a read in R gives a lease of 2 µs, and a write closes the region while a lease is live and
recalls those with more than 1 µs left, else forms F. A read of a die without a lease waits while the region closes, and is served in F. A lease ends when its time has come or its recall is acknowledged, with the
stale copies of its die; a region in F whose one die has asked for a millisecond decays to P. No byte changes. (No write of a host waits for the
region.) -/
def Obligations.RegionEvents : Prop :=
  ∀ (s : State) (pa home : Nat) (d : Fin 6), placeOf pa = .hbm home → s.hostWrites = [] →
    let r := regionOf pa
    let sec := pa / 64 * 64
    (s.regionAlive r = true → s.alive (.die d) = true →
      ∃ t u, exec (.regionRequest pa d false) s = .next t ∧ exec (.regionRequest pa d true) s = .next u ∧ MemKept s t ∧ MemKept s u ∧
        t.harts = s.harts ∧ ((∀ l, (s.region r).state ≠ .r l) → u.harts = s.harts) ∧
        ((s.region r).state = .p d.val → (t.region r).state = .p d.val ∧ (u.region r).state = .p d.val) ∧
        (∀ o, (s.region r).state = .p o → o ≠ d.val →
          (t.region r).state = .f [o] [(sec, [d.val, o])] ∧ (u.region r).state = .f [o] [(sec, [d.val])]) ∧
        (∀ b l, (s.region r).state = .f b l → (u.region r).holders sec = [d.val]) ∧
        (∀ l, (s.region r).state = .r l →
          (d.val ≠ home → (s.region r).leased s.time d.val = false → (s.region r).closing = none → (t.region r).lease? d.val = some (s.time + 2000)) ∧
          (d.val ≠ home → (s.region r).leased s.time d.val = false → (s.region r).closing.isSome = true →
            (sec, d.val) ∈ (t.region r).waiting ∧ (t.region r).state = .r l) ∧
          ((∀ x, x ∈ l → x.2 ≤ s.time) → (∃ b hs, (u.region r).state = .f b hs) ∧ (u.region r).waiting = [] ∧
            ∀ w, w ∈ (s.region r).waiting → w.2 ∈ (u.region r).holders w.1) ∧
          (∀ x, x ∈ l → s.time < x.2 → (u.region r).state = .r l ∧ (u.region r).closing.isSome = true ∧
            ((s.region r).closing = none → s.time + 1000 < x.2 → x.1 ∈ (u.region r).recalled)))) ∧
    (∀ x, (s.region r).lease? d.val = some x →
      (s.time < x → exec (.leaseExpiry r d) s = .next s) ∧
      (x ≤ s.time → ∃ t, exec (.leaseExpiry r d) s = .next t ∧ MemKept s t ∧ (t.region r).lease? d.val = none ∧
        ∀ y, y ∈ t.stale → y.die = d.val → regionOf y.sector ≠ r)) ∧
    (d.val ∈ (s.region r).recalled → s.alive (.die d) = true → ∃ t, exec (.leaseRecallAck r d) s = .next t ∧ MemKept s t ∧ (t.region r).lease? d.val = none ∧
      ∀ y, y ∈ t.stale → y.die = d.val → regionOf y.sector ≠ r) ∧
    (∀ b l, (s.region r).state = .f b l → s.regionAlive r = true → (s.region r).askers = [d.val] → s.alive (.die d) = true →
      (s.time < (s.region r).decayFrom + 1000000 → exec (.regionDecay r) s = .next s) ∧
      ((s.region r).decayFrom + 1000000 ≤ s.time →
        ∃ t, exec (.regionDecay r) s = .next t ∧ MemKept s t ∧ (t.region r).state = .p d.val ∧ HartsAlike s t))

/-- R248 to R251, R253, R254, R256, R257, R260, R288: a copy whose ranges meet no older access that is still to come is accepted: it takes the hart's next id, which is its answer, and counts in its barrier; bad arguments
make it end BADARG without a transfer. cpyt copies between a box and a packed range, and a handle that fails its check traps TENSOR_HANDLE; cpyr copies the missing bytes of a
replay record again and frees it, and is NORECORD without one. The bytes of a copy are read, then written, each where its address translates to; a copy that is over
adds its bytes to its barrier or sends its message. (That one COPY_TRANSFER moves up to 4,096 bytes, and that all are read before the first is written, is log 41; when a replay record
counts as intact is log 26.) -/
def Obligations.Copies : Prop :=
  ∀ (s : State) (k : HartKey) (h : Hart), s.hart? k = some h →
    (∀ sl pos e o, Turn s k h sl pos e (.cpy o) → (s.copies.filter fun c => c.core == h.core).length < 1024 →
      let a : CopyArgs := { dst := e.opa, src := e.opb, len := e.opc.toNat, box := none }
      copyWaits s h a = false →
      ∃ t g c, exec (.vqEntryIssue k) s = .next t ∧ t.hart? k = some g ∧ Accepted s t h g pos o.xd c ∧ c.args = a ∧ c.dlv = o.dlv ∧ c.hint = o.hint ∧
        c.todo = [(0, e.opc.toNat)] ∧ c.finished = (if badCopy a then some 0x03 else if e.opc = 0 then some 0x00 else none)) ∧
    (∀ sl pos e o, Turn s k h sl pos e (.cpyt o) →
      (∀ r, s.handle h e.opc = .error r →
        exec (.vqEntryIssue k) s = .next (s.queueTrap k pos (faultedTrap e 0x09 (BitVec.ofNat 64 (e.opc.toNat % 65536 * 65536 + r * 256)) 0))) ∧
      (∀ d, s.handle h e.opc = .ok d → (s.copies.filter fun c => c.core == h.core).length < 1024 →
        let a : CopyArgs := { dst := e.opa, src := e.opb, len := d.bytes, box := some (d, o.boxDst) }
        copyWaits s h a = false →
        ∃ t g c, exec (.vqEntryIssue k) s = .next t ∧ t.hart? k = some g ∧ Accepted s t h g pos o.xd c ∧ c.args = a ∧ c.dlv = o.dlv ∧ c.hint = o.hint ∧
          c.todo = [(0, d.bytes)] ∧ c.finished = (if badCopy a then some 0x03 else if d.bytes = 0 then some 0x00 else none))) ∧
    (∀ sl pos e xd id dest hint, Turn s k h sl pos e (.cpyr xd id dest hint) → (s.copies.filter fun c => c.core == h.core).length < 1024 →
      ((∀ r, r ∈ h.eng.replays → r.id.setWidth 64 = e.opa → s.replayIntact h r = false) → copyWaits s h { dst := 0, src := 0, len := 0, box := none } = false →
        ∃ t g c, exec (.vqEntryIssue k) s = .next t ∧ t.hart? k = some g ∧ Accepted s t h g pos xd c ∧ c.finished = some 0x04 ∧
          g.eng.replays = h.eng.replays ∧ c.dlv = dest) ∧
      (∀ r, h.eng.replays.find? (fun x => x.id.setWidth 64 == e.opa) = some r → s.replayIntact h r = true → copyWaits s h r.args = false →
        ∃ t g c, exec (.vqEntryIssue k) s = .next t ∧ t.hart? k = some g ∧ Accepted s t h g pos xd c ∧ c.finished = none ∧ c.args = r.args ∧
          c.todo = r.missing ∧ c.dlv = dest ∧ g.eng.replays = h.eng.replays.filter fun x => x.id != r.id)) ∧
    (∀ c (p : Nat → Nat), c ∈ s.copies → c.hart = k → (∀ x, x ∈ s.copies → x.hart = k → x.id = c.id → x = c) → c.finished = none → c.lost = [] → c.missing = [] →
      k.part ≠ 16 → s.stale = [] → Inv s →
      (let l := runSlice c.todo c.rd 4096
       c.rd < runTotal c.todo →
       (∀ i, i ∈ l → ∃ x, s.access c.ctx (c.args.srcAddr i) .load = .ok x ∧ x.pa = p i ∧ x.entry ∈ s.tlb ∧
         ReadReady s (c.ctx.via x.vault) (p i) 1 (engineAlloc c.hint)) →
       ∃ t d, exec (.copyTransfer k c.id []) s = .next t ∧ HartsAlike s t ∧ MemKept s t ∧ d ∈ t.copies ∧
         d = { c with rd := c.rd + l.length, buf := c.buf ++ l.map fun i => (i, Mem.get s.mem (p i)) }) ∧
      (let l := runSlice c.todo c.wr 4096
       runTotal c.todo ≤ c.rd → s.hostWrites = [] →
       (∀ i, i ∈ l → s.deadAt (p i) = none ∧ s.silentAt (p i) = false ∧ (∃ m, placeOf (p i) = .hbm m) ∧ (c.buf.lookup i).isSome = true ∧
         ∃ x, s.access c.ctx (c.args.dstAddr i) .store = .ok x ∧ x.pa = p i ∧ x.entry ∈ s.tlb) →
       (∀ i j, i ∈ l → j ∈ l → p i = p j → i = j) → l.Nodup →
       ∃ t d, exec (.copyTransfer k c.id []) s = .next t ∧ (∀ i b, i ∈ l → c.buf.lookup i = some b → Mem.get t.mem (p i) = b) ∧
         (∀ a, (∀ i, i ∈ l → p i ≠ a) → Mem.get t.mem a = Mem.get s.mem a) ∧ d ∈ t.copies ∧ d.id = c.id ∧ d.hart = k ∧ d.done = c.done + l.length ∧
         d.wr = c.wr + l.length ∧ d.finished = (if runTotal c.todo ≤ c.wr + l.length then some 0 else none))) ∧
    (∀ c st, c ∈ s.copies → c.hart = k → (∀ x, x ∈ s.copies → x.hart = k → x.id = c.id → x = c) → c.finished = some st →
      (c.dlv = .mailbox → h.mailFull = true → exec (.copyCompletion k c.id) s = .next s) ∧
      (c.dlv = .mailbox → h.eng.mbx.length < 64 → h.eng.spill = [] → h.sched.status ≠ .parked →
        ∃ t g, exec (.copyCompletion k c.id) s = .next t ∧ t.hart? k = some g ∧ c ∉ t.copies ∧
          g.eng.mbx = h.eng.mbx ++ [{ lo := BitVec.ofNat 64 (1 + 256 * st.toNat + 2 ^ 32 * c.id.toNat), hi := BitVec.ofNat 64 (c.done % 2 ^ 48) }]) ∧
      (∀ b, c.dlv = .barrier b → ∃ t g, exec (.copyCompletion k c.id) s = .next t ∧ t.hart? k = some g ∧ c ∉ t.copies ∧ (st ≠ 1 → MemKept s t) ∧ g.x = h.x ∧
        (g.eng.cb[b]).count = (h.eng.cb[b]).count + c.done ∧ (g.eng.cb[b]).infl = (h.eng.cb[b]).infl - 1 ∧ (g.eng.cb[b]).exp = (h.eng.cb[b]).exp))

/-- R263, R271, R272: a stream fetch brings the element at the position into the strip buffer, as the hart sees it (its store path, R283; else its die's view); a message
for a queue that is not open is answered RX_CLOSED, one that exceeds the buffer RX_TOOLONG, one without room RX_FULL, and one whose buffer does not translate
RX_FAULT, with a record of kind 3. A delivered one leaves its header (Table 10.12) at the tail and its payload after it, both wrapping at the buffer's end, changes no other byte,
and moves the tail. -/
def Obligations.StreamsAndMessages : Prop :=
  ∀ (s : State) (k : HartKey) (h : Hart), s.hart? k = some h →
    (∀ st t x, h.eng.streams[(st : Stream)] = some t → t.pos < t.length → t.buf.lookup t.pos = none → t.withheld = [] → h.csr.vl ≠ 0 →
      s.access h.ctx (t.addr t.pos) .load = .ok x → t.first = [] → ReadReady s (h.via x) x.pa t.elemSize none →
      s.interlocked h (t.addr t.pos) t.elemSize = false → s.behind h (t.addr t.pos) t.elemSize false = false →
      ∃ u g, exec (.streamFetch k st 1 []) s = .next u ∧ u.hart? k = some g ∧ MemKept s u ∧ g.x = h.x ∧ g.pc = h.pc ∧
        (h.path = [] → s.viewVector k (h.via x) x.pa t.elemSize = s.view (h.via x) x.pa t.elemSize) ∧
        g.eng.streams[st] = some { t with buf := t.buf ++ [(t.pos, x.pa, s.viewVector k (h.via x) x.pa t.elemSize)] }) ∧
    (∀ (n : Fin 16) src pkg tag payload, payload.length % 4 = 0 → payload ≠ [] → payload.length ≤ 65536 →
      (h.eng.rx[n] = none → exec (.rxMessageArrival k n src pkg tag payload) s = .next (s.emit (.message k.part.val (BitVec.ofNat 32 k.id) 1))) ∧
      (∀ q, h.eng.rx[n] = some q →
        let size := 16 + (payload.length + 15) / 16 * 16
        (q.size < size → exec (.rxMessageArrival k n src pkg tag payload) s = .next (s.emit (.message k.part.val (BitVec.ofNat 32 k.id) 2))) ∧
        (size ≤ q.size → q.size - (q.tail - q.head) < size →
          exec (.rxMessageArrival k n src pkg tag payload) s = .next (s.emit (.message k.part.val (BitVec.ofNat 32 k.id) 3))) ∧
        (∀ va d, size ≤ q.size → size ≤ q.size - (q.tail - q.head) →
          translateAll s h.ctx .store (q.pieces q.tail 16 ++ q.pieces (q.tail + 16) payload.length) = .error (d, va) →
          let fault := fun (r v : Nat) => exec (.rxMessageArrival k n src pkg tag payload) s =
            .next ((s.faultRecord k.part { kind := 3, reason := r, vault := v, hart := k.id, id := n.val, addr := va.toNat / 4096 * 4096 }).emit
              (.message k.part.val (BitVec.ofNat 32 k.id) 4))
          (∀ r level, d = .page r level → fault r 0) ∧ ∀ r i, d = .vault r i → fault (r + 3) i.toNat) ∧
        (q.notify = false → rxOutcome s h q payload.length = (0, none) → k.part ≠ 16 → (∀ pa, s.deadAt pa = none) →
          ∃ t g, exec (.rxMessageArrival k n src pkg tag payload) s = .next t ∧ t.hart? k = some g ∧
            t.out.getLast? = some (.message k.part.val (BitVec.ofNat 32 k.id) 0) ∧ g.eng.rx[n] = some { q with tail := q.tail + size } ∧
            g.x = h.x ∧ g.pc = h.pc ∧
            ∀ p : Nat → Nat,
              let va := fun i : Nat => q.base + BitVec.ofNat 64 ((q.tail + i) % q.size)
              let len := payload.length
              let wrap := decide (q.size < (q.tail + 16) % q.size + len)
              let header := len + 2 ^ 31 + (if wrap then 2 ^ 32 else 0) + 2 ^ 64 * tag.toNat + 2 ^ 80 * pkg.toNat + 2 ^ 96 * src.toNat
              Inv s → s.hostWrites = [] →
              (∀ i, i < 16 + len → (∃ x, s.access h.ctx (va i) .store = .ok x ∧ x.pa = p i ∧ x.entry ∈ s.tlb) ∧ ∃ m, placeOf (p i) = .hbm m) →
              (∀ i j, i < 16 + len → j < 16 + len → (p i = p j → i = j) ∧
                ((va i).toNat / 4096 = (va j).toNat / 4096 → p i + (va j).toNat = p j + (va i).toNat)) →
              (∀ i, i < 16 → Mem.get t.mem (p i) = BitVec.ofNat 8 (header / 2 ^ (8 * i))) ∧
              (∀ i b, payload[i]? = some b → Mem.get t.mem (p (16 + i)) = b) ∧
              ∀ a, (∀ i, i < 16 + len → p i ≠ a) → Mem.get t.mem a = Mem.get s.mem a)))

/-- R244, R246, R257, R261, R262, R265 to R270, R274, R277: what an engine entry does when it issues. cbinit arms a barrier with no copy in flight; cbwait answers its count, with
bit 63 where it fell short; sopen binds a stream to a good block and traps for another, sclose unbinds it; mbxpop stores the oldest
mailbox entry, waitmsg is done with one there, msgsend delivers one, or answers that there is no hart or no room; rxopen closes a queue or opens one; rxpop stores
the rest of the head message and retires it; coll hands its operation to the engine under a fresh handle, or learns at once how an operation that is over
ended; collwait answers a status and forgets it. (That rxopen on an open queue answers 1 before its descriptor is judged is the model's choice, log 43; that coll waits for what
`unsettled` says is log 13.) -/
def Obligations.EngineEntries : Prop :=
  ∀ (s : State) (k : HartKey) (h : Hart) (sl : SlotId) (pos : Nat) (e : Entry) (i : Instr), Turn s k h sl pos e i →
    let waits := h.waitFor = none → h.sched.status = .running → ∃ t, exec (.vqEntryIssue k) s = .next t ∧ WaitsNow s t k h
    let ends := fun (P : State → Hart → Prop) => ∃ t g, exec (.vqEntryIssue k) s = .next t ∧ t.hart? k = some g ∧ Completed h g pos ∧ P t g
    let answers := fun (d : Reg) (v : Word) (P : State → Hart → Prop) =>
      ∃ t g, exec (.vqEntryIssue k) s = .next t ∧ t.hart? k = some g ∧ Answered h g pos d v ∧ P t g
    let kept := fun (t : State) (g : Hart) => MemKept s t ∧ g.eng = h.eng
    (∀ bytes b hint, i = .cbinit bytes b hint →
      ((h.eng.cb[b]).infl ≠ 0 → waits) ∧
      ((h.eng.cb[b]).infl = 0 → ends fun t g => MemKept s t ∧
        g.eng = { h.eng with cb := h.eng.cb.set b { exp := e.opa.toNat % 2 ^ 48, count := 0, infl := 0 } })) ∧
    (∀ d b hint, i = .cbwait d b hint →
      let x := h.eng.cb[b]
      (x.infl ≠ 0 → x.count < x.exp → waits) ∧
      (x.infl = 0 ∨ x.exp ≤ x.count → answers d (BitVec.ofNat 64 (if x.count < x.exp then x.count + 2 ^ 63 else x.count)) kept)) ∧
    (∀ block st hint x, i = .sopen block st hint → Readable s h e.opa 64 hint x →
      let b := leNat (s.view (h.via x) x.pa 64)
      let size := streamSize b
      let good := bitsOf b 511 448 = 0 ∧ bitsOf b 191 132 = 0 ∧ bitsOf b 127 64 < 2 ^ 48 ∧
        (bitsOf b 127 64 = 0 ∨ (bitsOf b 351 320 ≠ 0 ∧ bitsOf b 383 352 ≠ 0)) ∧ (s.isafeat0.getLsbD 5 = true ∨ bitsOf b 131 128 < 12)
      let even := bitsOf b 63 0 % size = 0 ∧ bitsOf b 255 192 % size = 0 ∧ bitsOf b 319 256 % size = 0 ∧ bitsOf b 447 384 % size = 0
      (¬ good → exec (.vqEntryIssue k) s = .next (s.queueTrap k pos (faultedTrap e 0x01 0 0))) ∧
      (good → ¬ even → exec (.vqEntryIssue k) s = .next (s.queueTrap k pos (faultedTrap e 0x04 0 (BitVec.ofNat 64 b)))) ∧
      (good → even → ends fun t g => MemKept s t ∧
        g.eng = { h.eng with streams := h.eng.streams.set st (some
          { base := BitVec.ofNat 64 b, length := bitsOf b 127 64, fmt := BitVec.ofNat 4 (bitsOf b 131 128), s0 := BitVec.ofNat 64 (bitsOf b 255 192),
            s1 := BitVec.ofNat 64 (bitsOf b 319 256), s2 := BitVec.ofNat 64 (bitsOf b 447 384), c0 := bitsOf b 351 320, c1 := bitsOf b 383 352,
            pos := 0, first := [], buf := [], withheld := [] }) })) ∧
    (∀ st hint, i = .sclose st hint → ends fun t g => MemKept s t ∧ g.eng = { h.eng with streams := h.eng.streams.set st none }) ∧
    (∀ d a hint, i = .mbxpop d a hint →
      (h.eng.mbx = [] → answers d 1 kept) ∧
      (∀ m l x, h.eng.mbx = m :: l → e.opa.toNat % 16 = 0 → s.access h.ctx e.opa .store = .ok x → x.pa % 16 = 0 → Quiet s x.pa → k.part ≠ 16 → Inv s →
        s.interlocked h e.opa 16 = false → s.behind h e.opa 16 true = false →
        answers d 0 fun t g => t.readNat x.pa 16 = m.lo.toNat + 2 ^ 64 * m.hi.toNat ∧ MemKeptBut s t x.pa 16 ∧ g.eng.mbx = l ++ h.eng.spill.take 1 ∧
          g.eng.spill = h.eng.spill.drop 1)) ∧
    (∀ hint, i = .waitmsg hint → (h.eng.mbx = [] → waits) ∧ (h.eng.mbx ≠ [] → ends kept)) ∧
    (∀ d a b hint x, i = .msgsend d a b hint → Readable s h e.opb 8 hint x →
      let to' : HartKey := { part := k.part, id := e.opa.toNat }
      (s.hart? to' = none → answers d 1 kept) ∧
      (∀ u, s.hart? to' = some u → u.mailFull = true → answers d 2 kept) ∧
      (∀ u, s.hart? to' = some u → u.mailFull = false → u.eng.mbx.length < 64 → u.eng.spill = [] →
        answers d 0 fun t _ => ∃ v, t.hart? to' = some v ∧ v.eng.mbx = u.eng.mbx ++
          [{ lo := BitVec.ofNat 64 (2 + k.id * 2 ^ 32), hi := BitVec.ofNat 64 (leNat (s.view (h.via x) x.pa 8)) }])) ∧
    (∀ d a q hint, i = .rxopen d a q hint →
      (e.opa = 0 → h.eng.rx[q] = none → answers d 1 kept) ∧
      (e.opa = 0 → h.eng.rx[q] ≠ none → answers d 0 fun t g => MemKept s t ∧ g.eng = { h.eng with rx := h.eng.rx.set q none }) ∧
      (∀ x, e.opa ≠ 0 → Readable s h e.opa 64 hint x →
        let b := leNat (s.view (h.via x) x.pa 64)
        let r := RxQueue.ofDesc b
        let good := bitsOf b 511 73 = 0 ∧ bitsOf b 71 70 = 0 ∧ 12 ≤ bitsOf b 69 64 ∧ bitsOf b 69 64 ≤ 30 ∧ bitsOf b 63 0 % 2 ^ bitsOf b 69 64 = 0
        (h.eng.rx[q] ≠ none → answers d 1 kept) ∧
        (h.eng.rx[q] = none → ¬ good → answers d 2 kept) ∧
        (h.eng.rx[q] = none → good → (∃ z, translateAll (s.fillTlb x) h.ctx .store (chunksOf r.base r.size) = .error z) → answers d 2 kept) ∧
        (∀ p, h.eng.rx[q] = none → good → translateAll (s.fillTlb x) h.ctx .store (chunksOf r.base r.size) = .ok p →
          (p.any (fun y => inHost y.1.pa) = true → answers d 2 kept) ∧
          (p.any (fun y => inHost y.1.pa) = false → answers d 0 fun t g => MemKept s t ∧ g.eng = { h.eng with rx := h.eng.rx.set q (some
            { base := BitVec.ofNat 64 b, sizeLog := bitsOf b 69 64, notify := b.testBit 72, head := 0, tail := 0, off := 0 }) })))) ∧
    (∀ d a q hint, i = .rxpop d a q hint →
      (h.eng.rx[q] = none → answers d (-2) kept) ∧
      (∀ r, h.eng.rx[q] = some r →
        (r.tail ≤ r.head → answers d (-1) kept) ∧
        (∀ u hd w bs y l, r.head < r.tail →
          let j : Job := { hart := h, slot := sl, entry := e }
          let len := leNat hd % 2 ^ 17
          rxRead s j hint r r.head 4 = .got u hd → rxRead u j hint r (r.head + 16 + r.off) (len - r.off) = .got w bs →
          operand w j e.opa bs.length 1 .store hint = .ready y l [] →
          answers d (BitVec.ofNat 64 bs.length) fun t g =>
            g.eng.rx[q] = some { r with head := r.head + 16 + 16 * ((len + 15) / 16), off := 0 } ∧
            (∀ x, l = [(x, bs.length)] → Quiet y x.pa → x.pa % 64 + bs.length ≤ 64 → k.part ≠ 16 → Inv s →
              let z := y.writePieces j (h.slotMask e.opa bs.length) hint [] l bs
              (∀ ps p, translateAll z h.ctx .store (r.pieces (r.head + 3) 1) = .ok ps → p ∈ ps →
                Quiet z p.1.pa ∧ (p.1.pa < x.pa ∨ x.pa + bs.length ≤ p.1.pa)) →
              t.readNat x.pa bs.length = leNat bs)))) ∧
    (∀ o, i = .coll o →
      (16 ≤ h.eng.colls.length → answers o.xd 0 kept) ∧
      (h.eng.colls.length < 16 → h.path = [] → (∀ c, c ∈ s.copies → c.hart ≠ k) → (∀ y, h.queue.head? = some y → y.marks = false) →
        s.unsettled h o.scope = false → release s h o.scope (fun _ => true) = none →
        ∃ hd : Half, hd ≠ 0 ∧ (∀ c, c ∈ h.eng.colls → c.1 ≠ hd) ∧
          ((s.part k.part).group? o.group.val = none → answers o.xd (hd.setWidth 64) fun t g => MemKept s t ∧
            g.eng = { h.eng with colls := h.eng.colls ++ [(hd, some 3)] }) ∧
          (∀ gr, (s.part k.part).group? o.group.val = some gr → s.rankOf gr k = none → answers o.xd (hd.setWidth 64) fun t g => MemKept s t ∧
            g.eng = { h.eng with colls := h.eng.colls ++ [(hd, some 3)] }) ∧
          (∀ gr r, (s.part k.part).group? o.group.val = some gr → s.rankOf gr k = some r →
            let n := h.eng.collK[o.group]
            (∀ c, s.coll? k.part o.group.val n = some c → c.settled = none) →
            answers o.xd (hd.setWidth 64) fun t g => MemKept s t ∧
              g.eng = { h.eng with colls := h.eng.colls ++ [(hd, none)], collK := h.eng.collK.set o.group (n + 1) } ∧
              ∃ c m, t.coll? k.part o.group.val n = some c ∧ m ∈ c.members ∧ m.rank = r ∧ m.hart = some k ∧ m.handle = hd ∧ m.fmt = o.fmt ∧ m.op = o.op ∧
                m.scope = o.scope ∧ m.count = e.opc ∧ m.dst = e.opa ∧ m.src = e.opb) ∧
          (∀ gr r c z, (s.part k.part).group? o.group.val = some gr → s.rankOf gr k = some r →
            s.coll? k.part o.group.val h.eng.collK[o.group] = some c → c.settled.map (·.1) = some z →
            answers o.xd (hd.setWidth 64) fun t g => MemKept s t ∧
              g.eng = { h.eng with colls := h.eng.colls ++ [(hd, some z)], collK := h.eng.collK.set o.group (h.eng.collK[o.group] + 1) }))) ∧
    (∀ d a hint, i = .collwait d a hint →
      ((∀ c, c ∈ h.eng.colls → c.1.setWidth 64 ≠ e.opa) → answers d 6 kept) ∧
      (∀ hd st, h.eng.colls.find? (fun c => c.1.setWidth 64 == e.opa) = some (hd, st) →
        (st = none → waits) ∧
        (∀ z, st = some z → answers d (BitVec.ofNat 64 z) fun t g => MemKept s t ∧
          g.eng = { h.eng with colls := h.eng.colls.filter fun c => c.1 != hd })))

/-- R275 to R278, R405 to R408: an operation whose members have all issued, none of them with an older one, ends with the first status that its
arguments give, or FAULT where another package has said so, or, where all its pages can be accessed, starts with its local sources read; what another
package sends is added to it, and a fault there ends it with the same status here; what still comes of an operation that is over changes nothing; once every element of the
result is here it is stored, and the
operation is DONE when the destinations are performed at its scope; an unreachable package ends every operation that has a member there with FAULT, which its members' handles
answer. The result is the reduction of the ranks' values. (That an operation is held back while a member has an older one is the model's reading, log 48; how packages name what they
send is log 49; and that differing records end an operation once every local member has issued is log 98.) -/
def Obligations.Collectives : Prop :=
  ∀ (s : State) (c : CollOpState) (gr : Group) (g : Fin 64), c ∈ s.colls → c.group = g.val → c.settled = none →
    (∀ x, x ∈ s.colls → x.part = c.part → x.group = c.group → x.k = c.k → x = c) → (s.part c.part).group? g.val = some gr →
    let ends := fun (t : State) (z : Nat) => c ∉ t.colls ∧ ∀ m k h, m ∈ c.members → m.hart = some k → s.hart? k = some h → (m.handle, none) ∈ h.eng.colls →
      ∃ u, t.hart? k = some u ∧ (m.handle, some z) ∈ u.eng.colls ∧ u.x = h.x
    (c.started = false → s.collAll c gr = true → c.older s = false →
      (∀ z, c.early gr = some z → ∃ t, exec (.collOperationStart c.part g c.k) s = .next t ∧ MemKept s t ∧ ends t z) ∧
      (c.early gr = none → c.failures s [] = [] →
        (c.faulted = true → ∃ t, exec (.collOperationStart c.part g c.k) s = .next t ∧ MemKept s t ∧ ends t 4) ∧
        (c.faulted = false → c.wantSources s = (s, false, []) →
          ∃ t d, exec (.collOperationStart c.part g c.k) s = .next t ∧ HartsAlike s t ∧ MemKept s t ∧ d ∈ t.colls ∧ d.started = true ∧
            d.members.map (fun m => { m with put := [] }) = c.members.map (fun m => { m with put := [] }) ∧
            d.values = c.values ++ (c.members.foldl (fun a m => readSource a c.part m) (s, [])).2))) ∧
    (c.started = false → c.older s = true ∨ s.collAll c gr = false → exec (.collOperationStart c.part g c.k) s = .next s) ∧
    (c.complete gr.members.length = false → exec (.collOperationEnd c.part g c.k) s = .next s) ∧
    (∀ m k h pa w v d, c.complete gr.members.length = true → c.written = false → c.members.filter (fun y => y.hart.isSome) = [m] →
      c.members.head? = some m → m.hart = some k → s.hart? k = some h → h.outst = [] → (m.handle, none) ∈ h.eng.colls → m.count = 1 → m.fmt ≠ .e2m1 →
      m.put = [(pa, w, bitsW m.fmt / 8)] → pa % (bitsW m.fmt / 8) = 0 → placeOf pa = .hbm d → s.deadAt pa = none → s.silentAt pa = false → c.part ≠ 16 →
      s.hostWrites = [] → s.hostHeld = [] → (∀ l, (s.region (regionOf pa)).state ≠ .r l) → (s.region (regionOf pa)).closing = none → Inv s →
      c.result? gr.members.length 0 = some v →
      ∃ t u, exec (.collOperationEnd c.part g c.k) s = .next t ∧ c ∉ t.colls ∧ t.hart? k = some u ∧ (m.handle, some 0) ∈ u.eng.colls ∧
        t.readNat pa (bitsW m.fmt / 8) = v % 2 ^ bitsW m.fmt ∧ MemKeptBut s t pa (bitsW m.fmt / 8)) ∧
    (c.complete gr.members.length = true → c.written = true →
      (c.settling s = none → ∃ t, exec (.collOperationEnd c.part g c.k) s = .next t ∧ MemKept s t ∧ ends t 0) ∧
      (∀ u, c.settling s = some u → exec (.collOperationEnd c.part g c.k) s = .next u)) ∧
    (∀ m n i l, c.allLocal n = true → c.members.head? = some m → (∀ r, r < n → c.elem? r 0 i = some (l r)) →
      c.result? n i = some (reduceRanks m.fmt m.op ((List.range n).map l))) ∧
    (gr.span ≠ 2 → ∀ news, exec (.collPartialTransfer c.part g c.k news) s = .next s) ∧
    (∀ n news, (c.part, g.val, n) ∈ s.collsOver → exec (.collPartialTransfer c.part g n news) s = .next s) ∧
    (∀ n y news, s.coll? c.part g.val n = some y → y.settled.isSome = true → exec (.collPartialTransfer c.part g n news) s = .next s) ∧
    (gr.span = 2 → (c.part, g.val, c.k) ∉ s.collsOver →
      (∀ r level first elems, c.isLocal r = false →
        ∃ t d, exec (.collPartialTransfer c.part g c.k (.value r level first elems)) s = .next t ∧ t.harts = s.harts ∧ MemKept s t ∧ d ∈ t.colls ∧
          d.members = c.members ∧ (r, level, first, elems) ∈ d.values) ∧
      (∀ first elems, ∃ t d, exec (.collPartialTransfer c.part g c.k (.result first elems)) s = .next t ∧ t.harts = s.harts ∧ MemKept s t ∧ d ∈ t.colls ∧
          d.members = c.members ∧ d.values = c.values ∧ (first, elems) ∈ d.results) ∧
      (∀ r f op sc n rec, ∃ t d, exec (.collPartialTransfer c.part g c.k (.issued r f op sc n rec)) s = .next t ∧ t.harts = s.harts ∧ MemKept s t ∧
          d ∈ t.colls ∧ rec ∈ d.records ∧ d.values = c.values ∧
          (r < gr.members.length → (∀ m, m ∈ c.members → m.rank ≠ r) →
            ∃ m, d.members = c.members ++ [m] ∧ m.rank = r ∧ m.hart = none ∧ m.fmt = f ∧ m.op = op ∧ m.scope = sc ∧ m.count = n)) ∧
      (c.started = true → ∃ t, exec (.collPartialTransfer c.part g c.k .fault) s = .next t ∧ MemKept s t ∧ ends t 4) ∧
      (c.started = false → ∃ t, exec (.collPartialTransfer c.part g c.k .fault) s = .next t ∧ t.harts = s.harts ∧ MemKept s t ∧
        { c with faulted := true } ∈ t.colls)) ∧
    (∀ pkg w, pkg ≠ s.pkg → w ∈ gr.members → w.toNat / 2 ^ 48 = pkg.toNat → ∃ t, exec (.collPackageUnreachable pkg) s = .next t ∧ ends t 4)

/-- R7, R397, R400, R401, R447, R464, R509: a write of QCTL enables an idle queue with its counts and ERR at 0 where the ring size is 4 to 12, else it sets ERR; a
write of TAIL takes the count, with ERR where it exceeds the ring; while the partition is created or switched out both are latched. PARG and
PTERM take what they allow, PCMD a command while BUSY is 0, with BUSY, FEATREQ the features until the first partition starts, and Device Control 2
its bit 6 (log 36); PSTAT, FEATSUP and other offsets take nothing, and nothing comes from a dead port (R382); each reads as it stands; a doorbell raises source 0x02 on its hart. -/
def Obligations.HostRegisters : Prop :=
  ∀ (s : State) (p : Fin 16) (q : Fin 4) (port : Fin 2) (v : Word),
    let x := (s.part (partNo p)).queues[q]
    let size := (v.extractLsb' 1 4).toNat
    (s.alive (.port port) = true → (s.part (partNo p)).state = .running →
      (∃ t, exec (.qctlWrite p q port v) s = .next t ∧ t.harts = s.harts ∧ MemKept s t ∧
        (x.en = true → (t.part (partNo p)).queues[q] = { x with en := v.getLsbD 0 }) ∧
        (x.en = false → v.getLsbD 0 = false → (t.part (partNo p)).queues[q] = { x with sizeLog := size }) ∧
        (x.en = false → v.getLsbD 0 = true → 4 ≤ size → size ≤ 12 →
          (t.part (partNo p)).queues[q] = { x with sizeLog := size, tail := 0, prog := 0, err := false, en := true, port := port }) ∧
        (x.en = false → v.getLsbD 0 = true → size < 4 ∨ 12 < size →
          (t.part (partNo p)).queues[q] = { x with sizeLog := size, tail := 0, prog := 0, err := true, en := false, port := port })) ∧
      (∃ t, exec (.tailWrite p q v) s = .next t ∧ t.harts = s.harts ∧ MemKept s t ∧
        (2 ^ x.sizeLog < (v.setWidth 32 - x.prog).toNat → (t.part (partNo p)).queues[q] = { x with tail := v.setWidth 32, err := true }) ∧
        ((v.setWidth 32 - x.prog).toNat ≤ 2 ^ x.sizeLog → (t.part (partNo p)).queues[q] = { x with tail := v.setWidth 32 }))) ∧
    (s.alive (.port port) = true → (s.part (partNo p)).state = .created ∨ (s.part (partNo p)).state = .swapped →
      (∃ t, exec (.qctlWrite p q port v) s = .next t ∧ MemKept s t ∧ (t.part (partNo p)).queues[q] = { x with latchCtl := some (v, port) }) ∧
      (∃ t, exec (.tailWrite p q v) s = .next t ∧ MemKept s t ∧ (t.part (partNo p)).queues[q] = { x with latchTail := some v })) ∧
    (s.alive (.port port) = false → exec (.qctlWrite p q port v) s = .next s) ∧
    (s.alive (.port 0) = false → s.alive (.port 1) = false → exec (.tailWrite p q v) s = .next s ∧ exec (.doorbell p v) s = .next s ∧
      ∀ r, exec (.registerWrite r v) s = .next s) ∧
    (s.hostUp = true → s.alive (.port port) = true → exec (.registerWrite .parg v) s = .next { s with parg := v } ∧
      exec (.registerWrite .pterm v) s = .next { s with pterm := s.pterm &&& ~~~ v.setWidth 16 } ∧
      (s.pcmd.getLsbD 63 = false → ∃ c, exec (.registerWrite .pcmd v) s = .next { s with pcmd := c } ∧ c.extractLsb' 0 12 = v.extractLsb' 0 12 ∧
        c.extractLsb' 12 51 = 0 ∧ c.getLsbD 63 = true ∧ State.pf0Read { s with pcmd := c } 0x200 = c) ∧
      (s.pcmd.getLsbD 63 = true → exec (.registerWrite .pcmd v) s = .next s) ∧
      (s.featClosed = false → exec (.registerWrite .featreq v) s = .next { s with featReq := v.setWidth 6 }) ∧
      (s.featClosed = true → exec (.registerWrite .featreq v) s = .next s) ∧
      exec (.registerWrite (.devctl2 port) v) s = .next { s with ports := s.ports.set port { s.ports[port] with atomicEnable := v.getLsbD 6 } } ∧
      exec (.registerWrite .pstat v) s = .next s ∧ exec (.registerWrite .featsup v) s = .next s ∧
      (∀ o, exec (.registerWrite (.other o) v) s = .next s)) ∧
    (s.pf0Read 0x200 = s.pcmd ∧ s.pf0Read 0x208 = s.parg ∧ s.pf0Read 0x210 = s.pstat.setWidth 64 ∧ s.pf0Read 0x218 = s.pterm.setWidth 64 ∧
      s.pf0Read 0x108 = s.featReq.setWidth 64 ∧ s.pf0Read 0x100 = 0x3F) ∧
    (∀ r, s.hostUp = false → exec (.registerWrite r v) s = .next s) ∧
    (∀ h, s.alive (.port port) = true → s.hart? { part := partNo p, id := v.toNat % 2 ^ 32 } = some h → h.sched.status ≠ .parked →
      ∃ t g, exec (.doorbell p v) s = .next t ∧ t.hart? h.key = some g ∧ (∀ n, n ∈ g.irqs ↔ n = 2 ∨ n ∈ h.irqs) ∧ g.x = h.x ∧ g.pc = h.pc ∧ MemKept s t) ∧
    (s.hart? { part := partNo p, id := v.toNat % 2 ^ 32 } = none → exec (.doorbell p v) s = .next s)

/-- R398, R399, R403, R313: a queue that runs executes its next command, writes STATUS and HANDLE into it and moves PROG on; a read that fails
stops the queue with ERR. A launch makes the checks of R313 in their order at depth 0, which no entry refuses. A network launch is refused with the first reason of Table 16.9 that holds, or makes its task. -/
def Obligations.HostCommands : Prop :=
  ∀ (s : State) (p : Fin 16) (q : Fin 4),
    let w := s.part (partNo p)
    let x := w.queues[q]
    (Inv s → s.hostWrites = [] → ∀ z hd, ∃ t, s.endCommand p q z hd = t ∧ t.readNat (hostPa x.port x.next + 12) 4 = (BitVec.ofInt 32 z).toNat ∧
      t.readNat (hostPa x.port x.next + 16) 8 = hd.toNat ∧ MemKeptBut s t (hostPa x.port x.next + 12) 12 ∧
      (t.part (partNo p)).queues[q] = { x with prog := x.prog + 1 }) ∧
    (∀ c, s.queueRuns p q = true → s.command p q = some c →
      (c.good = true → c.op = 0 → exec (.nop p q true) s = .next (s.endCommand p q 0 0) ∧
        exec (.nop p q false) s = .next (s.modQueue p q fun y => { y with err := true })) ∧
      (c.good = true → c.op = 1 →
        (∀ z, LaunchRefused w c.index 0 z → exec (.hqLaunch p q true) s = .next (s.endCommand p q z 0)) ∧
        (∀ e, Launches w c.index 0 e →
          let n := s.newTask (partNo p) .outside c.index e 0 c.arg 0
          exec (.hqLaunch p q true) s = .next (n.1.endCommand p q 0 n.2))) ∧
      (c.good = true → c.op = 2 →
        (4096 ≤ c.index → exec (.entryWrite p q true) s = .next (s.endCommand p q (-3) 0)) ∧
        (∀ n, c.index < 4096 → s.hostRead x.port c.arg.toNat 32 = some n →
          exec (.entryWrite p q true) s =
            .next ((s.modPart (partNo p) fun y => y.setEntry c.index
              { code := BitVec.ofNat 64 n, word := BitVec.ofNat 64 (n / 2 ^ 64), rsv0 := BitVec.ofNat 64 (n / 2 ^ 128),
                rsv1 := BitVec.ofNat 64 (n / 2 ^ 192) }).endCommand p q 0 0))) ∧
      (c.good = true → c.op = 3 → ∀ d, s.hostRead x.port c.arg.toNat 64 = some d →
        (∀ z, w.tdCheck p.val (BitVec.ofNat 64 c.index) d = .error z → exec (.tdWrite p q true) s = .next (s.endCommand p q z 0)) ∧
        (∀ pa, w.tdCheck p.val (BitVec.ofNat 64 c.index) d = .ok pa →
          exec (.tdWrite p q true) s =
            .next ((s.storeSector (deviceVia p) pa (leBytes 64 d) none false false).endCommand p q 0 0))) ∧
      (c.good = false → exec (.badCommand p q true) s = .next (s.endCommand p q (-7) 0))) ∧
    (s.queueRuns p q = false → exec (.nop p q true) s = .next s ∧ exec (.badCommand p q true) s = .next s) ∧
    (∀ bytes, let refuse := fun r => exec (.netLaunchPacket p bytes) s = .next (s.emit (.residency p.val 2 r))
      (w.state = .absent ∨ w.state = .terminated → refuse 7) ∧
      (w.state ≠ .absent → w.state ≠ .terminated → bytes.length ≠ 16 → refuse 1) ∧
      (w.state ≠ .absent → w.state ≠ .terminated → bytes.length = 16 → leNat bytes / 4096 % 2 ^ 52 = 0 →
        (w.entry? (leNat bytes % 4096) = none → refuse 2) ∧
        (∀ e, w.entry? (leNat bytes % 4096) = some e →
          (e.remote = false → refuse 3) ∧ (e.remote = true → e.depth = 0 → refuse 4) ∧
          (e.remote = true → e.depth ≠ 0 → w.ctl.holdsClass e.cls = false → refuse 5) ∧
          (e.remote = true → e.depth ≠ 0 → w.ctl.holdsClass e.cls = true → 8192 ≤ w.tasks.length → refuse 6) ∧
          (e.remote = true → e.depth ≠ 0 → w.ctl.holdsClass e.cls = true → w.tasks.length < 8192 →
            let n := s.newTask (partNo p) .outside (leNat bytes % 4096) e 1 (BitVec.ofNat 64 (leNat bytes / 2 ^ 64)) 0
            exec (.netLaunchPacket p bytes) s =
              .next (n.1.emit (.residency p.val (if w.state = .running then 0 else 1) 0))))))

/-- R415, R417 to R419, R425, R429: the scheduler's events: each leaves the state as it is before its time; the end of a quantum hands the slot
on, a hart that has waited 2 µs in a slot that another wants parks, a ready hart ages by a level a millisecond, a parked hart with an
interrupt or whose wait is over becomes ready; one that has aged or become ready in a partition that runs takes the nearest free slot, or, where each slot that it could take is held by a
running hart of its partition that ranks below it, pre-empts the lowest of them; a hart that arrives runs in its slot with its registers, and a window's end judges the mix. -/
def Obligations.SchedulerEvents : Prop :=
  ∀ (s : State) (k : HartKey) (h : Hart), s.hart? k = some h →
    -- in a state whose hart `g` has just become ready or risen, the event `ev` seats it where it can
    let seats := fun (ev : Instr) (w : State) (g : Hart) =>
      (∀ i, w.freeFor g = some i → ∃ t z, exec ev s = .next t ∧ t.hart? k = some z ∧ z.sched.status = .running ∧ z.sched.slot = some i ∧ z.sched.aged = 0 ∧
        (t.slot i).occupant = some k ∧ z.pc = h.pc ∧ z.x = h.x) ∧
      (w.freeFor g = none → w.preemptee g = none → exec ev s = .next w) ∧
      (∀ o, w.freeFor g = none → w.preemptee g = some o → o.key.part = k.part ∧ o.rtc = false ∧ w.before g o = true ∧
        ∀ i, o.sched.slot = some i → o.sent = false → o.missing = false → ∃ t z y, exec ev s = .next t ∧ t.hart? k = some z ∧ z.sched.status = .running ∧
          z.sched.slot = some i ∧ (t.slot i).occupant = some k ∧ t.hart? o.key = some y ∧ y.sched.status = .ready ∧ y.sched.slot = none)
    (∀ i, h.sched.slot = some i → h.sched.status = .running → h.rtc = false → h.sent = false → h.missing = false →
      (s.time < (s.slot i).quantum + (s.part k.part).ctl.quantum.toNat * 1000 → exec (.quantumEnd k) s = .next s) ∧
      ((s.slot i).quantum + (s.part k.part).ctl.quantum.toNat * 1000 ≤ s.time → exec (.quantumEnd k) s = .next (s.endQuantum k fun _ => true) ∧
        ((∀ p : Fin 16, s.candidates (partNo p) i.core = []) → exec (.quantumEnd k) s = .next s))) ∧
    (∀ i, h.sched.slot = some i → h.sched.status = .waiting → h.rtc = false →
      (s.time < h.sched.waitSince + 2000 ∨ s.wanted i.core = false → exec (.waitSlotTimeout k) s = .next s) ∧
      (h.sched.waitSince + 2000 ≤ s.time → s.wanted i.core = true → exec (.waitSlotTimeout k) s =
        .next ((((s.stopHart k).modHart k fun g => { g with sched := { g.sched with status := .parked } }).leaveSlot k).grant i))) ∧
    (h.sched.status = .ready → s.effPrio h < 7 →
      (s.time - h.sched.readySince < 1000000 * (h.sched.aged + 1) → exec (.priorityAging k) s = .next s) ∧
      (1000000 * (h.sched.aged + 1) ≤ s.time - h.sched.readySince → (s.part k.part).state ≠ .running →
        exec (.priorityAging k) s = .next (s.modHart k fun g => { g with sched := { g.sched with aged := g.sched.aged + 1 } })) ∧
      (1000000 * (h.sched.aged + 1) ≤ s.time - h.sched.readySince → (s.part k.part).state = .running →
        seats (.priorityAging k) (s.modHart k fun g => { g with sched := { g.sched with aged := g.sched.aged + 1 } })
          { h with sched := { h.sched with aged := h.sched.aged + 1 } })) ∧
    (h.sched.status ≠ .parked ∨ (h.irqs = [] ∧ s.waitOver h = false) → exec (.hartWake k) s = .next s) ∧
    (h.sched.status = .parked → h.irqs ≠ [] ∨ s.waitOver h = true →
      ((s.part k.part).state = .running → seats (.hartWake k) (s.setReady k)
        { h with sched := { h.sched with status := .ready, readySince := s.time, aged := 0 }, waitFor := none }) ∧
      ((s.part k.part).state ≠ .running → ∃ t g, exec (.hartWake k) s = .next t ∧ t.hart? k = some g ∧ g.sched.status = .ready ∧
        g.sched.readySince = s.time ∧ g.waitFor = none ∧ g.x = h.x ∧ g.pc = h.pc ∧ MemKept s t)) ∧
    (h.sched.status ≠ .moving → exec (.retrieverArrival k) s = .next s) ∧
    (∀ i, h.sched.status = .moving → h.sched.target = some i →
      ∃ t g, exec (.retrieverArrival k) s = .next t ∧ t.hart? k = some g ∧ g.sched.status = .running ∧ g.sched.slot = some i ∧
        (t.slot i).occupant = some k ∧ g.pc = h.pc ∧ g.x = h.x ∧ g.f = h.f ∧ g.level = h.level ∧ g.queue = h.queue ∧
        g.csr = { h.csr with migcount := if h.sched.cause = .hint ∨ h.sched.cause = .mix then h.csr.migcount + 1 else h.csr.migcount }) ∧
    (h.sched.win.count < 65536 → exec (.mixWindowEnd k) s = .next s) ∧
    (65536 ≤ h.sched.win.count → ∃ t g, exec (.mixWindowEnd k) s = .next t ∧ t.hart? k = some g ∧ g.sched.win.count = 0 ∧ g.sched.win.v = 0 ∧
      g.sched.win.m = 0 ∧ g.pc = h.pc ∧ g.x = h.x ∧ g.f = h.f ∧ MemKept s t ∧ OthersKept s t k ∧
      (h.cls = .hound → h.sched.win.m < 1311 → 3276 < h.sched.win.v → g.sched.win.streak = 0) ∧
      (h.cls = .hound → h.sched.win.m < 1311 → h.sched.win.v ≤ 3276 → g.sched.win.streak = h.sched.win.streak + 1 ∧
        (3 ≤ h.sched.win.streak → h.rtc = false → h.mixBlocked = false → g.sched.goClass = some 0)) ∧
      (h.cls = .mastiff → 1311 ≤ h.sched.win.m → h.rtc = false → h.mixBlocked = false →
        g.sched.goClass = some (if h.sched.win.missH < h.sched.win.missW then 2 else 1)))

/-- R509 to R511, R401, R455, R456, R464: the host's operations on a partition, which PCMD names with BUSY 1: in a state that does not admit one the status is −2, and a bad
argument or a read that fails has its own; an operation that succeeds takes the partition to its next state; SWAPOUT is under way while a run-to-completion
hart of the partition runs or waits in a slot, and then frees every slot of the partition; SWAPIN gives a hart back the slot that it held; DESTROY returns the shadow space. PCMD
names the command that has ended, with BUSY 0; while another command is under way, none is executed. (That a command given while BUSY is 0 has its effect too is log 79; that CREATE reads
through port 0 is log 16; that a PARG that is no multiple of 64 answers −3 is log 62; what SWAPOUT leaves the harts of a hart in transit is log 58; the stores that START, SWAPIN and DESTROY
zero are logs 57 and 106.) -/
def Obligations.PartitionCommands : Prop :=
  ∀ (s : State) (p : Fin 16),
    let q := partNo p
    let x := s.part q
    let st := fun (op : BitVec 8) (z : Int) (t : State) => t = { s with pcmd := commandWord op p, pstat := BitVec.ofInt 32 z }
    -- PCMD names the operation with BUSY 1; or no command is under way
    let told := fun op : BitVec 8 => s.pcmd = commandWord op p ||| busyBit ∨ s.commandBusy = false
    (s.hostUp = false → exec (.create p true) s = .next s ∧ exec (.start p) s = .next s ∧ exec (.swapout p) s = .next s ∧
      exec (.swapin p) s = .next s ∧ exec (.terminate p) s = .next s ∧ exec (.destroy p) s = .next s) ∧
    (s.commandBusy = true → (∀ op, s.pcmd ≠ commandWord op p ||| busyBit) → exec (.create p true) s = .next s ∧ exec (.start p) s = .next s ∧
      exec (.swapout p) s = .next s ∧ exec (.swapin p) s = .next s ∧ exec (.terminate p) s = .next s ∧ exec (.destroy p) s = .next s) ∧
    (s.hostUp = true → told 1 →
      (x.state ≠ .absent → ∃ t, exec (.create p true) s = .next t ∧ st 1 (-2) t) ∧
      (x.state = .absent → s.parg.toNat % 64 ≠ 0 → ∃ t, exec (.create p true) s = .next t ∧ st 1 (-3) t) ∧
      (x.state = .absent → s.parg.toNat % 64 = 0 → s.hostRead 0 s.parg.toNat 128 = none → ∃ t, exec (.create p true) s = .next t ∧ st 1 (-5) t) ∧
      (∀ n, x.state = .absent → s.parg.toNat % 64 = 0 → s.hostRead 0 s.parg.toNat 128 = some n →
        (descBad n = true → ∃ t, exec (.create p true) s = .next t ∧ st 1 (-3) t) ∧
        (∀ base len l a keys, descBad n = false → descRanges n = (base, len) :: l →
          (s.draw.1).freeAsids (Config.handleSeed s.fresh).toNat (n / 2 ^ 640 % 2 ^ 11) = some a →
          ((s.draw.1).present.any fun y => y.desc.ranges.any fun r => ((base, len) :: l).any (rangesShare r)) = false →
          ((List.range 6).flatMap fun d => (s.draw.1).freeWays d (descWays n d)).length = (List.range 6).foldl (fun z d => z + descWays n d) 0 →
          n / 2 ^ 672 % 2 ^ 16 * areaBytes ≤ len → (s.draw.1).trustKeys n = some keys →
          ∃ t, exec (.create p true) s = .next t ∧ t.pstat = 0 ∧ t.pcmd = commandWord 1 p ∧ t.harts = s.harts ∧ MemKept s t ∧ (t.part q).state = .created ∧
            (t.part q).desc.ranges = descRanges n ∧ (t.part q).asid0 = a ∧ (t.part q).asidN = n / 2 ^ 640 % 2 ^ 11 ∧
            (t.part q).areas.length = n / 2 ^ 672 % 2 ^ 16 ∧ (t.part q).tasks = [] ∧ ∀ r, r ≠ q → t.part r = s.part r))) ∧
    (s.hostUp = true → told 2 →
      (x.state ≠ .created → ∃ t, exec (.start p) s = .next t ∧ st 2 (-2) t) ∧
      (x.state = .created → x.tasks.any (·.pending) = false → s.hostWrites = [] → ∃ t, exec (.start p) s = .next t ∧ t.pstat = 0 ∧ t.pcmd = commandWord 2 p ∧
        (t.part q).state = .running ∧ (t.part q).nextHart = 1 ∧ t.featClosed = true ∧ (t.part q).stores = x.desc.ctl.clusters ∧
        ∀ c o, c < 848 → inClusters x.desc.ctl.clusters c = true → o < storeBytes (clsOf c) → Mem.get t.mem (storeBase c + o) = 0)) ∧
    (s.hostUp = true → told 3 → (s.harts.map (·.key)).Nodup →
      (x.state ≠ .running → x.swapping = false → ∃ t, exec (.swapout p) s = .next t ∧ st 3 (-2) t) ∧
      (∀ h, x.state = .running → x.swapping = false → h ∈ s.harts → h.key.part = q → h.rtc = true → h.sched.slot.isSome = true →
        h.sched.status = .running ∨ h.sched.status = .waiting →
        ∃ t, exec (.swapout p) s = .next t ∧ t.pstat = s.pstat ∧ t.pcmd = commandWord 3 p ||| busyBit ∧ (t.part q).state = .swapped ∧
          (t.part q).swapping = true ∧ ∃ g, t.hart? h.key = some g ∧ g.sched.slot = h.sched.slot ∧ g.pc = h.pc) ∧
      (x.state = .running → x.swapping = false →
        (∀ h, h ∈ s.harts → h.key.part = q → h.rtc = false ∧ (h.sched.status = .running ∨ h.sched.status = .waiting → h.sched.slot.isSome = true)) →
        ∃ t, exec (.swapout p) s = .next t ∧ t.pstat = 0 ∧ t.pcmd = commandWord 3 p ∧ (t.part q).state = .swapped ∧ (t.part q).swapping = false ∧
          (∀ e, e ∈ t.tlb → e.part ≠ q) ∧ (∀ g, g ∈ t.harts → g.key.part = q → g.sched.slot = none) ∧
          ∀ n : Fin 4, ((t.part q).queues[n]).frozen = some (x.queues[n]).prog) ∧
      (∀ h, x.swapping = true → h ∈ s.harts → h.key.part = q → h.sched.status = .running → ∃ t, exec (.swapout p) s = .next t ∧ t.pstat = s.pstat ∧
        t.pcmd = commandWord 3 p ||| busyBit ∧ HartsAlike s t ∧ MemKept s t)) ∧
    (s.hostUp = true → told 4 →
      (x.state ≠ .swapped → ∃ t, exec (.swapin p) s = .next t ∧ st 4 (-2) t) ∧
      (x.state = .swapped → ∃ t, exec (.swapin p) s = .next t ∧ t.pstat = 0 ∧ t.pcmd = commandWord 4 p ∧ (t.part q).state = .running ∧
        (t.part q).ctl = x.partreq.getD x.ctl ∧ (t.part q).partreq = none ∧ (∀ n : Fin 4, ((t.part q).queues[n]).frozen = none) ∧
        ∀ h i, (s.harts.map (·.key)).Nodup → h ∈ s.harts → h.key.part = q → (∀ g, g ∈ s.harts → g.key.part = q → g = h) → x.tasks.any (·.pending) = false →
          h.sched.status = .ready → h.sched.slot = none → h.sched.swapSlot = some i → s.slotFree i = true → h.area.isSome = true → s.usable i.core = true →
          inClusters (x.partreq.getD x.ctl).clusters i.core = true → h.sched.newHart = false → clsOf i.core = clsOf h.sched.lastCore →
          ∃ g, t.hart? h.key = some g ∧ g.sched.status = .running ∧ g.sched.slot = some i ∧ g.x = h.x ∧ g.pc = h.pc)) ∧
    (s.hostUp = true → told 5 →
      (x.state = .absent ∨ x.state = .terminated → ∃ t, exec (.terminate p) s = .next t ∧ st 5 (-2) t) ∧
      (x.state ≠ .absent → x.state ≠ .terminated → ∃ t, exec (.terminate p) s = .next t ∧ t.pstat = 0 ∧ t.pcmd = commandWord 5 p ∧ (t.part q).state = .terminated ∧
        (t.part q).tasks = [] ∧ (∀ h, h ∈ t.harts → h.key.part ≠ q) ∧ ∀ l, l ∈ t.lines → l.part ≠ q)) ∧
    (s.hostUp = true → told 6 →
      (x.state ≠ .terminated → ∃ t, exec (.destroy p) s = .next t ∧ st 6 (-2) t) ∧
      (x.state = .terminated → ∃ t, exec (.destroy p) s = .next t ∧ t.pstat = 0 ∧ t.pcmd = commandWord 6 p ∧ t.part q = Part.absent ∧ t.pterm.getLsbD p.val = false ∧
        (∀ y, y ∈ t.shadow → y.part ≠ q) ∧
        (x.desc.sealed = false → MemKept s t) ∧
        (x.desc.sealed = true → (∀ r a, r ∈ x.desc.ranges → r.1 ≤ a → a < r.1 + r.2 → Mem.get t.mem a = 0) ∧
          ∀ c o, c < 848 → inClusters x.ctl.clusters c = true → o < storeBytes (clsOf c) → Mem.get t.mem (storeBase c + o) = 0))) ∧
    (∀ op : BitVec 8, s.hostUp = true → told op → (op.toNat < 1 ∨ 6 < op.toNat → ∃ t, exec (.badOp p op) s = .next t ∧ st op (-1) t) ∧
      (1 ≤ op.toNat → op.toNat ≤ 6 → exec (.badOp p op) s = .next s))

/-- R508, R471: device firmware answers a call of a hart that waits for it: x8 takes the status, x9 and x10 what Table 22.5 names, and the ecall
completes. (That a TDTABLE length above 65,536 answers −2, that CODEFAIL takes bits 9:0 of x9 as the asid and answers 0 for a page that is marked already, and what PARTREQ refuses
beyond Table 22.5 are log 62; the order of GROUPDEF's checks is log 61; the reason of a mark is a free value, log 12.) -/
def Obligations.FirmwareCalls : Prop :=
  ∀ (s : State) (k : HartKey) (h : Hart), s.hart? k = some h → h.inSlot = true →
    let p := s.part k.part
    let ans := fun (i : Instr) (z : Int) (l : List Reg) (t : State) (g : Hart) =>
      exec i s = .next t ∧ t.hart? k = some g ∧ g.getX 8 = BitVec.ofInt 64 z ∧ g.pc = h.pc + 4 ∧ g.fwcall = none ∧ XKept h g (8 :: l) ∧ FKept h g [] ∧
      g.level = h.level ∧ g.queue = h.queue
    (h.fwcall = none → exec (.bankpool k) s = .next s ∧ exec (.groupdef k) s = .next s ∧ exec (.tdtable k) s = .next s) ∧
    (h.fwcall = some 0x100 →
      (191 < (h.getX 9).toNat ∨ 15 < (h.getX 10).toNat → ∃ t g, ans (.bankpool k) (-2) [] t g ∧ MemKept s t) ∧
      ((h.getX 9).toNat ≤ 191 → (h.getX 10).toNat ≤ 15 → ∃ t g, ans (.bankpool k) 0 [9] t g ∧ MemKept s t ∧
        ∀ w, w < 64 → (g.getX 9).getLsbD w = (decide (w < 16) && p.pool.contains { slice := (h.getX 9).toNat, bank := (h.getX 10).toNat, way := w }))) ∧
    (h.fwcall = some 0x101 → ∀ u z new, s.groupStatus h (h.getX 9).toNat (h.getX 10) = (u, some (z, new)) →
      ∃ t g, ans (.groupdef k) z [] t g ∧ MemKept s t ∧ (z ≠ 0 → (t.part k.part).groups = p.groups) ∧
        (z = 0 → (t.part k.part).groups = (p.groups.filter fun y => y.id != (h.getX 9).toNat) ++ new.toList)) ∧
    (h.fwcall = some 0x102 → ∃ t g, ans (.asidrange k) 0 [9, 10] t g ∧ MemKept s t ∧ g.getX 9 = BitVec.ofNat 64 p.asid0 ∧
      g.getX 10 = BitVec.ofNat 64 p.asidN) ∧
    (h.fwcall = some 0x103 →
      (s.hart? { part := k.part, id := (h.getX 9).toNat } = none → ∃ t g, ans (.ctxarea k) (-2) [] t g ∧ MemKept s t) ∧
      (∀ y a, s.hart? { part := k.part, id := (h.getX 9).toNat } = some y → y.area = some a →
        ∃ t g, ans (.ctxarea k) 0 [9] t g ∧ MemKept s t ∧ g.getX 9 = BitVec.ofNat 64 a)) ∧
    (h.fwcall = some 0x104 →
      let m := fun e : BitVec 10 × Nat × Nat => e.1 == (h.getX 9).setWidth 10 && e.2.1 == (h.getX 10).toNat / 4096
      let gone := fun l : FetchLine => l.part == k.part && l.asid == (h.getX 9).setWidth 10 && l.va / 4096 == (h.getX 10).toNat / 4096
      (p.marks.any m = false → p.marks.length < 4096 → ∃ t g e, ans (.codefail k) 0 [] t g ∧ MemKept s t ∧ m e = true ∧
        (t.part k.part).marks = p.marks ++ [e] ∧ (∀ l, l ∈ t.l1i ↔ l ∈ s.l1i ∧ gone l = false)) ∧
      (p.marks.any m = true → ∃ t g, ans (.codefail k) 0 [] t g ∧ MemKept s t ∧ (t.part k.part).marks = p.marks) ∧
      (p.marks.any m = false → 4096 ≤ p.marks.length → ∃ t g, ans (.codefail k) (-3) [] t g ∧ MemKept s t)) ∧
    (h.fwcall = some 0x105 →
      let v := h.getX 9
      let c : PartCtl := { clusters := v.extractLsb' 0 15, weight := v.extractLsb' 16 8, quantum := v.extractLsb' 32 16 }
      (v.extractLsb' 48 16 = 0 → v.extractLsb' 24 8 = 0 → v.getLsbD 15 = false → p.desc.admits c = true →
        ∃ t g, ans (.partreq k) 0 [] t g ∧ MemKept s t ∧ (t.part k.part).partreq = some c ∧ (t.part k.part).ctl = p.ctl) ∧
      (v.extractLsb' 48 16 ≠ 0 ∨ v.extractLsb' 24 8 ≠ 0 ∨ v.getLsbD 15 = true ∨ p.desc.admits c = false →
        ∃ t g, ans (.partreq k) (-4) [] t g ∧ MemKept s t ∧ (t.part k.part).partreq = p.partreq)) ∧
    (h.fwcall = some 0x106 →
      let v := (h.getX 9).toNat
      let a : BitVec 10 := (h.getX 9).setWidth 10
      let len := v / 2 ^ 32 % 2 ^ 17
      (v / 2 ^ 10 % 2 ^ 22 ≠ 0 ∨ v / 2 ^ 49 ≠ 0 ∨ p.ownsAsid a = false ∨ 65536 < len → ∃ t g, ans (.tdtable k) (-2) [] t g ∧ MemKept s t) ∧
      (v / 2 ^ 10 % 2 ^ 22 = 0 → v / 2 ^ 49 = 0 → p.ownsAsid a = true → len = 0 →
        ∃ t g, ans (.tdtable k) 0 [] t g ∧ MemKept s t ∧ (t.part k.part).tds.lookup a = none) ∧
      (v / 2 ^ 10 % 2 ^ 22 = 0 → v / 2 ^ 49 = 0 → p.ownsAsid a = true → 0 < len → len ≤ 65536 →
        (h.getX 10).toNat % 64 ≠ 0 ∨ (∃ b, (h.getX 10).toNat ≤ b ∧ b < (h.getX 10).toNat + 64 * len ∧ ∀ r, r ∈ p.desc.ranges → b < r.1 ∨ r.1 + r.2 ≤ b) →
        ∃ t g, ans (.tdtable k) (-3) [] t g ∧ MemKept s t ∧ (t.part k.part).tds = p.tds) ∧
      (v / 2 ^ 10 % 2 ^ 22 = 0 → v / 2 ^ 49 = 0 → p.ownsAsid a = true → 0 < len → len ≤ 65536 → (h.getX 10).toNat % 64 = 0 →
        (∀ b, (h.getX 10).toNat ≤ b → b < (h.getX 10).toNat + 64 * len → ∃ r, r ∈ p.desc.ranges ∧ r.1 ≤ b ∧ b < r.1 + r.2) →
        ∃ t g, ans (.tdtable k) 0 [] t g ∧ (t.part k.part).tdOf a = ((h.getX 10).toNat, len) ∧
          ∀ b, (h.getX 10).toNat ≤ b → b < (h.getX 10).toNat + 64 * len → Mem.get t.mem b = 0)) ∧
    (h.fwcall = some 0x107 →
      let a : BitVec 10 := (h.getX 9).setWidth 10
      ((h.getX 9).toNat / 2 ^ 10 ≠ 0 ∨ p.ownsAsid a = false → ∃ t g, ans (.asidctx k) (-2) [] t g ∧ MemKept s t) ∧
      (∀ u root ev, (h.getX 9).toNat / 2 ^ 10 = 0 → p.ownsAsid a = true → (h.getX 10).toNat % 64 = 0 →
        s.callWords h 8 (h.getX 10) = .words u [root, ev, 0, 0, 0, 0, 0, 0] → root / 2 ^ 56 = 0 → root % 2 ^ 12 = 0 →
        ∃ t g, ans (.asidctx k) 0 [] t g ∧ MemKept s t ∧ (t.part k.part).ctxs.lookup a = some (BitVec.ofNat 64 root, BitVec.ofNat 64 ev)))

/-- R164 to R166, R296, R379, R380, R382, R161: completions of the host ports that bear the port's incarnation reach the hart that waits, and that of an
AtomicOp says that host memory has been updated; the host's answers and snoops move a sector
through the states of Table 15.5, a dirty sector's data going with the answer; a snoop of a sector in Z waits; an invalidating snoop and a host write
leave no copy, and a host write of a region with a live lease waits; BIRsp takes its port from the holders.
Messages with another incarnation are dropped. Of two AtomicOps to the same bytes that are out together, memory ends with what the one left that the host performed last, as their old
values show, whichever completion comes first. (A CXL_CACHE_RESPONSE whose data are not 64 bytes stands for one that reports an error, log 74; what the completions say of host memory is
log 45.) -/
def Obligations.HostPorts : Prop :=
  ∀ (s : State) (inc : BitVec 16),
    (∀ k h r, s.hart? k = some h →
      (∀ pa port n kind a b, h.req = .atomicOp pa port n kind a b →
        (s.current (.port port) inc = false → exec (.pcieAtomicopCompletion k ⟨r, inc, none⟩) s = .next s) ∧
        (s.current (.port port) inc = true → ∃ t g, exec (.pcieAtomicopCompletion k ⟨r, inc, none⟩) s = .next t ∧ OthersKeptButAtomics s t k ∧
          t.hart? k = some g ∧ { g with resv := h.resv } = { h with req := .atomicDone pa r, stall := false } ∧
          (∀ w, r = .ok w → Inv s → MemKeptBut s t pa n ∧
            let old := w.toNat % 256 ^ n
            let left := atomicResult kind n a b old
            ((∀ y, y ∈ s.atomics → ¬ (y.pa = pa ∧ y.n = n)) → t.readNat pa n = left % 256 ^ n) ∧
            ∀ v o l, s.atomics.find? (fun y => y.pa == pa && y.n == n) = some { pa := pa, n := n, start := v, done := [(o, l)] } →
              (o = v → old = l → t.readNat pa n = left % 256 ^ n) ∧ (old = v → o = left → t.readNat pa n = l % 256 ^ n)) ∧
          ((∀ w, r ≠ .ok w) → MemKept s t)) ∧
        ∃ u g, exec (.pcieCompletionTimeout k) s = .next u ∧ u.hart? k = some g ∧
          { g with resv := h.resv } = { h with req := .timedOut pa true, stall := false } ∧ (Inv s → MemKeptBut s u pa n)) ∧
      (∀ pa port, h.req = .read pa port →
        (s.current (.port port) inc = false → ∃ t, exec (.pcieReadCompletion k ⟨r, inc, none⟩) s = .next t ∧ MemKept s t ∧ t.hart? k = some h) ∧
        (s.current (.port port) inc = true → ∃ t, exec (.pcieReadCompletion k ⟨r, inc, none⟩) s = .next t ∧ MemKept s t ∧
          t.hart? k = some { h with req := .readDone pa r, stall := false }) ∧
        ∃ u, exec (.pcieCompletionTimeout k) s = .next u ∧ MemKept s u ∧ u.hart? k = some { h with req := .timedOut pa false, stall := false }) ∧
      (∀ port, h.req = .flush port → s.current (.port port) inc = true →
        ∃ t g, exec (.pcieReadCompletion k ⟨r, inc, none⟩) s = .next t ∧ t.hart? k = some g ∧ g.req = .none ∧ g.stall = false ∧ MemKept s t ∧
          (∀ o, o ∈ g.outst → o.flushing = true → o.port ≠ some port) ∧
          ∀ o, o ∈ h.outst → o.flushing = false → o.port = some port → o ∈ g.outst)) ∧
    (∀ k h sec own ex data, s.hart? k = some h → h.req = .cxl sec own → sec % 64 = 0 → s.onCxl sec inc = true →
      (data.length = 64 → s.cxlState sec = .i → Inv s → ∃ t g, exec (.cxlCacheResponse ⟨sec, inc, false⟩ ex data) s = .next t ∧ t.hart? k = some g ∧ g.req = .none ∧
        g.stall = false ∧ g.x = h.x ∧ Mem.bytes t.mem sec 64 = data ∧ MemKeptBut s t sec 64 ∧ (own = true ∨ ex = true → t.cxlState sec = .e)) ∧
      (data.length ≠ 64 → ∃ t g, exec (.cxlCacheResponse ⟨sec, inc, false⟩ ex data) s = .next t ∧ t.hart? k = some g ∧ g.req = .cxlError sec ∧ g.stall = false ∧
        MemKept s t)) ∧
    (∀ sec, sec % 64 = 0 → s.onCxl sec inc = true → s.cxlState sec ≠ .z →
      let data := if s.cxlState sec = .m ∨ s.cxlState sec = .o then some (Mem.bytes s.mem sec 64) else none
      (∃ t, exec (.snpData ⟨sec, inc, false⟩) s = .next t ∧ MemKept s t ∧ t.harts = s.harts ∧ t.out = s.out ++ [.snoop sec data] ∧
        (s.cxlState sec = .i → t.cxlState sec = .i) ∧ (s.cxlState sec = .s ∨ s.cxlState sec = .e → t.cxlState sec = .s) ∧
        (s.cxlState sec = .m ∨ s.cxlState sec = .o → t.cxlState sec = .o)) ∧
      (∃ t, exec (.snpCur ⟨sec, inc, false⟩) s = .next t ∧ MemKept s t ∧ t.harts = s.harts ∧ t.out = s.out ++ [.snoop sec data] ∧ t.cxlState sec = s.cxlState sec) ∧
      (∃ t, exec (.snpInv ⟨sec, inc, false⟩) s = .next t ∧ MemKept s t ∧ t.out = s.out ++ [.snoop sec data] ∧ t.cxlState sec = .i ∧ (∀ e, e ∈ t.l1d → e.2 ≠ sec) ∧
        (∀ l, l ∈ t.lines → l.holds sec = true → (l.sector sec).isValid = false) ∧ ∀ h, h ∈ t.harts → h.resv ≠ some sec)) ∧
    (∀ sec, sec % 64 = 0 → s.onCxl sec inc = true → s.cxlState sec = .z →
      exec (.snpData ⟨sec, inc, false⟩) s = .next { s with snoops := s.snoops ++ [(sec, .data)] } ∧
      exec (.snpInv ⟨sec, inc, false⟩) s = .next { s with snoops := s.snoops ++ [(sec, .inv)] } ∧
      exec (.snpCur ⟨sec, inc, false⟩) s = .next { s with snoops := s.snoops ++ [(sec, .cur)] }) ∧
    (∀ sec, sec % 64 = 0 → s.onCxl sec inc = false → exec (.snpData ⟨sec, inc, false⟩) s = .next s ∧ exec (.snpInv ⟨sec, inc, false⟩) s = .next s ∧
      exec (.snpCur ⟨sec, inc, false⟩) s = .next s ∧ ∀ w ex data, exec (.cxlCacheResponse ⟨sec, inc, w⟩ ex data) s = .next s) ∧
    (∀ sec data port, sec % 64 = 0 → s.memReachable port inc sec = true →
      (s.corrupted sec = false → s.hostWrites = [] → ∃ t, exec (.cxlMemRead ⟨sec, port, inc⟩) s = .next t ∧ MemKept s t ∧ HartsAlike s t ∧
        (∃ y, y ∈ t.hostHeld ∧ y.sector = sec ∧ y.port = port) ∧ t.out = s.out ++ [.hostData sec (Mem.bytes s.mem sec 64)]) ∧
      (Inv s → data.length = 64 → (∀ l, (s.region (regionOf sec)).state ≠ .r l) →
        ∃ t, exec (.cxlMemWrite ⟨sec, port, inc⟩ data) s = .next t ∧ Mem.bytes t.mem sec 64 = data ∧ MemKeptBut s t sec 64 ∧
          (∀ e, e ∈ t.l1d → e.2 ≠ sec) ∧ ∀ h, h ∈ t.harts → h.resv ≠ some sec) ∧
      (∀ l x, data.length = 64 → (s.region (regionOf sec)).state = .r l → x ∈ l → s.time < x.2 →
        ∃ t, exec (.cxlMemWrite ⟨sec, port, inc⟩ data) s = .next t ∧ MemKept s t ∧ t.hostWrites = s.hostWrites ++ [{ sector := sec, bytes := data }] ∧
          x.1 ∈ (t.region (regionOf sec)).recalled)) ∧
    (∀ sec y port, sec % 64 = 0 → s.current (.port port) inc = true → y ∈ s.hostHeld → y.sector = sec → y.port = port → y.invalidating = true →
      ∃ t, exec (.birsp ⟨sec, port, inc⟩) s = .next t ∧ MemKept s t ∧ (∀ z, z ∈ t.hostHeld → ¬ (z.sector = sec ∧ z.port = port ∧ z.invalidating = true)) ∧
        ((∀ z, z ∈ s.hostHeld → z.sector = sec → z.invalidating = true → z.port = port) →
          ∀ h o, h ∈ t.harts → o ∈ h.outst → o.sector ≠ some sec))

/-- R382 to R384, R390, R392, R393: a heartbeat that bears its agent's incarnation counts, and a live agent that is not mute sends one by
itself each microsecond; an agent that is silent for 10 µs dies, one that falls silent is mute until then; a dead one comes back
with the next incarnation, unless the part has stopped. A sector takes its flits from the free space of its class, which sends STOP at 64; GO gives 128; a class sends no more than its
free space. A sector whose CRC passes is delivered and both dictionaries take its raw words, another resets the link, is sent again uncompressed, and until then nothing else crosses.
With every 4,096th flit the dictionaries' checksums fall due: they are compared before the next sector, and reset the link where they differ. (That agents beat by themselves until
AGENT_DEATH makes one mute is log 76; the receiver's space, its acknowledgements and the flits that a checksum counts are log 88.) -/
def Obligations.AgentsAndLinks : Prop :=
  ∀ (s : State) (a : Agent) (l : Fin 9) (up : Bool),
    (∀ x, s.agents.lookup a = some x →
      (x.alive = true → ∃ t, exec (.heartbeat a x.incarnation) s = .next t ∧ MemKept s t ∧ t.harts = s.harts ∧
        t.agents.lookup a = some { x with lastBeat := s.time, mute := false }) ∧
      (∀ n, x.alive = false ∨ n ≠ x.incarnation → ∃ t, exec (.heartbeat a n) s = .next t ∧ t.agents.lookup a = some x) ∧
      (x.alive = true → s.time < x.lastBeat + 10000 → ∃ t, exec (.agentDeath a) s = .next t ∧ MemKept s t ∧ t.harts = s.harts ∧
        t.agents.lookup a = some { x with mute := true }) ∧
      (x.alive = true → x.lastBeat + 1000 ≤ s.time → s.beats.agents.lookup a = some (if x.mute then x else { x with lastBeat := s.time })) ∧
      (x.alive = true → x.lastBeat + 10000 ≤ s.time → ∃ t y, exec (.agentDeath a) s = .next t ∧ t.agents.lookup a = some y ∧ y.alive = false ∧
        y.incarnation = x.incarnation) ∧
      (s.stopped = true → exec (.agentReadmit a) s = .next s) ∧
      (x.alive = false → s.stopped = false → ∃ t, exec (.agentReadmit a) s = .next t ∧ MemKept s t ∧ t.harts = s.harts ∧
        t.agents.lookup a = some { alive := true, incarnation := x.incarnation + 1, lastBeat := s.time, mute := false }) ∧
      (x.alive = true → exec (.agentReadmit a) s = .next s)) ∧
    (∀ x, s.agents.lookup (.link l) = some x → x.alive = true →
      let d := s.linkDir l up
      (∀ c : Fin 3, ∃ t, exec (.linkGo l up c) s = .next t ∧ MemKept s t ∧ t.harts = s.harts ∧
        t.linkDir l up = { d with stopped := d.stopped.filter (· != c), free := d.free.set c 128 }) ∧
      (∀ c : Fin 3, ∃ t, exec (.linkStop l up c) s = .next t ∧ MemKept s t ∧ t.harts = s.harts ∧
        t.linkDir l up = if c ∈ d.stopped then d else { d with stopped := d.stopped ++ [c], free := d.free.set c (min 64 d.free[c]) }) ∧
      (∀ words crc, d.tx = d.rx → d.due = none →
        let n := sectorFlits words crc
        let left := d.free[dataClass] - n
        let stops := if left ≤ 64 ∧ dataClass ∉ d.stopped then d.stopped ++ [dataClass] else d.stopped
        ∃ t, exec (.linkSectorReceive l up words crc) s = .next t ∧ MemKept s t ∧ t.harts = s.harts ∧
          (∀ ws, d.waiting = [] → words.length = 8 → decodeSector d.rx none words = some ws → n ≤ d.free[dataClass] →
            let good := Config.sectorCrc (ws.map fun w => leBytes 8 w.toNat).flatten = crc
            (good → t.linkDir l up =
              { d with tx := d.rx.insert words, rx := d.rx.insert words, delivered := d.delivered ++ [ws], flits := (d.flits + n) % 4096,
                       free := d.free.set dataClass left, stopped := stops,
                       due := if 4096 ≤ d.flits + n then some (d.tx.checksum, d.rx.checksum) else none }) ∧
            (¬ good → t.linkDir l up =
              { d with tx := Dict.empty, rx := Dict.empty, resets := d.resets + 1, waiting := [ws], flits := (d.flits + n) % 4096,
                       free := d.free.set dataClass left, stopped := stops, due := none })) ∧
          (∀ w rest, d.waiting = w :: rest →
            (words ≠ w.map LinkWord.raw → t.linkDir l up = d) ∧
            (words = w.map LinkWord.raw → w.length = 8 → n ≤ d.free[dataClass] → Config.sectorCrc (w.map fun x => leBytes 8 x.toNat).flatten = crc →
              (t.linkDir l up).delivered = d.delivered ++ [w] ∧ (t.linkDir l up).waiting = rest)) ∧
          (decodeSector d.rx none words = none ∨ words.length ≠ 8 ∨ d.free[dataClass] < n → t.linkDir l up = d)) ∧
      (d.due = none → exec (.linkDictChecksum l up) s = .next s) ∧
      (∀ y z, d.due = some (y, z) → ∃ t, exec (.linkDictChecksum l up) s = .next t ∧ MemKept s t ∧ t.harts = s.harts ∧
        t.out = s.out ++ [.checksum l.val (y == z)] ∧
        t.linkDir l up = (if y = z then { d with due := none } else { d with tx := Dict.empty, rx := Dict.empty, due := none, resets := d.resets + 1 }) ∧
        ∀ words crc, exec (.linkSectorReceive l up words crc) s = exec (.linkSectorReceive l up words crc) t)) ∧
    (∀ dict prev, dict = (s.linkDir l up).rx →
      Dict.word? dict prev .zero = some 0 ∧ (∀ w, Dict.word? dict prev (.raw w) = some w) ∧ Dict.word? dict prev .same = prev ∧
      (∀ n : Fin 256, dict.filled ≤ n.val → Dict.word? dict prev (.slot n) = none))

/-- R497 to R499: above 3.6 kW the budgets step down, and with every budget at its floor the islands do, to no less than 1.2 GHz; the tenth
interval below 3.5 kW steps back; the clamps go on and off at their limits. No hart and no byte changes. (That the low intervals count from the start again after a step
back and between the thresholds is log 56; the target up to which frequencies are restored is log 37.) -/
def Obligations.PowerAndClamps : Prop :=
  ∀ (s : State) (w : Nat),
    (∃ t, exec (.powerInterval w) s = .next t ∧ t.harts = s.harts ∧ MemKept s t ∧ t.power = w ∧ t.lowCount < 10) ∧
    (3600 < w → s.atFloor = true → ∃ t, exec (.powerInterval w) s = .next t ∧ ∀ n : Fin 24, (t.islands[n]).clamped = (s.islands[n]).clamped ∧
      (t.islands[n]).mhz = (if 1200 < (s.islands[n]).mhz then (s.islands[n]).mhz - 100 else (s.islands[n]).mhz)) ∧
    (3600 < w → s.atFloor = false → exec (.powerInterval w) s = .next (State.stepBudgets { s with power := w, lowCount := 0 } stepDown)) ∧
    (3500 ≤ w → w ≤ 3600 → s.lowCount < 10 → exec (.powerInterval w) s = .next { s with power := w, lowCount := 0 }) ∧
    (w < 3500 → s.lowCount < 9 → exec (.powerInterval w) s = .next { s with power := w, lowCount := s.lowCount + 1 }) ∧
    (w < 3500 → s.lowCount = 9 → (∀ n : Fin 24, s.targetMhz ≤ (s.islands[n]).mhz) →
      exec (.powerInterval w) s = .next (State.stepBudgets { s with power := w, lowCount := 0 } stepUp)) ∧
    (∀ i : Fin 24,
      (∃ t, exec (.thermalClampOn i) s = .next t ∧ t.harts = s.harts ∧ MemKept s t ∧ (t.islands[i]).freq = min 800 (s.islands[i]).mhz) ∧
      (∃ t, exec (.thermalClampOff i) s = .next t ∧ t.harts = s.harts ∧ MemKept s t ∧ (t.islands[i]).freq = (s.islands[i]).mhz)) ∧
    (4000 < w → exec (.powerClampOn w) s = .next { s with powerClamp := true }) ∧ (w ≤ 4000 → exec (.powerClampOn w) s = .next s) ∧
    (w < 3600 → exec (.powerClampOff w) s = .next { s with powerClamp := false }) ∧ (3600 ≤ w → exec (.powerClampOff w) s = .next s)

/-- R464, R501 to R505: the side-band port and boot: a debug request raises source 0x03, a sensor read answers, an update is staged, the fuses rise
only for an authorised request, a response with measurements uses one leaf; a reset with images that verify brings every register to its reset
value, starts the hart of device firmware at M on core 0 and brings the boot to step 5, and otherwise leaves the part in recovery; a store with a bank that fails persistently retires
its core to the spare of its cluster, or fences it. (That memory reads 0 after a reset or a loss of power is log 68; what PACKAGE_RESET names is log 72; that step 6 is the first START is
log 69; what an image's signature and measurement cover is log 89.) -/
def Obligations.PlatformEvents : Prop :=
  ∀ (s : State),
    (∀ (p : Fin 16) (n : Half) h, s.hart? { part := partNo p, id := n.toNat } = some h → h.sched.status ≠ .parked →
      ∃ t g, exec (.debug p n) s = .next t ∧ t.hart? h.key = some g ∧ (∀ m, m ∈ g.irqs ↔ m = 3 ∨ m ∈ h.irqs) ∧ g.x = h.x ∧ g.pc = h.pc ∧ MemKept s t) ∧
    (exec (.pldmSensorRead .power) s = .next (s.emit (.sensor (BitVec.ofNat 64 s.power)))) ∧
    (∀ i, ∃ t, exec (.pldmSensorRead (.temperature i)) s = .next t ∧ t.harts = s.harts ∧ MemKept s t ∧ t.out.length = s.out.length + 1) ∧
    (∀ b i, ∃ t, exec (.pldmFirmwareUpdate b i) s = .next t ∧ t.harts = s.harts ∧ MemKept s t ∧ t.fw.staged.lookup b = some i ∧
      t.fw.staged.lookup (!b) = s.fw.staged.lookup (!b) ∧ t.fw.step = s.fw.step) ∧
    (let v := min s.fw.rincaVersion s.fw.mVersion
     ∀ a : Authority,
       let may := a.session = true ∧ a.chain = true ∧ sha256 a.key = s.limit.owner
       (may → s.fw.recovery = false → s.fw.mainPower = true → 6 ≤ s.fw.step → s.limit.fuses < v → v ≤ 64 →
         exec (.commitSvn a) s = .next (State.emit { s with limit := { s.limit with fuses := v } } (.commit true))) ∧
       (¬ may ∨ v ≤ s.limit.fuses ∨ 64 < v ∨ s.fw.step < 6 → exec (.commitSvn a) s = .next (s.emit (.commit false)))) ∧
    (s.limit.leaf < 2 ^ 20 → ∃ t m, exec .getMeasurements s = .next t ∧ t.limit.leaf = s.limit.leaf + 1 ∧ t.harts = s.harts ∧ MemKept s t ∧
      t.out = s.out ++ [.measurements m (Config.signature s.limit.leaf m)] ∧ m.take s.fw.rincaDigest.length = s.fw.rincaDigest) ∧
    (2 ^ 20 ≤ s.limit.leaf → exec .getMeasurements s = .next (s.emit .spdmError)) ∧
    (∀ v, s.featClosed = false → s.hostUp = true → exec (.featreqWrite v) s = .next { s with featReq := v.setWidth 6 }) ∧
    (∀ v, s.featClosed = true → exec (.featreqWrite v) s = .next s) ∧
    (∃ t, exec .mainSideUnpowered s = .next t ∧ t.harts = [] ∧ t.fw.mainPower = false ∧ t.limit.fuses = s.limit.fuses ∧ t.limit.leaf = s.limit.leaf ∧
      ∀ a, a < 0x80000000000000 → Mem.get t.mem a = 0) ∧
    (∀ r m (b : Boot), s.fw.staged = [] →
      (s.verifies r = true → s.verifies m = true → ∃ t, exec (.packageReset r m b) s = .next t ∧
        (∀ h, h ∈ t.harts → h.key = Hart.firmware.key ∧ h.level = .m) ∧ (b.failed = [] → t.harts = [Hart.firmware] ∧ t.slots = [Slot.firmware]) ∧ t.parts = State.reset.parts ∧ t.tlb = [] ∧ t.lines = [] ∧ t.fw.step = 5 ∧ t.fw.recovery = false ∧
        t.fw.rincaDigest = sha256 (imageMessage r) ∧ t.fw.mDigest = sha256 (imageMessage m) ∧ t.fw.rincaVersion = r.version ∧ t.fw.mVersion = m.version ∧
        t.limit.fuses = s.limit.fuses ∧ t.limit.window = b.window ∧ t.pkg = b.pkg ∧ (∀ n : Fin 2, (t.ports[n]).cxl = b.cxl.getD n.val false) ∧
        (∀ a, a < 0x80000000000000 → Mem.get t.mem a = 0) ∧
        ∀ c, c ∈ b.failed → c < 848 → storeBytes (clsOf c) ≠ 0 → t.fenced c = true ∨ c ∈ t.retiredCores) ∧
      (s.verifies r = false → ∃ t, exec (.packageReset r m b) s = .next t ∧ t.fw.recovery = true ∧ t.fw.step = 0 ∧ t.harts = []) ∧
      (s.verifies r = true → s.verifies m = false → ∃ t, exec (.packageReset r m b) s = .next t ∧ t.fw.recovery = true ∧ t.fw.step = 2 ∧ t.harts = []) ∧
      (r.version < s.limit.fuses → s.verifies r = false) ∧
      (lmsVerifies s.fw.key r.signature (imageMessage r) = false → s.verifies r = false)) ∧
    (∀ c rows, s.bankFails c = false → exec (.coreRetire c rows) s = .next s) ∧
    (∀ c rows, s.bankFails c = true → c < 848 → storeBytes (clsOf c) ≠ 0 → s.fenced c = false → (∀ i, i ∈ slotIds c → (s.slot i).occupant = none) →
      (clusterOf c ∈ s.spares → (∀ h, h ∈ s.harts → h.sched.status ≠ .moving) → ∃ t, exec (.coreRetire c rows) s = .next t ∧ t.fenced c = true ∧ t.harts = s.harts ∧ MemKept s t) ∧
      (clusterOf c ∉ s.spares → rows = [] → s.corrupt = [] → ∃ t, exec (.coreRetire c rows) s = .next t ∧ t.fenced c = false ∧ clusterOf c ∈ t.spares ∧ c ∈ t.retiredCores ∧
        t.harts = s.harts ∧ MemKept s t))
end

