-- ==== Sys2Proof/Laws/Mem.lean ====
section
/-! SUPPORT. Memory: every operation keeps the canonical form, a byte reads as it was last written, a write leaves every other byte
alone, and equal contents are equal lists. -/

namespace Sys2Proof.Laws
open Sys2Proof.Machine

/-! ### The canonical form -/

theorem wfFrom_cons {n a : Nat} {b : Byte} {m : List Host.Cell} :
    Mem.wfFrom n ((a, b) :: m) = true ↔ n ≤ a ∧ b ≠ 0 ∧ Mem.wfFrom (a + 1) m = true := by
  simp [Mem.wfFrom, and_assoc]

theorem wfFrom_le {m : List Host.Cell} {n k : Nat} (h : Mem.wfFrom n m = true) (le : k ≤ n) : Mem.wfFrom k m = true := by
  cases m with
  | nil => rfl
  | cons c m =>
    obtain ⟨a, b⟩ := c
    rw [wfFrom_cons] at h ⊢
    exact ⟨Nat.le_trans le h.1, h.2⟩

/-- Below the first address every byte reads 0. -/
theorem get_below {m : List Host.Cell} {n i : Nat} (h : Mem.wfFrom n m = true) (lt : i < n) : Mem.get m i = 0 := by
  cases m with
  | nil => rfl
  | cons c m =>
    obtain ⟨a, b⟩ := c
    have := (wfFrom_cons.mp h).1
    simp [Mem.get, show i ≠ a by omega, show i < a by omega]

theorem wfFrom_put {m : List Host.Cell} {n i : Nat} {v : Byte} (h : Mem.wfFrom n m = true) (le : n ≤ i) : Mem.wfFrom n (Mem.put m i v) = true := by
  induction m generalizing n with
  | nil =>
    rw [Mem.put]
    split
    · rfl
    · rename_i k; exact wfFrom_cons.mpr ⟨le, k, rfl⟩
  | cons c m ih =>
    obtain ⟨a, b⟩ := c
    obtain ⟨la, hb, hm⟩ := wfFrom_cons.mp h
    rw [Mem.put]
    split
    · split
      · exact h
      · rename_i lt k; exact wfFrom_cons.mpr ⟨le, k, wfFrom_cons.mpr ⟨by omega, hb, hm⟩⟩
    · split
      · split
        · exact wfFrom_le hm (by omega)
        · rename_i e k; exact wfFrom_cons.mpr ⟨le, k, e ▸ hm⟩
      · exact wfFrom_cons.mpr ⟨la, hb, ih hm (by omega)⟩

/-- A write of a byte keeps the canonical form. -/
theorem wf_put {m : List Host.Cell} (i : Nat) (v : Byte) (h : Mem.wf m = true) : Mem.wf (Mem.put m i v) = true :=
  wfFrom_put h (Nat.zero_le i)

/-- A write of several bytes keeps the canonical form. -/
theorem wf_putBytes {m : List Host.Cell} (a : Nat) (bs : List Byte) (h : Mem.wf m = true) : Mem.wf (Mem.putBytes m a bs) = true := by
  induction bs generalizing m a with
  | nil => exact h
  | cons b bs ih => exact ih _ (wf_put a b h)

theorem wfFrom_filter {m : List Host.Cell} {n : Nat} (p : Host.Cell → Bool) (h : Mem.wfFrom n m = true) : Mem.wfFrom n (m.filter p) = true := by
  induction m generalizing n with
  | nil => rfl
  | cons c m ih =>
    obtain ⟨a, b⟩ := c
    obtain ⟨la, hb, hm⟩ := wfFrom_cons.mp h
    rw [List.filter_cons]
    split
    · exact wfFrom_cons.mpr ⟨la, hb, ih hm⟩
    · exact wfFrom_le (ih hm) (by omega)

/-- Removing cells keeps the canonical form. -/
theorem wf_filter {m : List Host.Cell} (p : Host.Cell → Bool) (h : Mem.wf m = true) : Mem.wf (m.filter p) = true := wfFrom_filter p h

/-! ### Reading after writing -/

theorem get_put_from {m : List Host.Cell} {n : Nat} (i j : Nat) (v : Byte) (h : Mem.wfFrom n m = true) :
    Mem.get (Mem.put m i v) j = if j = i then v else Mem.get m j := by
  induction m generalizing n with
  | nil =>
    simp only [Mem.put]
    by_cases k : v = 0#8 <;> by_cases e : j = i <;> simp [k, e, Mem.get]
  | cons c m ih =>
    obtain ⟨a, b⟩ := c
    obtain ⟨-, -, hm⟩ := wfFrom_cons.mp h
    have low : ∀ x, x < a + 1 → Mem.get m x = 0 := fun x lt => get_below hm lt
    simp only [Mem.put]
    by_cases lt : i < a
    · by_cases k : v = 0#8
      · by_cases e : j = i
        · simp [lt, k, e, Mem.get, show i ≠ a by omega]
        · simp [lt, k, e]
      · by_cases e : j = i
        · simp [lt, k, e, Mem.get]
        · by_cases l2 : j < i
          · simp [lt, k, e, Mem.get, l2, show j ≠ a by omega, show j < a by omega]
          · simp [lt, k, e, Mem.get, l2]
    · by_cases ea : i = a
      · subst ea
        by_cases k : v = 0#8
        · by_cases e : j = i
          · simp [k, e, low]
          · by_cases l2 : j < i
            · simp [k, e, Mem.get, l2, low j (by omega)]
            · simp [k, e, Mem.get, l2]
        · by_cases e : j = i
          · simp [k, e, Mem.get]
          · by_cases l2 : j < i <;> simp [k, e, Mem.get, l2]
      · simp only [lt, ea, if_false, Mem.get]
        by_cases e : j = a
        · simp [e, Ne.symm ea]
        · by_cases l2 : j < a
          · simp [e, l2, show j ≠ i by omega]
          · simp [e, l2, ih hm]

/-- A byte reads as it was written; every other byte as before. -/
theorem get_put {m : List Host.Cell} (i j : Nat) (v : Byte) (h : Mem.wf m = true) :
    Mem.get (Mem.put m i v) j = if j = i then v else Mem.get m j := get_put_from i j v h

/-- A write of several bytes leaves the bytes outside it alone. -/
theorem get_putBytes_outside {m : List Host.Cell} (a : Nat) (bs : List Byte) (j : Nat) (h : Mem.wf m = true) (out : j < a ∨ a + bs.length ≤ j) :
    Mem.get (Mem.putBytes m a bs) j = Mem.get m j := by
  induction bs generalizing m a with
  | nil => rfl
  | cons b bs ih =>
    simp only [List.length_cons] at out
    rw [Mem.putBytes, ih (a + 1) (wf_put a b h) (by omega), get_put a j b h, if_neg (by omega)]

/-- Bytes read as they were written. -/
theorem bytes_putBytes {m : List Host.Cell} (a : Nat) (bs : List Byte) (h : Mem.wf m = true) :
    Mem.bytes (Mem.putBytes m a bs) a bs.length = bs := by
  induction bs generalizing m a with
  | nil => rfl
  | cons b bs ih =>
    have hw := wf_put a b h
    simp only [Mem.putBytes, List.length_cons, Mem.bytes]
    rw [ih (a + 1) hw, get_putBytes_outside (a + 1) bs a hw (by omega), get_put a a b h, if_pos rfl]

/-- What bytes are read depends only on them. -/
theorem bytes_congr {m m' : List Host.Cell} (a n : Nat) (h : ∀ i, a ≤ i → i < a + n → Mem.get m i = Mem.get m' i) : Mem.bytes m a n = Mem.bytes m' a n := by
  induction n generalizing a with
  | zero => rfl
  | succ n ih => rw [Mem.bytes, Mem.bytes, h a (Nat.le_refl a) (by omega), ih (a + 1) fun i l u => h i (by omega) (by omega)]

theorem length_bytes (m : List Host.Cell) (a n : Nat) : (Mem.bytes m a n).length = n := by
  induction n generalizing a with
  | zero => rfl
  | succ n ih => rw [Mem.bytes, List.length_cons, ih]

theorem get_filter_from {m : List Host.Cell} {n : Nat} (p : Nat → Bool) (j : Nat) (h : Mem.wfFrom n m = true) :
    Mem.get (m.filter fun c => p c.1) j = if p j then Mem.get m j else 0 := by
  induction m generalizing n with
  | nil => simp [Mem.get]
  | cons c m ih =>
    obtain ⟨a, b⟩ := c
    obtain ⟨-, -, hm⟩ := wfFrom_cons.mp h
    have low : ∀ x, x < a + 1 → Mem.get m x = 0 := fun x lt => get_below hm lt
    by_cases pa : p a = true
    · simp only [List.filter_cons, pa, if_true, Mem.get, ih hm]
      by_cases e : j = a
      · simp [e, pa]
      · by_cases l : j < a <;> simp [e, l]
    · simp only [List.filter_cons, pa, Mem.get]
      rw [if_neg (by simp), ih hm]
      by_cases e : j = a
      · simp [e, pa]
      · by_cases l : j < a
        · simp [e, l, low j (by omega)]
        · simp [e, l]

/-- Where cells are removed by address, those addresses read 0, and the others as before. -/
theorem get_filter {m : List Host.Cell} (p : Nat → Bool) (j : Nat) (h : Mem.wf m = true) :
    Mem.get (m.filter fun c => p c.1) j = if p j then Mem.get m j else 0 := get_filter_from p j h

theorem ext_from {m m' : List Host.Cell} {n n' : Nat} (h : Mem.wfFrom n m = true) (h' : Mem.wfFrom n' m' = true)
    (e : ∀ i, Mem.get m i = Mem.get m' i) : m = m' := by
  induction m generalizing m' n n' with
  | nil =>
    cases m' with
    | nil => rfl
    | cons c l =>
      obtain ⟨a, b⟩ := c
      have := e a
      simp [Mem.get] at this
      exact absurd this.symm (wfFrom_cons.mp h').2.1
  | cons c l ih =>
    obtain ⟨a, b⟩ := c
    obtain ⟨-, hb, hl⟩ := wfFrom_cons.mp h
    cases m' with
    | nil =>
      have := e a
      simp [Mem.get] at this
      exact absurd this hb
    | cons c' l' =>
      obtain ⟨a', b'⟩ := c'
      obtain ⟨-, hb', hl'⟩ := wfFrom_cons.mp h'
      have ea : a = a' := by
        have x := e a
        have y := e a'
        simp only [Mem.get, if_true] at x y
        by_cases lt : a < a'
        · rw [if_neg (by omega), if_pos lt] at x; exact absurd x hb
        · by_cases gt : a' < a
          · rw [if_neg (by omega), if_pos gt] at y; exact absurd y.symm hb'
          · omega
      subst ea
      have eb : b = b' := by simpa [Mem.get] using e a
      subst eb
      congr 1
      refine ih hl hl' fun i => ?_
      by_cases lt : i < a + 1
      · rw [get_below hl lt, get_below hl' lt]
      · have := e i
        simpa [Mem.get, show i ≠ a by omega, show ¬ i < a by omega] using this

/-- Canonical memories with the same contents are the same list. -/
theorem mem_ext {m m' : List Host.Cell} (h : Mem.wf m = true) (h' : Mem.wf m' = true) (e : ∀ i, Mem.get m i = Mem.get m' i) : m = m' := ext_from h h' e

/-! ### Numbers in bytes -/

theorem length_leBytes (n v : Nat) : (leBytes n v).length = n := by
  induction n generalizing v with
  | zero => rfl
  | succ n ih => rw [leBytes, List.length_cons, ih]

/-- The number in the first `n` bytes of a number. -/
theorem leNat_leBytes (n v : Nat) : leNat (leBytes n v) = v % 256 ^ n := by
  induction n generalizing v with
  | zero => simp [leBytes, leNat, Nat.mod_one]
  | succ n ih =>
    have e : v % 256 ^ (n + 1) = v % 256 + 256 * (v / 256 % 256 ^ n) := by rw [Nat.pow_succ', Nat.mod_mul]
    rw [leBytes, leNat, ih, BitVec.toNat_ofNat, e]

/-- A number reads as it was written, cut to its bytes. -/
theorem readNat_writeNat (s : State) (pa n v : Nat) (h : Mem.wf s.mem = true) : (s.writeNat pa n v).readNat pa n = v % 256 ^ n := by
  have e := bytes_putBytes pa (leBytes n v) h
  rw [length_leBytes] at e
  simp only [State.readNat, State.writeNat, State.writeBytes, State.setMem, e, leNat_leBytes]

end Sys2Proof.Laws
end

