-- ==== Sys2Proof/Laws/Coherence.lean ====
section
/-! SUPPORT. The caches and the directories change no byte of memory, no partition, no slot, and of a hart no more than the record of what its
accesses wait for and of what its L1D has lost, but for a region that forms F while writes of a host wait for it: one lemma for
each of their operations, and what a store into a sector changes. -/

namespace Sys2Proof.Laws
open Sys2Proof.Machine

/-- A hart without the record of what its accesses wait for and of what its L1D has lost. -/
def bare (h : Hart) : Hart := { h with outst := [], resvLost := false }

/-- Memory, partitions, slots and the waiting writes of hosts are what they were, and so are the harts but for those records. -/
structure Quiet (s t : State) : Prop where
  waits : t.hostWrites = s.hostWrites
  mem : t.mem = s.mem
  harts : t.harts.map bare = s.harts.map bare
  parts : t.parts = s.parts
  slots : t.slots = s.slots

theorem Quiet.refl (s : State) : Quiet s s := ⟨rfl, rfl, rfl, rfl, rfl⟩

theorem Quiet.trans {s t u : State} (a : Quiet s t) (b : Quiet t u) : Quiet s u :=
  ⟨b.waits.trans a.waits, b.mem.trans a.mem, b.harts.trans a.harts, b.parts.trans a.parts, b.slots.trans a.slots⟩

/-- A change of other fields alone is quiet. -/
theorem Quiet.same {s t : State} (w : t.hostWrites = s.hostWrites) (m : t.mem = s.mem) (h : t.harts = s.harts) (p : t.parts = s.parts)
    (x : t.slots = s.slots) : Quiet s t := ⟨w, m, by rw [h], p, x⟩

/-- After a quiet change no write of a host waits where none did. -/
theorem Quiet.none {s t : State} (q : Quiet s t) (w : s.hostWrites = []) : t.hostWrites = [] := q.waits.trans w

theorem quiet_foldl {α : Type} (f : State → α → State) (l : List α) (s : State) (h : ∀ s a, Quiet s (f s a)) : Quiet s (l.foldl f s) := by
  induction l generalizing s with
  | nil => exact .refl s
  | cons a l ih => exact (h s a).trans (ih (f s a))

theorem quiet_setLines (s : State) (l : List Line) : Quiet s (s.setLines l) := .same rfl rfl rfl rfl rfl

theorem quiet_modSector (s : State) (pa : Nat) (sel : Line → Bool) (f : Sector → Sector) : Quiet s (s.modSector pa sel f) := quiet_setLines s _

theorem quiet_setCxl (s : State) (pa : Nat) (c : Cxl) : Quiet s (s.setCxl pa c) := .same rfl rfl rfl rfl rfl

theorem quiet_emit (s : State) (o : Output) : Quiet s (s.emit o) := .same rfl rfl rfl rfl rfl

theorem quiet_putRegion (s : State) (e : Region) : Quiet s (s.putRegion e) := .same rfl rfl rfl rfl rfl

theorem quiet_violation (s : State) : Quiet s s.violation := .same rfl rfl rfl rfl rfl

theorem quiet_dropStale (s : State) (die pa : Nat) : Quiet s (s.dropStale die pa) := .same rfl rfl rfl rfl rfl

theorem quiet_invalidateElsewhere (s : State) (pa : Nat) (dies : List Nat) : Quiet s (s.invalidateElsewhere pa dies) := quiet_modSector ..

theorem quiet_setL1d (s : State) (l : List (Nat × Nat)) : Quiet s (s.setL1d l) := by
  refine ⟨rfl, rfl, ?_, rfl, rfl⟩
  simp only [State.setL1d, List.map_map]
  refine List.map_congr_left fun h _ => ?_
  simp only [Function.comp]
  split
  · split <;> rfl
  · rfl

theorem quiet_addL1d (s : State) (core pa : Nat) : Quiet s (s.addL1d core pa) := quiet_setL1d s _

theorem quiet_dropL1d (s : State) (pa : Nat) (keep : Option Nat) : Quiet s (s.dropL1d pa keep) := quiet_setL1d s _

theorem quiet_dropL1 (s : State) (sel : Nat → Nat → Bool) : Quiet s (s.dropL1 sel) :=
  (quiet_setL1d s (s.l1d.filter fun e => !sel e.1 e.2)).trans (.same rfl rfl rfl rfl rfl)

theorem quiet_ite {s t u : State} {c : Prop} [Decidable c] (a : Quiet s t) (b : Quiet s u) : Quiet s (if c then t else u) := by
  split
  · exact a
  · exact b

theorem quiet_dropSector (s : State) (sec : Nat) : Quiet s (s.dropSector sec) := (quiet_modSector s sec _ _).trans (quiet_dropL1 _ _)

theorem quiet_hostEvict (s : State) (pa : Nat) : Quiet s (s.hostEvict pa) := by
  have clean : ∀ code,
      Quiet s (if s.lineWith pa Sector.isValid || s.inL1 pa then s else (s.emit (.hostRequest (sectorOf pa) code)).setCxl pa .i) :=
    fun code => quiet_ite (.refl s) (.same rfl rfl rfl rfl rfl)
  have dirty : Quiet s (((s.dropSector (sectorOf pa)).emit (.hostRequest (sectorOf pa) dirtyEvict)).setCxl pa .i) :=
    ((quiet_dropSector s _).trans (quiet_emit _ _)).trans (quiet_setCxl _ _ _)
  unfold State.hostEvict
  split
  · split
    · exact .refl s
    · dsimp only
      split
      · exact .refl s
      · exact .refl s
      · exact clean _
      · exact clean _
      · exact dirty
      · exact dirty
  all_goals exact .refl s

theorem quiet_dropLines (s : State) (sel : Line → Bool) : Quiet s (s.dropLines sel) :=
  Quiet.trans (t := { s with lines := s.lines.filter fun l => !sel l }) (.same rfl rfl rfl rfl rfl)
    (quiet_foldl _ _ _ fun s _ => quiet_foldl _ _ s fun s _ => quiet_hostEvict s _)

theorem quiet_install (s : State) (p : Fin 17) (v : Vault) (pa : Nat) (high : Bool) (st : List Sector) : Quiet s (s.install p v pa high st) := by
  unfold State.install
  dsimp only
  split
  · exact .refl s
  · exact (quiet_dropLines s _).trans (.same rfl rfl rfl rfl rfl)

theorem quiet_hitLine (s : State) (v : Vault) (l : Line) : Quiet s (s.hitLine v l) := by
  unfold State.hitLine
  split
  · exact .refl s
  · split <;> exact .same rfl rfl rfl rfl rfl

theorem quiet_lookup (s : State) (p : Fin 17) (v : Vault) (pa : Nat) (alloc : Option Bool) (again write : Bool) :
    Quiet s (s.lookup p v pa alloc again write) := by
  unfold State.lookup
  dsimp only
  split
  · exact .refl s
  split
  · split
    · exact quiet_ite (.refl s) (Quiet.trans
        (t := { s with astray := s.astray.filter (· != (p, v.index, pa / v.lineBytes * v.lineBytes)) }) (.same rfl rfl rfl rfl rfl) (quiet_install ..))
    · exact .refl s
  · rename_i l _
    split
    · generalize ht : (if again then s else s.hitLine v l) = t
      have qt : Quiet s t := by subst ht; split <;> first | exact .refl s | exact quiet_hitLine s v l
      split
      · exact qt
      · exact qt.trans (quiet_setLines t _)
    · split
      · split
        · refine Quiet.trans (t := State.install { s with lines := s.lines.filter fun m => !(m.ofVault p v.index && m.holds pa) } p v pa true l.sectors)
            (Quiet.trans (t := { s with lines := s.lines.filter fun m => !(m.ofVault p v.index && m.holds pa) }) (.same rfl rfl rfl rfl rfl) (quiet_install ..)) ?_
          split
          · exact .refl _
          · exact quiet_setLines _ _
        · exact (quiet_dropLines s _).trans (quiet_install ..)
      · exact .refl s

theorem quiet_regionRead (s : State) (pa die : Nat) : Quiet s (s.regionRead pa die) := by
  unfold State.regionRead
  split
  · dsimp only
    split
    · split <;> first | exact .refl s | exact quiet_putRegion s _
    · split <;> exact quiet_putRegion s _
    · split
      · exact .refl s
      · exact quiet_ite (quiet_putRegion s _) (quiet_putRegion s _)
  all_goals first | exact .refl s | exact quiet_putRegion s _

theorem quiet_dropLeased (s : State) (r die : Nat) : Quiet s (s.dropLeased r die) := by
  unfold State.dropLeased
  extract_lets a t
  have q : Quiet s t := .same rfl rfl rfl rfl rfl
  clear_value t
  exact q.trans (quiet_dropL1 t _)

theorem quiet_dropLapsed (s : State) (die core pa : Nat) : Quiet s (s.dropLapsed die core pa) := by
  unfold State.dropLapsed
  exact quiet_ite ((quiet_modSector s pa _ _).trans (quiet_dropL1 _ _)) (.refl s)

theorem quiet_formF {s : State} (w : s.hostWrites = []) (r : Nat) (hs : List (Nat × List Nat)) : Quiet s (s.formF r hs) := by
  simp only [State.formF, State.putRegion, w, List.filter_nil, List.foldl_nil]
  refine ⟨w.symm, rfl, ?_, rfl, rfl⟩
  simp only
  rw [List.map_map]
  exact List.map_congr_left fun h _ => rfl

theorem quiet_close {s : State} (w : s.hostWrites = []) (r : Nat) (hs : List (Nat × List Nat)) (all : Bool) : Quiet s (s.close r hs all) := by
  unfold State.close
  dsimp only
  generalize (if hs.isEmpty && !all then s.region r else { s.region r with lastWrite := s.time }) = e
  have qe := quiet_putRegion s e
  refine qe.trans ?_
  split
  · split
    · rename_i ls _ _
      have q := quiet_foldl (fun (s : State) (l : Nat × Nat) => s.dropLeased r l.1) ls (s.putRegion e) fun s _ => quiet_dropLeased s r _
      exact q.trans (quiet_formF (q.none (qe.none w)) ..)
    · exact quiet_putRegion _ _
  all_goals exact .refl _

theorem quiet_regionWrite {s : State} (w : s.hostWrites = []) (pa die : Nat) (see : List Nat) : Quiet s (s.regionWrite pa die see) := by
  unfold State.regionWrite
  dsimp only
  split
  · split
    · exact quiet_ite (quiet_putRegion s _) ((quiet_invalidateElsewhere s pa _).trans (quiet_putRegion _ _))
    · exact quiet_ite (quiet_putRegion s _) ((quiet_invalidateElsewhere s pa _).trans (quiet_putRegion _ _))
    · refine Quiet.trans ?_ (quiet_close ?_ _ _ _)
      · exact (quiet_invalidateElsewhere s pa [die]).trans (.same rfl rfl rfl rfl rfl)
      · exact w
  · split
    · exact (quiet_invalidateElsewhere s pa _).trans (quiet_putRegion _ _)
    all_goals exact .refl s
  all_goals exact .refl s

/-- A read changes no byte, no partition and no slot. -/
theorem quiet_readKeep (s : State) (v : Via) (pa : Nat) (alloc : Option Bool) (l1 again : Bool) : Quiet s (s.readKeep v pa alloc l1 again) := by
  unfold State.readKeep
  dsimp only
  generalize ht : (if s.denied v.part pa then s.violation else s) = t
  have qt : Quiet s t := by subst ht; exact quiet_ite (quiet_violation s) (.refl s)
  split
  · generalize hu : (if (t.seeDie v pa).isNone then t.dropStale (dieOf v.home) pa else t) = u
    have qu : Quiet t u := by subst hu; exact quiet_ite (quiet_dropStale ..) (.refl t)
    refine qt.trans (qu.trans ((quiet_dropLapsed u (u.cacheDie v pa) v.core pa).trans ?_))
    generalize u.dropLapsed (u.cacheDie v pa) v.core pa = y
    split
    · exact .refl y
    · generalize ha : (if y.dieHolds (u.cacheDie v pa) pa then y else y.regionRead pa (u.cacheDie v pa)) = a
      have qa : Quiet y a := by subst ha; exact quiet_ite (.refl y) (quiet_regionRead ..)
      refine qa.trans ?_
      cases a.vaultOf v with
      | none => exact quiet_ite (quiet_addL1d a v.core pa) (.refl a)
      | some vt => exact (quiet_lookup a v.part vt pa alloc again false).trans (quiet_ite (quiet_addL1d _ v.core pa) (.refl _))
  · exact qt

theorem quiet_readLine (s : State) (v : Via) (pa : Nat) (alloc : Option Bool) (l1 again : Bool) : Quiet s (s.readLine v pa alloc l1 again) := by
  unfold State.readLine
  exact quiet_ite ((quiet_readKeep ..).trans (quiet_hostEvict _ pa)) (quiet_readKeep ..)

theorem quiet_readTouch (s : State) (v : Via) (pa : Nat) (alloc : Option Bool) (l1 : Bool) : Quiet s (s.readTouch v pa alloc l1) :=
  quiet_readLine ..

theorem quiet_settleOthers (s : State) (v : Via) (pa : Nat) : Quiet s (s.settleOthers v pa) := by
  unfold State.settleOthers
  dsimp only
  split
  · split
    · exact ((quiet_modSector s pa _ _).trans (quiet_emit _ _)).trans (quiet_setCxl _ _ _)
    · exact quiet_modSector ..
  all_goals exact quiet_modSector ..

/-- Before memory takes its bytes, a write changes no byte, no partition and no slot. -/
theorem quiet_writeTouch {s : State} (w : s.hostWrites = []) (v : Via) (pa : Nat) (alloc : Option Bool) (scalar again : Bool) : Quiet s (s.writeTouch v pa alloc scalar again) := by
  unfold State.writeTouch
  dsimp only
  generalize ht : ({ s with l1i := s.l1i.filter fun e => e.pa != sectorOf pa } : State) = t
  have qt : Quiet s t := by subst ht; exact .same rfl rfl rfl rfl rfl
  split
  · have qs := quiet_settleOthers t v pa
    refine qt.trans ((qs.trans (quiet_regionWrite (qs.none (qt.none w)) pa ((t.settleOthers v pa).cacheDie v pa) [dieOf v.core, dieOf v.home])).trans
      ((quiet_dropL1d _ pa (if scalar then some v.core else none)).trans ?_))
    generalize State.dropL1d _ pa _ = u
    split
    · rename_i vt _
      refine (quiet_lookup u v.part vt pa (if vt.write = 0 then alloc else none) again true).trans ?_
      split
      · exact quiet_modSector ..
      · exact .refl _
    · exact .refl u
  · exact qt

theorem quiet_backInvalidate (s : State) (sec : Nat) : Quiet s (s.backInvalidate sec) := by
  unfold State.backInvalidate
  split
  · exact .same rfl rfl rfl rfl rfl
  · exact .refl s

theorem backInvalidate_mem (s : State) (sec : Nat) : (s.backInvalidate sec).mem = s.mem := by unfold State.backInvalidate; split <;> rfl
theorem backInvalidate_harts (s : State) (sec : Nat) : (s.backInvalidate sec).harts = s.harts := by unfold State.backInvalidate; split <;> rfl
theorem backInvalidate_parts (s : State) (sec : Nat) : (s.backInvalidate sec).parts = s.parts := by unfold State.backInvalidate; split <;> rfl
theorem backInvalidate_slots (s : State) (sec : Nat) : (s.backInvalidate sec).slots = s.slots := by unfold State.backInvalidate; split <;> rfl

/-! ### A store into a sector -/

section
variable (s : State) (v : Via) (pa : Nat) (bs : List Byte) (alloc : Option Bool) (scalar again : Bool) (w : s.hostWrites = [])
include w

/-- The bytes are in memory, and no other byte has changed. -/
theorem storeSector_mem : (s.storeSector v pa bs alloc scalar again).mem = Mem.putBytes s.mem pa bs := by
  rw [State.storeSector, backInvalidate_mem]
  show Mem.putBytes (s.writeTouch v pa alloc scalar again).mem pa bs = _
  rw [(quiet_writeTouch w v pa alloc scalar again).mem]

theorem storeSector_wf (h : Mem.wf s.mem = true) : Mem.wf (s.storeSector v pa bs alloc scalar again).mem = true := by
  rw [storeSector_mem s v pa bs alloc scalar again w]; exact wf_putBytes pa bs h

theorem storeSector_parts : (s.storeSector v pa bs alloc scalar again).parts = s.parts := by
  rw [State.storeSector, backInvalidate_parts]
  exact (quiet_writeTouch w v pa alloc scalar again).parts

theorem storeSector_slots : (s.storeSector v pa bs alloc scalar again).slots = s.slots := by
  rw [State.storeSector, backInvalidate_slots]
  exact (quiet_writeTouch w v pa alloc scalar again).slots

/-- Every byte outside the stored ones reads as before. -/
theorem storeSector_outside (j : Nat) (h : Mem.wf s.mem = true) (out : j < pa ∨ pa + bs.length ≤ j) :
    Mem.get (s.storeSector v pa bs alloc scalar again).mem j = Mem.get s.mem j := by
  rw [storeSector_mem s v pa bs alloc scalar again w]; exact get_putBytes_outside pa bs j h out

end

/-- No reservation of a stored sector is left; a hart is otherwise what the caches leave of it. -/
theorem storeSector_harts (s : State) (v : Via) (pa : Nat) (bs : List Byte) (alloc : Option Bool) (scalar again : Bool) :
    (s.storeSector v pa bs alloc scalar again).harts = ((s.writeTouch v pa alloc scalar again).endReservations pa bs.length).harts := by
  rw [State.storeSector, backInvalidate_harts]; rfl

end Sys2Proof.Laws
end

