-- ==== Sys2Proof/Laws/Run.lean ====
section
/-! SUPPORT. What running an instruction does, once for every body. -/

namespace Sys2Proof.Laws
open Sys2Proof.Machine Sys2Proof.Claims

/-- A change of a hart keeps its key, so that two changes in a row are one. -/
theorem modHart_modHart (s : State) (k : HartKey) (f g : Hart → Hart) (hf : ∀ x, (f x).key = x.key) :
    (s.modHart k f).modHart k g = s.modHart k fun x => g (f x) := by
  simp only [State.modHart, List.map_map]
  congr 1
  apply List.map_congr_left
  intro x _
  simp only [Function.comp]
  by_cases e : (x.key == k) = true
  · simp [e, hf]
  · simp [e]

/-- The checks pass. -/
theorem guard_none {s : State} {h : Hart} {i : Instr} (r : Ready s h i) : guard i s h = none := by
  obtain ⟨-, hf, hl, hr, hc, hfree, hb⟩ := r
  simp [Sys2Proof.Machine.guard, hf, Nat.not_lt.mpr hl, hr, hc, hfree, hb]

/-- With its checks passed, an instruction does what its body does. -/
theorem run_ready {s : State} {h : Hart} {i : Instr} (r : Ready s h i) (body : State → Hart → Effect) :
    run i s body = .next (finish i s h (body s h)) := by
  simp only [run, r.1, runOn, guard_none r]

end Sys2Proof.Laws
end

