-- ==== Sys2Proof/Laws/State.lean ====
section
/-! SUPPORT. One lemma per field and update of the state and of a hart, and what a lookup answers after an update. -/

namespace Sys2Proof.Laws
open Sys2Proof.Machine

/-! ### setMem -/

@[simp] theorem setMem_mem (s : State) (m : List Host.Cell) : (s.setMem m).mem = m := rfl
@[simp] theorem setMem_harts (s : State) (m : List Host.Cell) : (s.setMem m).harts = s.harts := rfl
@[simp] theorem setMem_slots (s : State) (m : List Host.Cell) : (s.setMem m).slots = s.slots := rfl
@[simp] theorem setMem_cores (s : State) (m : List Host.Cell) : (s.setMem m).cores = s.cores := rfl
@[simp] theorem setMem_tlb (s : State) (m : List Host.Cell) : (s.setMem m).tlb = s.tlb := rfl
@[simp] theorem setMem_lines (s : State) (m : List Host.Cell) : (s.setMem m).lines = s.lines := rfl
@[simp] theorem setMem_fifo (s : State) (m : List Host.Cell) : (s.setMem m).fifo = s.fifo := rfl
@[simp] theorem setMem_l1d (s : State) (m : List Host.Cell) : (s.setMem m).l1d = s.l1d := rfl
@[simp] theorem setMem_l1i (s : State) (m : List Host.Cell) : (s.setMem m).l1i = s.l1i := rfl
@[simp] theorem setMem_regions (s : State) (m : List Host.Cell) : (s.setMem m).regions = s.regions := rfl
@[simp] theorem setMem_stale (s : State) (m : List Host.Cell) : (s.setMem m).stale = s.stale := rfl
@[simp] theorem setMem_astray (s : State) (m : List Host.Cell) : (s.setMem m).astray = s.astray := rfl
@[simp] theorem setMem_cxl (s : State) (m : List Host.Cell) : (s.setMem m).cxl = s.cxl := rfl
@[simp] theorem setMem_hostHeld (s : State) (m : List Host.Cell) : (s.setMem m).hostHeld = s.hostHeld := rfl
@[simp] theorem setMem_asked (s : State) (m : List Host.Cell) : (s.setMem m).asked = s.asked := rfl
@[simp] theorem setMem_wrCurs (s : State) (m : List Host.Cell) : (s.setMem m).wrCurs = s.wrCurs := rfl
@[simp] theorem setMem_wrCount (s : State) (m : List Host.Cell) : (s.setMem m).wrCount = s.wrCount := rfl
@[simp] theorem setMem_snoops (s : State) (m : List Host.Cell) : (s.setMem m).snoops = s.snoops := rfl
@[simp] theorem setMem_hostWrites (s : State) (m : List Host.Cell) : (s.setMem m).hostWrites = s.hostWrites := rfl
@[simp] theorem setMem_atomics (s : State) (m : List Host.Cell) : (s.setMem m).atomics = s.atomics := rfl
@[simp] theorem setMem_ports (s : State) (m : List Host.Cell) : (s.setMem m).ports = s.ports := rfl
@[simp] theorem setMem_agents (s : State) (m : List Host.Cell) : (s.setMem m).agents = s.agents := rfl
@[simp] theorem setMem_parts (s : State) (m : List Host.Cell) : (s.setMem m).parts = s.parts := rfl
@[simp] theorem setMem_ptr (s : State) (m : List Host.Cell) : (s.setMem m).ptr = s.ptr := rfl
@[simp] theorem setMem_copies (s : State) (m : List Host.Cell) : (s.setMem m).copies = s.copies := rfl
@[simp] theorem setMem_colls (s : State) (m : List Host.Cell) : (s.setMem m).colls = s.colls := rfl
@[simp] theorem setMem_collsOver (s : State) (m : List Host.Cell) : (s.setMem m).collsOver = s.collsOver := rfl
@[simp] theorem setMem_tlbinvs (s : State) (m : List Host.Cell) : (s.setMem m).tlbinvs = s.tlbinvs := rfl
@[simp] theorem setMem_shadow (s : State) (m : List Host.Cell) : (s.setMem m).shadow = s.shadow := rfl
@[simp] theorem setMem_homeLost (s : State) (m : List Host.Cell) : (s.setMem m).homeLost = s.homeLost := rfl
@[simp] theorem setMem_links (s : State) (m : List Host.Cell) : (s.setMem m).links = s.links := rfl
@[simp] theorem setMem_islands (s : State) (m : List Host.Cell) : (s.setMem m).islands = s.islands := rfl
@[simp] theorem setMem_power (s : State) (m : List Host.Cell) : (s.setMem m).power = s.power := rfl
@[simp] theorem setMem_powerClamp (s : State) (m : List Host.Cell) : (s.setMem m).powerClamp = s.powerClamp := rfl
@[simp] theorem setMem_lowCount (s : State) (m : List Host.Cell) : (s.setMem m).lowCount = s.lowCount := rfl
@[simp] theorem setMem_targetMhz (s : State) (m : List Host.Cell) : (s.setMem m).targetMhz = s.targetMhz := rfl
@[simp] theorem setMem_misland (s : State) (m : List Host.Cell) : (s.setMem m).misland = s.misland := rfl
@[simp] theorem setMem_mecc (s : State) (m : List Host.Cell) : (s.setMem m).mecc = s.mecc := rfl
@[simp] theorem setMem_featReq (s : State) (m : List Host.Cell) : (s.setMem m).featReq = s.featReq := rfl
@[simp] theorem setMem_featClosed (s : State) (m : List Host.Cell) : (s.setMem m).featClosed = s.featClosed := rfl
@[simp] theorem setMem_pcmd (s : State) (m : List Host.Cell) : (s.setMem m).pcmd = s.pcmd := rfl
@[simp] theorem setMem_parg (s : State) (m : List Host.Cell) : (s.setMem m).parg = s.parg := rfl
@[simp] theorem setMem_pstat (s : State) (m : List Host.Cell) : (s.setMem m).pstat = s.pstat := rfl
@[simp] theorem setMem_pterm (s : State) (m : List Host.Cell) : (s.setMem m).pterm = s.pterm := rfl
@[simp] theorem setMem_limit (s : State) (m : List Host.Cell) : (s.setMem m).limit = s.limit := rfl
@[simp] theorem setMem_fw (s : State) (m : List Host.Cell) : (s.setMem m).fw = s.fw := rfl
@[simp] theorem setMem_pkg (s : State) (m : List Host.Cell) : (s.setMem m).pkg = s.pkg := rfl
@[simp] theorem setMem_time (s : State) (m : List Host.Cell) : (s.setMem m).time = s.time := rfl
@[simp] theorem setMem_retiredCores (s : State) (m : List Host.Cell) : (s.setMem m).retiredCores = s.retiredCores := rfl
@[simp] theorem setMem_spares (s : State) (m : List Host.Cell) : (s.setMem m).spares = s.spares := rfl
@[simp] theorem setMem_flipped (s : State) (m : List Host.Cell) : (s.setMem m).flipped = s.flipped := rfl
@[simp] theorem setMem_upsets (s : State) (m : List Host.Cell) : (s.setMem m).upsets = s.upsets := rfl
@[simp] theorem setMem_corrupt (s : State) (m : List Host.Cell) : (s.setMem m).corrupt = s.corrupt := rfl
@[simp] theorem setMem_broken (s : State) (m : List Host.Cell) : (s.setMem m).broken = s.broken := rfl
@[simp] theorem setMem_bankErrors (s : State) (m : List Host.Cell) : (s.setMem m).bankErrors = s.bankErrors := rfl
@[simp] theorem setMem_out (s : State) (m : List Host.Cell) : (s.setMem m).out = s.out := rfl
@[simp] theorem setMem_posts (s : State) (m : List Host.Cell) : (s.setMem m).posts = s.posts := rfl
@[simp] theorem setMem_cur (s : State) (m : List Host.Cell) : (s.setMem m).cur = s.cur := rfl
@[simp] theorem setMem_issued (s : State) (m : List Host.Cell) : (s.setMem m).issued = s.issued := rfl
@[simp] theorem setMem_passes (s : State) (m : List Host.Cell) : (s.setMem m).passes = s.passes := rfl
@[simp] theorem setMem_inputs (s : State) (m : List Host.Cell) : (s.setMem m).inputs = s.inputs := rfl
@[simp] theorem setMem_elapse (s : State) (m : List Host.Cell) : (s.setMem m).elapse = s.elapse := rfl
@[simp] theorem setMem_strikes (s : State) (m : List Host.Cell) : (s.setMem m).strikes = s.strikes := rfl
@[simp] theorem setMem_delays (s : State) (m : List Host.Cell) : (s.setMem m).delays = s.delays := rfl
@[simp] theorem setMem_fresh (s : State) (m : List Host.Cell) : (s.setMem m).fresh = s.fresh := rfl
@[simp] theorem setMem_eventTurn (s : State) (m : List Host.Cell) : (s.setMem m).eventTurn = s.eventTurn := rfl
@[simp] theorem setMem_evPos (s : State) (m : List Host.Cell) : (s.setMem m).evPos = s.evPos := rfl

/-! ### modHart -/

@[simp] theorem modHart_mem (s : State) (k : HartKey) (f : Hart → Hart) : (s.modHart k f).mem = s.mem := rfl
@[simp] theorem modHart_slots (s : State) (k : HartKey) (f : Hart → Hart) : (s.modHart k f).slots = s.slots := rfl
@[simp] theorem modHart_cores (s : State) (k : HartKey) (f : Hart → Hart) : (s.modHart k f).cores = s.cores := rfl
@[simp] theorem modHart_tlb (s : State) (k : HartKey) (f : Hart → Hart) : (s.modHart k f).tlb = s.tlb := rfl
@[simp] theorem modHart_lines (s : State) (k : HartKey) (f : Hart → Hart) : (s.modHart k f).lines = s.lines := rfl
@[simp] theorem modHart_fifo (s : State) (k : HartKey) (f : Hart → Hart) : (s.modHart k f).fifo = s.fifo := rfl
@[simp] theorem modHart_l1d (s : State) (k : HartKey) (f : Hart → Hart) : (s.modHart k f).l1d = s.l1d := rfl
@[simp] theorem modHart_l1i (s : State) (k : HartKey) (f : Hart → Hart) : (s.modHart k f).l1i = s.l1i := rfl
@[simp] theorem modHart_regions (s : State) (k : HartKey) (f : Hart → Hart) : (s.modHart k f).regions = s.regions := rfl
@[simp] theorem modHart_stale (s : State) (k : HartKey) (f : Hart → Hart) : (s.modHart k f).stale = s.stale := rfl
@[simp] theorem modHart_astray (s : State) (k : HartKey) (f : Hart → Hart) : (s.modHart k f).astray = s.astray := rfl
@[simp] theorem modHart_cxl (s : State) (k : HartKey) (f : Hart → Hart) : (s.modHart k f).cxl = s.cxl := rfl
@[simp] theorem modHart_hostHeld (s : State) (k : HartKey) (f : Hart → Hart) : (s.modHart k f).hostHeld = s.hostHeld := rfl
@[simp] theorem modHart_asked (s : State) (k : HartKey) (f : Hart → Hart) : (s.modHart k f).asked = s.asked := rfl
@[simp] theorem modHart_wrCurs (s : State) (k : HartKey) (f : Hart → Hart) : (s.modHart k f).wrCurs = s.wrCurs := rfl
@[simp] theorem modHart_wrCount (s : State) (k : HartKey) (f : Hart → Hart) : (s.modHart k f).wrCount = s.wrCount := rfl
@[simp] theorem modHart_snoops (s : State) (k : HartKey) (f : Hart → Hart) : (s.modHart k f).snoops = s.snoops := rfl
@[simp] theorem modHart_hostWrites (s : State) (k : HartKey) (f : Hart → Hart) : (s.modHart k f).hostWrites = s.hostWrites := rfl
@[simp] theorem modHart_atomics (s : State) (k : HartKey) (f : Hart → Hart) : (s.modHart k f).atomics = s.atomics := rfl
@[simp] theorem modHart_ports (s : State) (k : HartKey) (f : Hart → Hart) : (s.modHart k f).ports = s.ports := rfl
@[simp] theorem modHart_agents (s : State) (k : HartKey) (f : Hart → Hart) : (s.modHart k f).agents = s.agents := rfl
@[simp] theorem modHart_parts (s : State) (k : HartKey) (f : Hart → Hart) : (s.modHart k f).parts = s.parts := rfl
@[simp] theorem modHart_ptr (s : State) (k : HartKey) (f : Hart → Hart) : (s.modHart k f).ptr = s.ptr := rfl
@[simp] theorem modHart_copies (s : State) (k : HartKey) (f : Hart → Hart) : (s.modHart k f).copies = s.copies := rfl
@[simp] theorem modHart_colls (s : State) (k : HartKey) (f : Hart → Hart) : (s.modHart k f).colls = s.colls := rfl
@[simp] theorem modHart_collsOver (s : State) (k : HartKey) (f : Hart → Hart) : (s.modHart k f).collsOver = s.collsOver := rfl
@[simp] theorem modHart_tlbinvs (s : State) (k : HartKey) (f : Hart → Hart) : (s.modHart k f).tlbinvs = s.tlbinvs := rfl
@[simp] theorem modHart_shadow (s : State) (k : HartKey) (f : Hart → Hart) : (s.modHart k f).shadow = s.shadow := rfl
@[simp] theorem modHart_homeLost (s : State) (k : HartKey) (f : Hart → Hart) : (s.modHart k f).homeLost = s.homeLost := rfl
@[simp] theorem modHart_links (s : State) (k : HartKey) (f : Hart → Hart) : (s.modHart k f).links = s.links := rfl
@[simp] theorem modHart_islands (s : State) (k : HartKey) (f : Hart → Hart) : (s.modHart k f).islands = s.islands := rfl
@[simp] theorem modHart_power (s : State) (k : HartKey) (f : Hart → Hart) : (s.modHart k f).power = s.power := rfl
@[simp] theorem modHart_powerClamp (s : State) (k : HartKey) (f : Hart → Hart) : (s.modHart k f).powerClamp = s.powerClamp := rfl
@[simp] theorem modHart_lowCount (s : State) (k : HartKey) (f : Hart → Hart) : (s.modHart k f).lowCount = s.lowCount := rfl
@[simp] theorem modHart_targetMhz (s : State) (k : HartKey) (f : Hart → Hart) : (s.modHart k f).targetMhz = s.targetMhz := rfl
@[simp] theorem modHart_misland (s : State) (k : HartKey) (f : Hart → Hart) : (s.modHart k f).misland = s.misland := rfl
@[simp] theorem modHart_mecc (s : State) (k : HartKey) (f : Hart → Hart) : (s.modHart k f).mecc = s.mecc := rfl
@[simp] theorem modHart_featReq (s : State) (k : HartKey) (f : Hart → Hart) : (s.modHart k f).featReq = s.featReq := rfl
@[simp] theorem modHart_featClosed (s : State) (k : HartKey) (f : Hart → Hart) : (s.modHart k f).featClosed = s.featClosed := rfl
@[simp] theorem modHart_pcmd (s : State) (k : HartKey) (f : Hart → Hart) : (s.modHart k f).pcmd = s.pcmd := rfl
@[simp] theorem modHart_parg (s : State) (k : HartKey) (f : Hart → Hart) : (s.modHart k f).parg = s.parg := rfl
@[simp] theorem modHart_pstat (s : State) (k : HartKey) (f : Hart → Hart) : (s.modHart k f).pstat = s.pstat := rfl
@[simp] theorem modHart_pterm (s : State) (k : HartKey) (f : Hart → Hart) : (s.modHart k f).pterm = s.pterm := rfl
@[simp] theorem modHart_limit (s : State) (k : HartKey) (f : Hart → Hart) : (s.modHart k f).limit = s.limit := rfl
@[simp] theorem modHart_fw (s : State) (k : HartKey) (f : Hart → Hart) : (s.modHart k f).fw = s.fw := rfl
@[simp] theorem modHart_pkg (s : State) (k : HartKey) (f : Hart → Hart) : (s.modHart k f).pkg = s.pkg := rfl
@[simp] theorem modHart_time (s : State) (k : HartKey) (f : Hart → Hart) : (s.modHart k f).time = s.time := rfl
@[simp] theorem modHart_retiredCores (s : State) (k : HartKey) (f : Hart → Hart) : (s.modHart k f).retiredCores = s.retiredCores := rfl
@[simp] theorem modHart_spares (s : State) (k : HartKey) (f : Hart → Hart) : (s.modHart k f).spares = s.spares := rfl
@[simp] theorem modHart_flipped (s : State) (k : HartKey) (f : Hart → Hart) : (s.modHart k f).flipped = s.flipped := rfl
@[simp] theorem modHart_upsets (s : State) (k : HartKey) (f : Hart → Hart) : (s.modHart k f).upsets = s.upsets := rfl
@[simp] theorem modHart_corrupt (s : State) (k : HartKey) (f : Hart → Hart) : (s.modHart k f).corrupt = s.corrupt := rfl
@[simp] theorem modHart_broken (s : State) (k : HartKey) (f : Hart → Hart) : (s.modHart k f).broken = s.broken := rfl
@[simp] theorem modHart_bankErrors (s : State) (k : HartKey) (f : Hart → Hart) : (s.modHart k f).bankErrors = s.bankErrors := rfl
@[simp] theorem modHart_out (s : State) (k : HartKey) (f : Hart → Hart) : (s.modHart k f).out = s.out := rfl
@[simp] theorem modHart_posts (s : State) (k : HartKey) (f : Hart → Hart) : (s.modHart k f).posts = s.posts := rfl
@[simp] theorem modHart_cur (s : State) (k : HartKey) (f : Hart → Hart) : (s.modHart k f).cur = s.cur := rfl
@[simp] theorem modHart_issued (s : State) (k : HartKey) (f : Hart → Hart) : (s.modHart k f).issued = s.issued := rfl
@[simp] theorem modHart_passes (s : State) (k : HartKey) (f : Hart → Hart) : (s.modHart k f).passes = s.passes := rfl
@[simp] theorem modHart_inputs (s : State) (k : HartKey) (f : Hart → Hart) : (s.modHart k f).inputs = s.inputs := rfl
@[simp] theorem modHart_elapse (s : State) (k : HartKey) (f : Hart → Hart) : (s.modHart k f).elapse = s.elapse := rfl
@[simp] theorem modHart_strikes (s : State) (k : HartKey) (f : Hart → Hart) : (s.modHart k f).strikes = s.strikes := rfl
@[simp] theorem modHart_delays (s : State) (k : HartKey) (f : Hart → Hart) : (s.modHart k f).delays = s.delays := rfl
@[simp] theorem modHart_fresh (s : State) (k : HartKey) (f : Hart → Hart) : (s.modHart k f).fresh = s.fresh := rfl
@[simp] theorem modHart_eventTurn (s : State) (k : HartKey) (f : Hart → Hart) : (s.modHart k f).eventTurn = s.eventTurn := rfl
@[simp] theorem modHart_evPos (s : State) (k : HartKey) (f : Hart → Hart) : (s.modHart k f).evPos = s.evPos := rfl

/-! ### modPart -/

@[simp] theorem modPart_mem (s : State) (p : Fin 17) (f : Part → Part) : (s.modPart p f).mem = s.mem := rfl
@[simp] theorem modPart_harts (s : State) (p : Fin 17) (f : Part → Part) : (s.modPart p f).harts = s.harts := rfl
@[simp] theorem modPart_slots (s : State) (p : Fin 17) (f : Part → Part) : (s.modPart p f).slots = s.slots := rfl
@[simp] theorem modPart_cores (s : State) (p : Fin 17) (f : Part → Part) : (s.modPart p f).cores = s.cores := rfl
@[simp] theorem modPart_tlb (s : State) (p : Fin 17) (f : Part → Part) : (s.modPart p f).tlb = s.tlb := rfl
@[simp] theorem modPart_lines (s : State) (p : Fin 17) (f : Part → Part) : (s.modPart p f).lines = s.lines := rfl
@[simp] theorem modPart_fifo (s : State) (p : Fin 17) (f : Part → Part) : (s.modPart p f).fifo = s.fifo := rfl
@[simp] theorem modPart_l1d (s : State) (p : Fin 17) (f : Part → Part) : (s.modPart p f).l1d = s.l1d := rfl
@[simp] theorem modPart_l1i (s : State) (p : Fin 17) (f : Part → Part) : (s.modPart p f).l1i = s.l1i := rfl
@[simp] theorem modPart_regions (s : State) (p : Fin 17) (f : Part → Part) : (s.modPart p f).regions = s.regions := rfl
@[simp] theorem modPart_stale (s : State) (p : Fin 17) (f : Part → Part) : (s.modPart p f).stale = s.stale := rfl
@[simp] theorem modPart_astray (s : State) (p : Fin 17) (f : Part → Part) : (s.modPart p f).astray = s.astray := rfl
@[simp] theorem modPart_cxl (s : State) (p : Fin 17) (f : Part → Part) : (s.modPart p f).cxl = s.cxl := rfl
@[simp] theorem modPart_hostHeld (s : State) (p : Fin 17) (f : Part → Part) : (s.modPart p f).hostHeld = s.hostHeld := rfl
@[simp] theorem modPart_asked (s : State) (p : Fin 17) (f : Part → Part) : (s.modPart p f).asked = s.asked := rfl
@[simp] theorem modPart_wrCurs (s : State) (p : Fin 17) (f : Part → Part) : (s.modPart p f).wrCurs = s.wrCurs := rfl
@[simp] theorem modPart_wrCount (s : State) (p : Fin 17) (f : Part → Part) : (s.modPart p f).wrCount = s.wrCount := rfl
@[simp] theorem modPart_snoops (s : State) (p : Fin 17) (f : Part → Part) : (s.modPart p f).snoops = s.snoops := rfl
@[simp] theorem modPart_hostWrites (s : State) (p : Fin 17) (f : Part → Part) : (s.modPart p f).hostWrites = s.hostWrites := rfl
@[simp] theorem modPart_atomics (s : State) (p : Fin 17) (f : Part → Part) : (s.modPart p f).atomics = s.atomics := rfl
@[simp] theorem modPart_ports (s : State) (p : Fin 17) (f : Part → Part) : (s.modPart p f).ports = s.ports := rfl
@[simp] theorem modPart_agents (s : State) (p : Fin 17) (f : Part → Part) : (s.modPart p f).agents = s.agents := rfl
@[simp] theorem modPart_parts (s : State) (p : Fin 17) (f : Part → Part) : (s.modPart p f).parts = s.parts.set p (f s.parts[p]) := rfl
@[simp] theorem modPart_ptr (s : State) (p : Fin 17) (f : Part → Part) : (s.modPart p f).ptr = s.ptr := rfl
@[simp] theorem modPart_copies (s : State) (p : Fin 17) (f : Part → Part) : (s.modPart p f).copies = s.copies := rfl
@[simp] theorem modPart_colls (s : State) (p : Fin 17) (f : Part → Part) : (s.modPart p f).colls = s.colls := rfl
@[simp] theorem modPart_collsOver (s : State) (p : Fin 17) (f : Part → Part) : (s.modPart p f).collsOver = s.collsOver := rfl
@[simp] theorem modPart_tlbinvs (s : State) (p : Fin 17) (f : Part → Part) : (s.modPart p f).tlbinvs = s.tlbinvs := rfl
@[simp] theorem modPart_shadow (s : State) (p : Fin 17) (f : Part → Part) : (s.modPart p f).shadow = s.shadow := rfl
@[simp] theorem modPart_homeLost (s : State) (p : Fin 17) (f : Part → Part) : (s.modPart p f).homeLost = s.homeLost := rfl
@[simp] theorem modPart_links (s : State) (p : Fin 17) (f : Part → Part) : (s.modPart p f).links = s.links := rfl
@[simp] theorem modPart_islands (s : State) (p : Fin 17) (f : Part → Part) : (s.modPart p f).islands = s.islands := rfl
@[simp] theorem modPart_power (s : State) (p : Fin 17) (f : Part → Part) : (s.modPart p f).power = s.power := rfl
@[simp] theorem modPart_powerClamp (s : State) (p : Fin 17) (f : Part → Part) : (s.modPart p f).powerClamp = s.powerClamp := rfl
@[simp] theorem modPart_lowCount (s : State) (p : Fin 17) (f : Part → Part) : (s.modPart p f).lowCount = s.lowCount := rfl
@[simp] theorem modPart_targetMhz (s : State) (p : Fin 17) (f : Part → Part) : (s.modPart p f).targetMhz = s.targetMhz := rfl
@[simp] theorem modPart_misland (s : State) (p : Fin 17) (f : Part → Part) : (s.modPart p f).misland = s.misland := rfl
@[simp] theorem modPart_mecc (s : State) (p : Fin 17) (f : Part → Part) : (s.modPart p f).mecc = s.mecc := rfl
@[simp] theorem modPart_featReq (s : State) (p : Fin 17) (f : Part → Part) : (s.modPart p f).featReq = s.featReq := rfl
@[simp] theorem modPart_featClosed (s : State) (p : Fin 17) (f : Part → Part) : (s.modPart p f).featClosed = s.featClosed := rfl
@[simp] theorem modPart_pcmd (s : State) (p : Fin 17) (f : Part → Part) : (s.modPart p f).pcmd = s.pcmd := rfl
@[simp] theorem modPart_parg (s : State) (p : Fin 17) (f : Part → Part) : (s.modPart p f).parg = s.parg := rfl
@[simp] theorem modPart_pstat (s : State) (p : Fin 17) (f : Part → Part) : (s.modPart p f).pstat = s.pstat := rfl
@[simp] theorem modPart_pterm (s : State) (p : Fin 17) (f : Part → Part) : (s.modPart p f).pterm = s.pterm := rfl
@[simp] theorem modPart_limit (s : State) (p : Fin 17) (f : Part → Part) : (s.modPart p f).limit = s.limit := rfl
@[simp] theorem modPart_fw (s : State) (p : Fin 17) (f : Part → Part) : (s.modPart p f).fw = s.fw := rfl
@[simp] theorem modPart_pkg (s : State) (p : Fin 17) (f : Part → Part) : (s.modPart p f).pkg = s.pkg := rfl
@[simp] theorem modPart_time (s : State) (p : Fin 17) (f : Part → Part) : (s.modPart p f).time = s.time := rfl
@[simp] theorem modPart_retiredCores (s : State) (p : Fin 17) (f : Part → Part) : (s.modPart p f).retiredCores = s.retiredCores := rfl
@[simp] theorem modPart_spares (s : State) (p : Fin 17) (f : Part → Part) : (s.modPart p f).spares = s.spares := rfl
@[simp] theorem modPart_flipped (s : State) (p : Fin 17) (f : Part → Part) : (s.modPart p f).flipped = s.flipped := rfl
@[simp] theorem modPart_upsets (s : State) (p : Fin 17) (f : Part → Part) : (s.modPart p f).upsets = s.upsets := rfl
@[simp] theorem modPart_corrupt (s : State) (p : Fin 17) (f : Part → Part) : (s.modPart p f).corrupt = s.corrupt := rfl
@[simp] theorem modPart_broken (s : State) (p : Fin 17) (f : Part → Part) : (s.modPart p f).broken = s.broken := rfl
@[simp] theorem modPart_bankErrors (s : State) (p : Fin 17) (f : Part → Part) : (s.modPart p f).bankErrors = s.bankErrors := rfl
@[simp] theorem modPart_out (s : State) (p : Fin 17) (f : Part → Part) : (s.modPart p f).out = s.out := rfl
@[simp] theorem modPart_posts (s : State) (p : Fin 17) (f : Part → Part) : (s.modPart p f).posts = s.posts := rfl
@[simp] theorem modPart_cur (s : State) (p : Fin 17) (f : Part → Part) : (s.modPart p f).cur = s.cur := rfl
@[simp] theorem modPart_issued (s : State) (p : Fin 17) (f : Part → Part) : (s.modPart p f).issued = s.issued := rfl
@[simp] theorem modPart_passes (s : State) (p : Fin 17) (f : Part → Part) : (s.modPart p f).passes = s.passes := rfl
@[simp] theorem modPart_inputs (s : State) (p : Fin 17) (f : Part → Part) : (s.modPart p f).inputs = s.inputs := rfl
@[simp] theorem modPart_elapse (s : State) (p : Fin 17) (f : Part → Part) : (s.modPart p f).elapse = s.elapse := rfl
@[simp] theorem modPart_strikes (s : State) (p : Fin 17) (f : Part → Part) : (s.modPart p f).strikes = s.strikes := rfl
@[simp] theorem modPart_delays (s : State) (p : Fin 17) (f : Part → Part) : (s.modPart p f).delays = s.delays := rfl
@[simp] theorem modPart_fresh (s : State) (p : Fin 17) (f : Part → Part) : (s.modPart p f).fresh = s.fresh := rfl
@[simp] theorem modPart_eventTurn (s : State) (p : Fin 17) (f : Part → Part) : (s.modPart p f).eventTurn = s.eventTurn := rfl
@[simp] theorem modPart_evPos (s : State) (p : Fin 17) (f : Part → Part) : (s.modPart p f).evPos = s.evPos := rfl

/-! ### putSlot -/

@[simp] theorem putSlot_mem (s : State) (x : Slot) : (s.putSlot x).mem = s.mem := rfl
@[simp] theorem putSlot_harts (s : State) (x : Slot) : (s.putSlot x).harts = s.harts := rfl
@[simp] theorem putSlot_cores (s : State) (x : Slot) : (s.putSlot x).cores = s.cores := rfl
@[simp] theorem putSlot_tlb (s : State) (x : Slot) : (s.putSlot x).tlb = s.tlb := rfl
@[simp] theorem putSlot_lines (s : State) (x : Slot) : (s.putSlot x).lines = s.lines := rfl
@[simp] theorem putSlot_fifo (s : State) (x : Slot) : (s.putSlot x).fifo = s.fifo := rfl
@[simp] theorem putSlot_l1d (s : State) (x : Slot) : (s.putSlot x).l1d = s.l1d := rfl
@[simp] theorem putSlot_l1i (s : State) (x : Slot) : (s.putSlot x).l1i = s.l1i := rfl
@[simp] theorem putSlot_regions (s : State) (x : Slot) : (s.putSlot x).regions = s.regions := rfl
@[simp] theorem putSlot_stale (s : State) (x : Slot) : (s.putSlot x).stale = s.stale := rfl
@[simp] theorem putSlot_astray (s : State) (x : Slot) : (s.putSlot x).astray = s.astray := rfl
@[simp] theorem putSlot_cxl (s : State) (x : Slot) : (s.putSlot x).cxl = s.cxl := rfl
@[simp] theorem putSlot_hostHeld (s : State) (x : Slot) : (s.putSlot x).hostHeld = s.hostHeld := rfl
@[simp] theorem putSlot_asked (s : State) (x : Slot) : (s.putSlot x).asked = s.asked := rfl
@[simp] theorem putSlot_wrCurs (s : State) (x : Slot) : (s.putSlot x).wrCurs = s.wrCurs := rfl
@[simp] theorem putSlot_wrCount (s : State) (x : Slot) : (s.putSlot x).wrCount = s.wrCount := rfl
@[simp] theorem putSlot_snoops (s : State) (x : Slot) : (s.putSlot x).snoops = s.snoops := rfl
@[simp] theorem putSlot_hostWrites (s : State) (x : Slot) : (s.putSlot x).hostWrites = s.hostWrites := rfl
@[simp] theorem putSlot_atomics (s : State) (x : Slot) : (s.putSlot x).atomics = s.atomics := rfl
@[simp] theorem putSlot_ports (s : State) (x : Slot) : (s.putSlot x).ports = s.ports := rfl
@[simp] theorem putSlot_agents (s : State) (x : Slot) : (s.putSlot x).agents = s.agents := rfl
@[simp] theorem putSlot_parts (s : State) (x : Slot) : (s.putSlot x).parts = s.parts := rfl
@[simp] theorem putSlot_ptr (s : State) (x : Slot) : (s.putSlot x).ptr = s.ptr := rfl
@[simp] theorem putSlot_copies (s : State) (x : Slot) : (s.putSlot x).copies = s.copies := rfl
@[simp] theorem putSlot_colls (s : State) (x : Slot) : (s.putSlot x).colls = s.colls := rfl
@[simp] theorem putSlot_collsOver (s : State) (x : Slot) : (s.putSlot x).collsOver = s.collsOver := rfl
@[simp] theorem putSlot_tlbinvs (s : State) (x : Slot) : (s.putSlot x).tlbinvs = s.tlbinvs := rfl
@[simp] theorem putSlot_shadow (s : State) (x : Slot) : (s.putSlot x).shadow = s.shadow := rfl
@[simp] theorem putSlot_homeLost (s : State) (x : Slot) : (s.putSlot x).homeLost = s.homeLost := rfl
@[simp] theorem putSlot_links (s : State) (x : Slot) : (s.putSlot x).links = s.links := rfl
@[simp] theorem putSlot_islands (s : State) (x : Slot) : (s.putSlot x).islands = s.islands := rfl
@[simp] theorem putSlot_power (s : State) (x : Slot) : (s.putSlot x).power = s.power := rfl
@[simp] theorem putSlot_powerClamp (s : State) (x : Slot) : (s.putSlot x).powerClamp = s.powerClamp := rfl
@[simp] theorem putSlot_lowCount (s : State) (x : Slot) : (s.putSlot x).lowCount = s.lowCount := rfl
@[simp] theorem putSlot_targetMhz (s : State) (x : Slot) : (s.putSlot x).targetMhz = s.targetMhz := rfl
@[simp] theorem putSlot_misland (s : State) (x : Slot) : (s.putSlot x).misland = s.misland := rfl
@[simp] theorem putSlot_mecc (s : State) (x : Slot) : (s.putSlot x).mecc = s.mecc := rfl
@[simp] theorem putSlot_featReq (s : State) (x : Slot) : (s.putSlot x).featReq = s.featReq := rfl
@[simp] theorem putSlot_featClosed (s : State) (x : Slot) : (s.putSlot x).featClosed = s.featClosed := rfl
@[simp] theorem putSlot_pcmd (s : State) (x : Slot) : (s.putSlot x).pcmd = s.pcmd := rfl
@[simp] theorem putSlot_parg (s : State) (x : Slot) : (s.putSlot x).parg = s.parg := rfl
@[simp] theorem putSlot_pstat (s : State) (x : Slot) : (s.putSlot x).pstat = s.pstat := rfl
@[simp] theorem putSlot_pterm (s : State) (x : Slot) : (s.putSlot x).pterm = s.pterm := rfl
@[simp] theorem putSlot_limit (s : State) (x : Slot) : (s.putSlot x).limit = s.limit := rfl
@[simp] theorem putSlot_fw (s : State) (x : Slot) : (s.putSlot x).fw = s.fw := rfl
@[simp] theorem putSlot_pkg (s : State) (x : Slot) : (s.putSlot x).pkg = s.pkg := rfl
@[simp] theorem putSlot_time (s : State) (x : Slot) : (s.putSlot x).time = s.time := rfl
@[simp] theorem putSlot_retiredCores (s : State) (x : Slot) : (s.putSlot x).retiredCores = s.retiredCores := rfl
@[simp] theorem putSlot_spares (s : State) (x : Slot) : (s.putSlot x).spares = s.spares := rfl
@[simp] theorem putSlot_flipped (s : State) (x : Slot) : (s.putSlot x).flipped = s.flipped := rfl
@[simp] theorem putSlot_upsets (s : State) (x : Slot) : (s.putSlot x).upsets = s.upsets := rfl
@[simp] theorem putSlot_corrupt (s : State) (x : Slot) : (s.putSlot x).corrupt = s.corrupt := rfl
@[simp] theorem putSlot_broken (s : State) (x : Slot) : (s.putSlot x).broken = s.broken := rfl
@[simp] theorem putSlot_bankErrors (s : State) (x : Slot) : (s.putSlot x).bankErrors = s.bankErrors := rfl
@[simp] theorem putSlot_out (s : State) (x : Slot) : (s.putSlot x).out = s.out := rfl
@[simp] theorem putSlot_posts (s : State) (x : Slot) : (s.putSlot x).posts = s.posts := rfl
@[simp] theorem putSlot_cur (s : State) (x : Slot) : (s.putSlot x).cur = s.cur := rfl
@[simp] theorem putSlot_issued (s : State) (x : Slot) : (s.putSlot x).issued = s.issued := rfl
@[simp] theorem putSlot_passes (s : State) (x : Slot) : (s.putSlot x).passes = s.passes := rfl
@[simp] theorem putSlot_inputs (s : State) (x : Slot) : (s.putSlot x).inputs = s.inputs := rfl
@[simp] theorem putSlot_elapse (s : State) (x : Slot) : (s.putSlot x).elapse = s.elapse := rfl
@[simp] theorem putSlot_strikes (s : State) (x : Slot) : (s.putSlot x).strikes = s.strikes := rfl
@[simp] theorem putSlot_delays (s : State) (x : Slot) : (s.putSlot x).delays = s.delays := rfl
@[simp] theorem putSlot_fresh (s : State) (x : Slot) : (s.putSlot x).fresh = s.fresh := rfl
@[simp] theorem putSlot_eventTurn (s : State) (x : Slot) : (s.putSlot x).eventTurn = s.eventTurn := rfl
@[simp] theorem putSlot_evPos (s : State) (x : Slot) : (s.putSlot x).evPos = s.evPos := rfl

/-! ### putCore -/

@[simp] theorem putCore_mem (s : State) (c : Core) : (s.putCore c).mem = s.mem := rfl
@[simp] theorem putCore_harts (s : State) (c : Core) : (s.putCore c).harts = s.harts := rfl
@[simp] theorem putCore_slots (s : State) (c : Core) : (s.putCore c).slots = s.slots := rfl
@[simp] theorem putCore_tlb (s : State) (c : Core) : (s.putCore c).tlb = s.tlb := rfl
@[simp] theorem putCore_lines (s : State) (c : Core) : (s.putCore c).lines = s.lines := rfl
@[simp] theorem putCore_fifo (s : State) (c : Core) : (s.putCore c).fifo = s.fifo := rfl
@[simp] theorem putCore_l1d (s : State) (c : Core) : (s.putCore c).l1d = s.l1d := rfl
@[simp] theorem putCore_l1i (s : State) (c : Core) : (s.putCore c).l1i = s.l1i := rfl
@[simp] theorem putCore_regions (s : State) (c : Core) : (s.putCore c).regions = s.regions := rfl
@[simp] theorem putCore_stale (s : State) (c : Core) : (s.putCore c).stale = s.stale := rfl
@[simp] theorem putCore_astray (s : State) (c : Core) : (s.putCore c).astray = s.astray := rfl
@[simp] theorem putCore_cxl (s : State) (c : Core) : (s.putCore c).cxl = s.cxl := rfl
@[simp] theorem putCore_hostHeld (s : State) (c : Core) : (s.putCore c).hostHeld = s.hostHeld := rfl
@[simp] theorem putCore_asked (s : State) (c : Core) : (s.putCore c).asked = s.asked := rfl
@[simp] theorem putCore_wrCurs (s : State) (c : Core) : (s.putCore c).wrCurs = s.wrCurs := rfl
@[simp] theorem putCore_wrCount (s : State) (c : Core) : (s.putCore c).wrCount = s.wrCount := rfl
@[simp] theorem putCore_snoops (s : State) (c : Core) : (s.putCore c).snoops = s.snoops := rfl
@[simp] theorem putCore_hostWrites (s : State) (c : Core) : (s.putCore c).hostWrites = s.hostWrites := rfl
@[simp] theorem putCore_atomics (s : State) (c : Core) : (s.putCore c).atomics = s.atomics := rfl
@[simp] theorem putCore_ports (s : State) (c : Core) : (s.putCore c).ports = s.ports := rfl
@[simp] theorem putCore_agents (s : State) (c : Core) : (s.putCore c).agents = s.agents := rfl
@[simp] theorem putCore_parts (s : State) (c : Core) : (s.putCore c).parts = s.parts := rfl
@[simp] theorem putCore_ptr (s : State) (c : Core) : (s.putCore c).ptr = s.ptr := rfl
@[simp] theorem putCore_copies (s : State) (c : Core) : (s.putCore c).copies = s.copies := rfl
@[simp] theorem putCore_colls (s : State) (c : Core) : (s.putCore c).colls = s.colls := rfl
@[simp] theorem putCore_collsOver (s : State) (c : Core) : (s.putCore c).collsOver = s.collsOver := rfl
@[simp] theorem putCore_tlbinvs (s : State) (c : Core) : (s.putCore c).tlbinvs = s.tlbinvs := rfl
@[simp] theorem putCore_shadow (s : State) (c : Core) : (s.putCore c).shadow = s.shadow := rfl
@[simp] theorem putCore_homeLost (s : State) (c : Core) : (s.putCore c).homeLost = s.homeLost := rfl
@[simp] theorem putCore_links (s : State) (c : Core) : (s.putCore c).links = s.links := rfl
@[simp] theorem putCore_islands (s : State) (c : Core) : (s.putCore c).islands = s.islands := rfl
@[simp] theorem putCore_power (s : State) (c : Core) : (s.putCore c).power = s.power := rfl
@[simp] theorem putCore_powerClamp (s : State) (c : Core) : (s.putCore c).powerClamp = s.powerClamp := rfl
@[simp] theorem putCore_lowCount (s : State) (c : Core) : (s.putCore c).lowCount = s.lowCount := rfl
@[simp] theorem putCore_targetMhz (s : State) (c : Core) : (s.putCore c).targetMhz = s.targetMhz := rfl
@[simp] theorem putCore_misland (s : State) (c : Core) : (s.putCore c).misland = s.misland := rfl
@[simp] theorem putCore_mecc (s : State) (c : Core) : (s.putCore c).mecc = s.mecc := rfl
@[simp] theorem putCore_featReq (s : State) (c : Core) : (s.putCore c).featReq = s.featReq := rfl
@[simp] theorem putCore_featClosed (s : State) (c : Core) : (s.putCore c).featClosed = s.featClosed := rfl
@[simp] theorem putCore_pcmd (s : State) (c : Core) : (s.putCore c).pcmd = s.pcmd := rfl
@[simp] theorem putCore_parg (s : State) (c : Core) : (s.putCore c).parg = s.parg := rfl
@[simp] theorem putCore_pstat (s : State) (c : Core) : (s.putCore c).pstat = s.pstat := rfl
@[simp] theorem putCore_pterm (s : State) (c : Core) : (s.putCore c).pterm = s.pterm := rfl
@[simp] theorem putCore_limit (s : State) (c : Core) : (s.putCore c).limit = s.limit := rfl
@[simp] theorem putCore_fw (s : State) (c : Core) : (s.putCore c).fw = s.fw := rfl
@[simp] theorem putCore_pkg (s : State) (c : Core) : (s.putCore c).pkg = s.pkg := rfl
@[simp] theorem putCore_time (s : State) (c : Core) : (s.putCore c).time = s.time := rfl
@[simp] theorem putCore_retiredCores (s : State) (c : Core) : (s.putCore c).retiredCores = s.retiredCores := rfl
@[simp] theorem putCore_spares (s : State) (c : Core) : (s.putCore c).spares = s.spares := rfl
@[simp] theorem putCore_flipped (s : State) (c : Core) : (s.putCore c).flipped = s.flipped := rfl
@[simp] theorem putCore_upsets (s : State) (c : Core) : (s.putCore c).upsets = s.upsets := rfl
@[simp] theorem putCore_corrupt (s : State) (c : Core) : (s.putCore c).corrupt = s.corrupt := rfl
@[simp] theorem putCore_broken (s : State) (c : Core) : (s.putCore c).broken = s.broken := rfl
@[simp] theorem putCore_bankErrors (s : State) (c : Core) : (s.putCore c).bankErrors = s.bankErrors := rfl
@[simp] theorem putCore_out (s : State) (c : Core) : (s.putCore c).out = s.out := rfl
@[simp] theorem putCore_posts (s : State) (c : Core) : (s.putCore c).posts = s.posts := rfl
@[simp] theorem putCore_cur (s : State) (c : Core) : (s.putCore c).cur = s.cur := rfl
@[simp] theorem putCore_issued (s : State) (c : Core) : (s.putCore c).issued = s.issued := rfl
@[simp] theorem putCore_passes (s : State) (c : Core) : (s.putCore c).passes = s.passes := rfl
@[simp] theorem putCore_inputs (s : State) (c : Core) : (s.putCore c).inputs = s.inputs := rfl
@[simp] theorem putCore_elapse (s : State) (c : Core) : (s.putCore c).elapse = s.elapse := rfl
@[simp] theorem putCore_strikes (s : State) (c : Core) : (s.putCore c).strikes = s.strikes := rfl
@[simp] theorem putCore_delays (s : State) (c : Core) : (s.putCore c).delays = s.delays := rfl
@[simp] theorem putCore_fresh (s : State) (c : Core) : (s.putCore c).fresh = s.fresh := rfl
@[simp] theorem putCore_eventTurn (s : State) (c : Core) : (s.putCore c).eventTurn = s.eventTurn := rfl
@[simp] theorem putCore_evPos (s : State) (c : Core) : (s.putCore c).evPos = s.evPos := rfl

/-! ### emit -/

@[simp] theorem emit_mem (s : State) (o : Output) : (s.emit o).mem = s.mem := rfl
@[simp] theorem emit_harts (s : State) (o : Output) : (s.emit o).harts = s.harts := rfl
@[simp] theorem emit_slots (s : State) (o : Output) : (s.emit o).slots = s.slots := rfl
@[simp] theorem emit_cores (s : State) (o : Output) : (s.emit o).cores = s.cores := rfl
@[simp] theorem emit_tlb (s : State) (o : Output) : (s.emit o).tlb = s.tlb := rfl
@[simp] theorem emit_lines (s : State) (o : Output) : (s.emit o).lines = s.lines := rfl
@[simp] theorem emit_fifo (s : State) (o : Output) : (s.emit o).fifo = s.fifo := rfl
@[simp] theorem emit_l1d (s : State) (o : Output) : (s.emit o).l1d = s.l1d := rfl
@[simp] theorem emit_l1i (s : State) (o : Output) : (s.emit o).l1i = s.l1i := rfl
@[simp] theorem emit_regions (s : State) (o : Output) : (s.emit o).regions = s.regions := rfl
@[simp] theorem emit_stale (s : State) (o : Output) : (s.emit o).stale = s.stale := rfl
@[simp] theorem emit_astray (s : State) (o : Output) : (s.emit o).astray = s.astray := rfl
@[simp] theorem emit_cxl (s : State) (o : Output) : (s.emit o).cxl = s.cxl := rfl
@[simp] theorem emit_hostHeld (s : State) (o : Output) : (s.emit o).hostHeld = s.hostHeld := rfl
@[simp] theorem emit_asked (s : State) (o : Output) : (s.emit o).asked = s.asked := rfl
@[simp] theorem emit_wrCurs (s : State) (o : Output) : (s.emit o).wrCurs = s.wrCurs := rfl
@[simp] theorem emit_wrCount (s : State) (o : Output) : (s.emit o).wrCount = s.wrCount := rfl
@[simp] theorem emit_snoops (s : State) (o : Output) : (s.emit o).snoops = s.snoops := rfl
@[simp] theorem emit_hostWrites (s : State) (o : Output) : (s.emit o).hostWrites = s.hostWrites := rfl
@[simp] theorem emit_atomics (s : State) (o : Output) : (s.emit o).atomics = s.atomics := rfl
@[simp] theorem emit_ports (s : State) (o : Output) : (s.emit o).ports = s.ports := rfl
@[simp] theorem emit_agents (s : State) (o : Output) : (s.emit o).agents = s.agents := rfl
@[simp] theorem emit_parts (s : State) (o : Output) : (s.emit o).parts = s.parts := rfl
@[simp] theorem emit_ptr (s : State) (o : Output) : (s.emit o).ptr = s.ptr := rfl
@[simp] theorem emit_copies (s : State) (o : Output) : (s.emit o).copies = s.copies := rfl
@[simp] theorem emit_colls (s : State) (o : Output) : (s.emit o).colls = s.colls := rfl
@[simp] theorem emit_collsOver (s : State) (o : Output) : (s.emit o).collsOver = s.collsOver := rfl
@[simp] theorem emit_tlbinvs (s : State) (o : Output) : (s.emit o).tlbinvs = s.tlbinvs := rfl
@[simp] theorem emit_shadow (s : State) (o : Output) : (s.emit o).shadow = s.shadow := rfl
@[simp] theorem emit_homeLost (s : State) (o : Output) : (s.emit o).homeLost = s.homeLost := rfl
@[simp] theorem emit_links (s : State) (o : Output) : (s.emit o).links = s.links := rfl
@[simp] theorem emit_islands (s : State) (o : Output) : (s.emit o).islands = s.islands := rfl
@[simp] theorem emit_power (s : State) (o : Output) : (s.emit o).power = s.power := rfl
@[simp] theorem emit_powerClamp (s : State) (o : Output) : (s.emit o).powerClamp = s.powerClamp := rfl
@[simp] theorem emit_lowCount (s : State) (o : Output) : (s.emit o).lowCount = s.lowCount := rfl
@[simp] theorem emit_targetMhz (s : State) (o : Output) : (s.emit o).targetMhz = s.targetMhz := rfl
@[simp] theorem emit_misland (s : State) (o : Output) : (s.emit o).misland = s.misland := rfl
@[simp] theorem emit_mecc (s : State) (o : Output) : (s.emit o).mecc = s.mecc := rfl
@[simp] theorem emit_featReq (s : State) (o : Output) : (s.emit o).featReq = s.featReq := rfl
@[simp] theorem emit_featClosed (s : State) (o : Output) : (s.emit o).featClosed = s.featClosed := rfl
@[simp] theorem emit_pcmd (s : State) (o : Output) : (s.emit o).pcmd = s.pcmd := rfl
@[simp] theorem emit_parg (s : State) (o : Output) : (s.emit o).parg = s.parg := rfl
@[simp] theorem emit_pstat (s : State) (o : Output) : (s.emit o).pstat = s.pstat := rfl
@[simp] theorem emit_pterm (s : State) (o : Output) : (s.emit o).pterm = s.pterm := rfl
@[simp] theorem emit_limit (s : State) (o : Output) : (s.emit o).limit = s.limit := rfl
@[simp] theorem emit_fw (s : State) (o : Output) : (s.emit o).fw = s.fw := rfl
@[simp] theorem emit_pkg (s : State) (o : Output) : (s.emit o).pkg = s.pkg := rfl
@[simp] theorem emit_time (s : State) (o : Output) : (s.emit o).time = s.time := rfl
@[simp] theorem emit_retiredCores (s : State) (o : Output) : (s.emit o).retiredCores = s.retiredCores := rfl
@[simp] theorem emit_spares (s : State) (o : Output) : (s.emit o).spares = s.spares := rfl
@[simp] theorem emit_flipped (s : State) (o : Output) : (s.emit o).flipped = s.flipped := rfl
@[simp] theorem emit_upsets (s : State) (o : Output) : (s.emit o).upsets = s.upsets := rfl
@[simp] theorem emit_corrupt (s : State) (o : Output) : (s.emit o).corrupt = s.corrupt := rfl
@[simp] theorem emit_broken (s : State) (o : Output) : (s.emit o).broken = s.broken := rfl
@[simp] theorem emit_bankErrors (s : State) (o : Output) : (s.emit o).bankErrors = s.bankErrors := rfl
@[simp] theorem emit_out (s : State) (o : Output) : (s.emit o).out = s.out ++ [o] := rfl
@[simp] theorem emit_posts (s : State) (o : Output) : (s.emit o).posts = s.posts := rfl
@[simp] theorem emit_cur (s : State) (o : Output) : (s.emit o).cur = s.cur := rfl
@[simp] theorem emit_issued (s : State) (o : Output) : (s.emit o).issued = s.issued := rfl
@[simp] theorem emit_passes (s : State) (o : Output) : (s.emit o).passes = s.passes := rfl
@[simp] theorem emit_inputs (s : State) (o : Output) : (s.emit o).inputs = s.inputs := rfl
@[simp] theorem emit_elapse (s : State) (o : Output) : (s.emit o).elapse = s.elapse := rfl
@[simp] theorem emit_strikes (s : State) (o : Output) : (s.emit o).strikes = s.strikes := rfl
@[simp] theorem emit_delays (s : State) (o : Output) : (s.emit o).delays = s.delays := rfl
@[simp] theorem emit_fresh (s : State) (o : Output) : (s.emit o).fresh = s.fresh := rfl
@[simp] theorem emit_eventTurn (s : State) (o : Output) : (s.emit o).eventTurn = s.eventTurn := rfl
@[simp] theorem emit_evPos (s : State) (o : Output) : (s.emit o).evPos = s.evPos := rfl

/-! ### draw -/

@[simp] theorem draw_mem (s : State) : (s.draw.1).mem = s.mem := rfl
@[simp] theorem draw_harts (s : State) : (s.draw.1).harts = s.harts := rfl
@[simp] theorem draw_slots (s : State) : (s.draw.1).slots = s.slots := rfl
@[simp] theorem draw_cores (s : State) : (s.draw.1).cores = s.cores := rfl
@[simp] theorem draw_tlb (s : State) : (s.draw.1).tlb = s.tlb := rfl
@[simp] theorem draw_lines (s : State) : (s.draw.1).lines = s.lines := rfl
@[simp] theorem draw_fifo (s : State) : (s.draw.1).fifo = s.fifo := rfl
@[simp] theorem draw_l1d (s : State) : (s.draw.1).l1d = s.l1d := rfl
@[simp] theorem draw_l1i (s : State) : (s.draw.1).l1i = s.l1i := rfl
@[simp] theorem draw_regions (s : State) : (s.draw.1).regions = s.regions := rfl
@[simp] theorem draw_stale (s : State) : (s.draw.1).stale = s.stale := rfl
@[simp] theorem draw_astray (s : State) : (s.draw.1).astray = s.astray := rfl
@[simp] theorem draw_cxl (s : State) : (s.draw.1).cxl = s.cxl := rfl
@[simp] theorem draw_hostHeld (s : State) : (s.draw.1).hostHeld = s.hostHeld := rfl
@[simp] theorem draw_asked (s : State) : (s.draw.1).asked = s.asked := rfl
@[simp] theorem draw_wrCurs (s : State) : (s.draw.1).wrCurs = s.wrCurs := rfl
@[simp] theorem draw_wrCount (s : State) : (s.draw.1).wrCount = s.wrCount := rfl
@[simp] theorem draw_snoops (s : State) : (s.draw.1).snoops = s.snoops := rfl
@[simp] theorem draw_hostWrites (s : State) : (s.draw.1).hostWrites = s.hostWrites := rfl
@[simp] theorem draw_atomics (s : State) : (s.draw.1).atomics = s.atomics := rfl
@[simp] theorem draw_ports (s : State) : (s.draw.1).ports = s.ports := rfl
@[simp] theorem draw_agents (s : State) : (s.draw.1).agents = s.agents := rfl
@[simp] theorem draw_parts (s : State) : (s.draw.1).parts = s.parts := rfl
@[simp] theorem draw_ptr (s : State) : (s.draw.1).ptr = s.ptr := rfl
@[simp] theorem draw_copies (s : State) : (s.draw.1).copies = s.copies := rfl
@[simp] theorem draw_colls (s : State) : (s.draw.1).colls = s.colls := rfl
@[simp] theorem draw_collsOver (s : State) : (s.draw.1).collsOver = s.collsOver := rfl
@[simp] theorem draw_tlbinvs (s : State) : (s.draw.1).tlbinvs = s.tlbinvs := rfl
@[simp] theorem draw_shadow (s : State) : (s.draw.1).shadow = s.shadow := rfl
@[simp] theorem draw_homeLost (s : State) : (s.draw.1).homeLost = s.homeLost := rfl
@[simp] theorem draw_links (s : State) : (s.draw.1).links = s.links := rfl
@[simp] theorem draw_islands (s : State) : (s.draw.1).islands = s.islands := rfl
@[simp] theorem draw_power (s : State) : (s.draw.1).power = s.power := rfl
@[simp] theorem draw_powerClamp (s : State) : (s.draw.1).powerClamp = s.powerClamp := rfl
@[simp] theorem draw_lowCount (s : State) : (s.draw.1).lowCount = s.lowCount := rfl
@[simp] theorem draw_targetMhz (s : State) : (s.draw.1).targetMhz = s.targetMhz := rfl
@[simp] theorem draw_misland (s : State) : (s.draw.1).misland = s.misland := rfl
@[simp] theorem draw_mecc (s : State) : (s.draw.1).mecc = s.mecc := rfl
@[simp] theorem draw_featReq (s : State) : (s.draw.1).featReq = s.featReq := rfl
@[simp] theorem draw_featClosed (s : State) : (s.draw.1).featClosed = s.featClosed := rfl
@[simp] theorem draw_pcmd (s : State) : (s.draw.1).pcmd = s.pcmd := rfl
@[simp] theorem draw_parg (s : State) : (s.draw.1).parg = s.parg := rfl
@[simp] theorem draw_pstat (s : State) : (s.draw.1).pstat = s.pstat := rfl
@[simp] theorem draw_pterm (s : State) : (s.draw.1).pterm = s.pterm := rfl
@[simp] theorem draw_limit (s : State) : (s.draw.1).limit = s.limit := rfl
@[simp] theorem draw_fw (s : State) : (s.draw.1).fw = s.fw := rfl
@[simp] theorem draw_pkg (s : State) : (s.draw.1).pkg = s.pkg := rfl
@[simp] theorem draw_time (s : State) : (s.draw.1).time = s.time := rfl
@[simp] theorem draw_retiredCores (s : State) : (s.draw.1).retiredCores = s.retiredCores := rfl
@[simp] theorem draw_spares (s : State) : (s.draw.1).spares = s.spares := rfl
@[simp] theorem draw_flipped (s : State) : (s.draw.1).flipped = s.flipped := rfl
@[simp] theorem draw_upsets (s : State) : (s.draw.1).upsets = s.upsets := rfl
@[simp] theorem draw_corrupt (s : State) : (s.draw.1).corrupt = s.corrupt := rfl
@[simp] theorem draw_broken (s : State) : (s.draw.1).broken = s.broken := rfl
@[simp] theorem draw_bankErrors (s : State) : (s.draw.1).bankErrors = s.bankErrors := rfl
@[simp] theorem draw_out (s : State) : (s.draw.1).out = s.out := rfl
@[simp] theorem draw_posts (s : State) : (s.draw.1).posts = s.posts := rfl
@[simp] theorem draw_cur (s : State) : (s.draw.1).cur = s.cur := rfl
@[simp] theorem draw_issued (s : State) : (s.draw.1).issued = s.issued := rfl
@[simp] theorem draw_passes (s : State) : (s.draw.1).passes = s.passes := rfl
@[simp] theorem draw_inputs (s : State) : (s.draw.1).inputs = s.inputs := rfl
@[simp] theorem draw_elapse (s : State) : (s.draw.1).elapse = s.elapse := rfl
@[simp] theorem draw_strikes (s : State) : (s.draw.1).strikes = s.strikes := rfl
@[simp] theorem draw_delays (s : State) : (s.draw.1).delays = s.delays := rfl
@[simp] theorem draw_fresh (s : State) : (s.draw.1).fresh = s.fresh + 1 := rfl
@[simp] theorem draw_eventTurn (s : State) : (s.draw.1).eventTurn = s.eventTurn := rfl
@[simp] theorem draw_evPos (s : State) : (s.draw.1).evPos = s.evPos := rfl

/-! ### Registers of a hart -/

@[simp] theorem setX_key (h : Hart) (r : Reg) (v : Word) : (h.setX r v).key = h.key := by unfold Hart.setX; split <;> rfl
@[simp] theorem setX_pc (h : Hart) (r : Reg) (v : Word) : (h.setX r v).pc = h.pc := by unfold Hart.setX; split <;> rfl
@[simp] theorem setX_level (h : Hart) (r : Reg) (v : Word) : (h.setX r v).level = h.level := by unfold Hart.setX; split <;> rfl
@[simp] theorem setX_f (h : Hart) (r : Reg) (v : Word) : (h.setX r v).f = h.f := by unfold Hart.setX; split <;> rfl
@[simp] theorem setX_csr (h : Hart) (r : Reg) (v : Word) : (h.setX r v).csr = h.csr := by unfold Hart.setX; split <;> rfl
@[simp] theorem setX_task (h : Hart) (r : Reg) (v : Word) : (h.setX r v).task = h.task := by unfold Hart.setX; split <;> rfl
@[simp] theorem setX_entry (h : Hart) (r : Reg) (v : Word) : (h.setX r v).entry = h.entry := by unfold Hart.setX; split <;> rfl
@[simp] theorem setX_index (h : Hart) (r : Reg) (v : Word) : (h.setX r v).index = h.index := by unfold Hart.setX; split <;> rfl
@[simp] theorem setX_rtc (h : Hart) (r : Reg) (v : Word) : (h.setX r v).rtc = h.rtc := by unfold Hart.setX; split <;> rfl
@[simp] theorem setX_retired (h : Hart) (r : Reg) (v : Word) : (h.setX r v).retired = h.retired := by unfold Hart.setX; split <;> rfl
@[simp] theorem setX_sched (h : Hart) (r : Reg) (v : Word) : (h.setX r v).sched = h.sched := by unfold Hart.setX; split <;> rfl
@[simp] theorem setX_queue (h : Hart) (r : Reg) (v : Word) : (h.setX r v).queue = h.queue := by unfold Hart.setX; split <;> rfl
@[simp] theorem setX_held (h : Hart) (r : Reg) (v : Word) : (h.setX r v).held = h.held := by unfold Hart.setX; split <;> rfl
@[simp] theorem setX_heldCls (h : Hart) (r : Reg) (v : Word) : (h.setX r v).heldCls = h.heldCls := by unfold Hart.setX; split <;> rfl
@[simp] theorem setX_imgHeld (h : Hart) (r : Reg) (v : Word) : (h.setX r v).imgHeld = h.imgHeld := by unfold Hart.setX; split <;> rfl
@[simp] theorem setX_imgOuter (h : Hart) (r : Reg) (v : Word) : (h.setX r v).imgOuter = h.imgOuter := by unfold Hart.setX; split <;> rfl
@[simp] theorem setX_xpend (h : Hart) (r : Reg) (v : Word) : (h.setX r v).xpend = h.xpend := by unfold Hart.setX; split <;> rfl
@[simp] theorem setX_fpend (h : Hart) (r : Reg) (v : Word) : (h.setX r v).fpend = h.fpend := by unfold Hart.setX; split <;> rfl
@[simp] theorem setX_slots (h : Hart) (r : Reg) (v : Word) : (h.setX r v).slots = h.slots := by unfold Hart.setX; split <;> rfl
@[simp] theorem setX_outst (h : Hart) (r : Reg) (v : Word) : (h.setX r v).outst = h.outst := by unfold Hart.setX; split <;> rfl
@[simp] theorem setX_path (h : Hart) (r : Reg) (v : Word) : (h.setX r v).path = h.path := by unfold Hart.setX; split <;> rfl
@[simp] theorem setX_eng (h : Hart) (r : Reg) (v : Word) : (h.setX r v).eng = h.eng := by unfold Hart.setX; split <;> rfl
@[simp] theorem setX_resv (h : Hart) (r : Reg) (v : Word) : (h.setX r v).resv = h.resv := by unfold Hart.setX; split <;> rfl
@[simp] theorem setX_resvSeq (h : Hart) (r : Reg) (v : Word) : (h.setX r v).resvSeq = h.resvSeq := by unfold Hart.setX; split <;> rfl
@[simp] theorem setX_resvLost (h : Hart) (r : Reg) (v : Word) : (h.setX r v).resvLost = h.resvLost := by unfold Hart.setX; split <;> rfl
@[simp] theorem setX_checked (h : Hart) (r : Reg) (v : Word) : (h.setX r v).checked = h.checked := by unfold Hart.setX; split <;> rfl
@[simp] theorem setX_irqs (h : Hart) (r : Reg) (v : Word) : (h.setX r v).irqs = h.irqs := by unfold Hart.setX; split <;> rfl
@[simp] theorem setX_req (h : Hart) (r : Reg) (v : Word) : (h.setX r v).req = h.req := by unfold Hart.setX; split <;> rfl
@[simp] theorem setX_fwcall (h : Hart) (r : Reg) (v : Word) : (h.setX r v).fwcall = h.fwcall := by unfold Hart.setX; split <;> rfl
@[simp] theorem setX_stall (h : Hart) (r : Reg) (v : Word) : (h.setX r v).stall = h.stall := by unfold Hart.setX; split <;> rfl
@[simp] theorem setX_waitFor (h : Hart) (r : Reg) (v : Word) : (h.setX r v).waitFor = h.waitFor := by unfold Hart.setX; split <;> rfl
@[simp] theorem setX_area (h : Hart) (r : Reg) (v : Word) : (h.setX r v).area = h.area := by unfold Hart.setX; split <;> rfl
@[simp] theorem setX_tilesAway (h : Hart) (r : Reg) (v : Word) : (h.setX r v).tilesAway = h.tilesAway := by unfold Hart.setX; split <;> rfl
@[simp] theorem setF_key (h : Hart) (r : Reg) (v : Word) : (h.setF r v).key = h.key := rfl
@[simp] theorem setF_pc (h : Hart) (r : Reg) (v : Word) : (h.setF r v).pc = h.pc := rfl
@[simp] theorem setF_level (h : Hart) (r : Reg) (v : Word) : (h.setF r v).level = h.level := rfl
@[simp] theorem setF_x (h : Hart) (r : Reg) (v : Word) : (h.setF r v).x = h.x := rfl
@[simp] theorem setF_csr (h : Hart) (r : Reg) (v : Word) : (h.setF r v).csr = h.csr := rfl
@[simp] theorem setF_task (h : Hart) (r : Reg) (v : Word) : (h.setF r v).task = h.task := rfl
@[simp] theorem setF_entry (h : Hart) (r : Reg) (v : Word) : (h.setF r v).entry = h.entry := rfl
@[simp] theorem setF_index (h : Hart) (r : Reg) (v : Word) : (h.setF r v).index = h.index := rfl
@[simp] theorem setF_rtc (h : Hart) (r : Reg) (v : Word) : (h.setF r v).rtc = h.rtc := rfl
@[simp] theorem setF_retired (h : Hart) (r : Reg) (v : Word) : (h.setF r v).retired = h.retired := rfl
@[simp] theorem setF_sched (h : Hart) (r : Reg) (v : Word) : (h.setF r v).sched = h.sched := rfl
@[simp] theorem setF_queue (h : Hart) (r : Reg) (v : Word) : (h.setF r v).queue = h.queue := rfl
@[simp] theorem setF_held (h : Hart) (r : Reg) (v : Word) : (h.setF r v).held = h.held := rfl
@[simp] theorem setF_heldCls (h : Hart) (r : Reg) (v : Word) : (h.setF r v).heldCls = h.heldCls := rfl
@[simp] theorem setF_imgHeld (h : Hart) (r : Reg) (v : Word) : (h.setF r v).imgHeld = h.imgHeld := rfl
@[simp] theorem setF_imgOuter (h : Hart) (r : Reg) (v : Word) : (h.setF r v).imgOuter = h.imgOuter := rfl
@[simp] theorem setF_xpend (h : Hart) (r : Reg) (v : Word) : (h.setF r v).xpend = h.xpend := rfl
@[simp] theorem setF_fpend (h : Hart) (r : Reg) (v : Word) : (h.setF r v).fpend = h.fpend := rfl
@[simp] theorem setF_slots (h : Hart) (r : Reg) (v : Word) : (h.setF r v).slots = h.slots := rfl
@[simp] theorem setF_outst (h : Hart) (r : Reg) (v : Word) : (h.setF r v).outst = h.outst := rfl
@[simp] theorem setF_path (h : Hart) (r : Reg) (v : Word) : (h.setF r v).path = h.path := rfl
@[simp] theorem setF_eng (h : Hart) (r : Reg) (v : Word) : (h.setF r v).eng = h.eng := rfl
@[simp] theorem setF_resv (h : Hart) (r : Reg) (v : Word) : (h.setF r v).resv = h.resv := rfl
@[simp] theorem setF_resvSeq (h : Hart) (r : Reg) (v : Word) : (h.setF r v).resvSeq = h.resvSeq := rfl
@[simp] theorem setF_resvLost (h : Hart) (r : Reg) (v : Word) : (h.setF r v).resvLost = h.resvLost := rfl
@[simp] theorem setF_checked (h : Hart) (r : Reg) (v : Word) : (h.setF r v).checked = h.checked := rfl
@[simp] theorem setF_irqs (h : Hart) (r : Reg) (v : Word) : (h.setF r v).irqs = h.irqs := rfl
@[simp] theorem setF_req (h : Hart) (r : Reg) (v : Word) : (h.setF r v).req = h.req := rfl
@[simp] theorem setF_fwcall (h : Hart) (r : Reg) (v : Word) : (h.setF r v).fwcall = h.fwcall := rfl
@[simp] theorem setF_stall (h : Hart) (r : Reg) (v : Word) : (h.setF r v).stall = h.stall := rfl
@[simp] theorem setF_waitFor (h : Hart) (r : Reg) (v : Word) : (h.setF r v).waitFor = h.waitFor := rfl
@[simp] theorem setF_area (h : Hart) (r : Reg) (v : Word) : (h.setF r v).area = h.area := rfl
@[simp] theorem setF_tilesAway (h : Hart) (r : Reg) (v : Word) : (h.setF r v).tilesAway = h.tilesAway := rfl

/-- x0 reads zero (R15). -/
@[simp] theorem getX_zero (h : Hart) : h.getX 0 = 0 := by simp [Hart.getX]

/-- A write to x0 is discarded (R15). -/
@[simp] theorem setX_zero (h : Hart) (v : Word) : h.setX 0 v = h := by simp [Hart.setX]

/-- A register reads as it was written, and every other register as before. -/
theorem getX_setX (h : Hart) (r q : Reg) (v : Word) : (h.setX r v).getX q = if q = r ∧ r ≠ 0 then v else h.getX q := by
  by_cases z : r = 0
  · simp [z]
  · by_cases zq : q = 0
    · simp [zq, Ne.symm z]
    · simp only [Hart.getX, Hart.setX, z, zq, if_false, ne_eq, not_false_eq_true, and_true]
      by_cases e : q = r
      · subst e; simp
      · have n : r.val ≠ q.val := fun k => e (Fin.ext k.symm)
        simp [e, n]

@[simp] theorem getF_setX (h : Hart) (r q : Reg) (v : Word) : (h.setX r v).getF q = h.getF q := by simp [Hart.getF]

@[simp] theorem getX_setF (h : Hart) (r q : Reg) (v : Word) : (h.setF r v).getX q = h.getX q := rfl

theorem getF_setF (h : Hart) (r q : Reg) (v : Word) : (h.setF r v).getF q = if q = r then v else h.getF q := by
  simp only [Hart.getF, Hart.setF]
  by_cases e : q = r
  · subst e; simp
  · have n : r.val ≠ q.val := fun k => e (Fin.ext k.symm)
    simp [e, n]

/-! ### Lookups -/

theorem find_map_key (l : List Hart) (k j : HartKey) (f : Hart → Hart) (hk : ∀ x, (f x).key = x.key) :
    (l.map fun g => if g.key == k then f g else g).find? (fun h => h.key == j) =
      (l.find? fun h => h.key == j).map fun h => if h.key == k then f h else h := by
  induction l with
  | nil => rfl
  | cons a l ih =>
    have key : (if a.key == k then f a else a).key = a.key := by split <;> simp [hk]
    rw [List.map_cons, List.find?_cons, List.find?_cons, key, ih]
    cases a.key == j <;> rfl

/-- A hart that is changed, its key kept, is found changed; every other as before. -/
theorem hart?_modHart (s : State) (k j : HartKey) (f : Hart → Hart) (hk : ∀ x, (f x).key = x.key) :
    (s.modHart k f).hart? j = if j = k then (s.hart? k).map f else s.hart? j := by
  have e : (s.modHart k f).hart? j = (s.hart? j).map fun h => if h.key == k then f h else h := find_map_key s.harts k j f hk
  rw [e]
  cases q : s.hart? j with
  | none =>
    split
    · rename_i x; rw [← x, q]; rfl
    · rfl
  | some h =>
    have kj : h.key = j := by simpa using List.find?_some q
    by_cases x : j = k
    · rw [if_pos x, ← x, q]; simp [kj, x]
    · simp [kj, x]

theorem hart?_key {s : State} {k : HartKey} {h : Hart} (e : s.hart? k = some h) : h.key = k := by simpa using List.find?_some e

/-- A partition that is changed reads changed, and every other as before. -/
theorem part_modPart (s : State) (p q : Fin 17) (f : Part → Part) : (s.modPart p f).part q = if q = p then f (s.part p) else s.part q := by
  simp only [State.part, State.modPart]
  by_cases e : q = p
  · subst e; simp
  · have n : p.val ≠ q.val := fun k => e (Fin.ext k.symm)
    simp [e, n]

@[simp] theorem part_setMem (s : State) (m : List Host.Cell) (p : Fin 17) : (s.setMem m).part p = s.part p := rfl

@[simp] theorem part_modHart (s : State) (k : HartKey) (f : Hart → Hart) (p : Fin 17) : (s.modHart k f).part p = s.part p := rfl

@[simp] theorem hart?_setMem (s : State) (m : List Host.Cell) (k : HartKey) : (s.setMem m).hart? k = s.hart? k := rfl

@[simp] theorem hart?_modPart (s : State) (p : Fin 17) (f : Part → Part) (k : HartKey) : (s.modPart p f).hart? k = s.hart? k := rfl

end Sys2Proof.Laws
end

