-- ==== Sys2Proof/Laws/Ops.lean ====
section
/-! SUPPORT. What taking a trap, completing an instruction and running one do, said once. -/

namespace Sys2Proof.Laws
open Sys2Proof.Machine Sys2Proof.Claims

/-! ### Entering a trap (R325, R137) -/

@[simp] theorem enterS_key (h : Hart) (t : Trap) : (h.enterS t).key = h.key := rfl
@[simp] theorem enterS_pc (h : Hart) (t : Trap) : (h.enterS t).pc = h.csr.evec := rfl
@[simp] theorem enterS_level (h : Hart) (t : Trap) : (h.enterS t).level = .s := rfl
@[simp] theorem enterS_x (h : Hart) (t : Trap) : (h.enterS t).x = h.x := rfl
@[simp] theorem enterS_f (h : Hart) (t : Trap) : (h.enterS t).f = h.f := rfl
@[simp] theorem enterS_queue (h : Hart) (t : Trap) : (h.enterS t).queue = h.queue := rfl
@[simp] theorem enterU_key (h : Hart) (t : Trap) : (h.enterU t).key = h.key := rfl
@[simp] theorem enterU_pc (h : Hart) (t : Trap) : (h.enterU t).pc = h.csr.uvec := rfl
@[simp] theorem enterU_level (h : Hart) (t : Trap) : (h.enterU t).level = h.level := rfl
@[simp] theorem enterU_x (h : Hart) (t : Trap) : (h.enterU t).x = h.x := rfl
@[simp] theorem enterU_f (h : Hart) (t : Trap) : (h.enterU t).f = h.f := rfl
@[simp] theorem enterU_queue (h : Hart) (t : Trap) : (h.enterU t).queue = h.queue := rfl

/-- A delegated trap. -/
theorem trap_delegated {s : State} {k : HartKey} {h : Hart} {t : Trap} (e : s.hart? k = some h) (d : h.delegates t.cause = true) :
    s.trap k t = s.modHart k fun g => g.enterU t := by simp [State.trap, e, d]

/-- Any other trap is taken at S. -/
theorem trap_not_delegated {s : State} {k : HartKey} {h : Hart} {t : Trap} (e : s.hart? k = some h) (d : h.delegates t.cause = false) :
    s.trap k t = s.trapS k t := by simp [State.trap, e, d]

/-- With evec 0 the partition ends (R28). -/
theorem trapS_no_vector {s : State} {k : HartKey} {h : Hart} {t : Trap} (e : s.hart? k = some h) (z : h.csr.evec = 0) :
    s.trapS k t = s.terminatePart k.part t.cause h.pc := by simp [State.trapS, e, z]

/-- Above T the hart enters its vector at once. -/
theorem trapS_above_t {s : State} {k : HartKey} {h : Hart} {t : Trap} (e : s.hart? k = some h) (z : h.csr.evec ≠ 0) (l : h.level ≠ .t) :
    s.trapS k t = (s.modHart k fun g => g.enterS t).endInvalidations k := by
  simp only [State.trapS, e, if_neg z]; simp [l]

/-- From T the queue is saved as an image first. -/
theorem trapS_from_t {s : State} {k : HartKey} {h : Hart} {t : Trap} (e : s.hart? k = some h) (z : h.csr.evec ≠ 0) (l : h.level = .t) :
    s.trapS k t = ((s.saveImage k).modHart k fun g => g.enterS t).endInvalidations k := by
  simp only [State.trapS, e, if_neg z]; simp [l]

/-- The hart after a trap above T: its CSRs, its level and its pc are those of the entry. -/
theorem trapS_hart {s : State} {k : HartKey} {h : Hart} {t : Trap} (e : s.hart? k = some h) (z : h.csr.evec ≠ 0) (l : h.level ≠ .t) :
    (s.trapS k t).hart? k = some (h.enterS t) := by
  rw [trapS_above_t e z l]
  show (s.modHart k fun g => g.enterS t).hart? k = _
  rw [hart?_modHart s k k (fun g => g.enterS t) fun _ => rfl, if_pos rfl, e]; rfl

/-! ### Completing an instruction (R458) -/

@[simp] theorem retire_key (h b : Hart) (i : Instr) (pc : Word) : (h.retire b i pc).key = h.key := rfl
@[simp] theorem retire_pc (h b : Hart) (i : Instr) (pc : Word) : (h.retire b i pc).pc = pc := rfl
@[simp] theorem retire_x (h b : Hart) (i : Instr) (pc : Word) : (h.retire b i pc).x = h.x := rfl
@[simp] theorem retire_f (h b : Hart) (i : Instr) (pc : Word) : (h.retire b i pc).f = h.f := rfl
@[simp] theorem retire_level (h b : Hart) (i : Instr) (pc : Word) : (h.retire b i pc).level = h.level := rfl
@[simp] theorem retire_queue (h b : Hart) (i : Instr) (pc : Word) : (h.retire b i pc).queue = h.queue := rfl
@[simp] theorem retire_resv (h b : Hart) (i : Instr) (pc : Word) : (h.retire b i pc).resv = h.resv := rfl
@[simp] theorem retire_path (h b : Hart) (i : Instr) (pc : Word) : (h.retire b i pc).path = h.path := rfl
@[simp] theorem retire_slots (h b : Hart) (i : Instr) (pc : Word) : (h.retire b i pc).slots = h.slots := rfl
@[simp] theorem retire_eng (h b : Hart) (i : Instr) (pc : Word) : (h.retire b i pc).eng = h.eng := rfl
@[simp] theorem retire_stall (h b : Hart) (i : Instr) (pc : Word) : (h.retire b i pc).stall = false := rfl

/-- Of the CSRs a retirement changes migcount alone, and that only after a class miss (R40). -/
theorem retire_csr (h b : Hart) (i : Instr) (pc : Word) (n : b.hasMoved = false) : (h.retire b i pc).csr = h.csr := by
  simp [Hart.retire, Hart.migrated, Hart.counted, n]

/-- An instruction whose body completes retires, and the pc passes its words. -/
theorem run_ok {s t : State} {h : Hart} {i : Instr} {body : State → Hart → Effect} (r : Ready s h i) (e : body s h = .ok t) :
    run i s body = .next (t.modHart h.key fun g => g.retire h i (h.pc + BitVec.ofNat 64 (instrLen i))) := by
  rw [run_ready r, e]; rfl

/-- An instruction whose body jumps retires, and the pc is the target. -/
theorem run_jump {s t : State} {h : Hart} {i : Instr} {pc : Word} {body : State → Hart → Effect} (r : Ready s h i) (e : body s h = .jump t pc) :
    run i s body = .next (t.modHart h.key fun g => g.retire h i pc) := by
  rw [run_ready r, e]; rfl

/-- An instruction that traps, at T or with no entry of its own level before it, takes the trap in the state that its body leaves. -/
theorem run_trap {s t : State} {h : Hart} {i : Instr} {c : Trap} {body : State → Hart → Effect} (r : Ready s h i) (e : body s h = .trap t c)
    (n : h.level = .t ∨ h.queue = []) : run i s body = .next (trapped t h c) := by
  rw [run_ready r, e]
  rcases n with n | n <;> simp [finish, trapped, n]

/-- An instruction that waits leaves the state that its body leaves, and the hart stalls. -/
theorem run_stall {s t : State} {h : Hart} {i : Instr} {body : State → Hart → Effect} (r : Ready s h i) (e : body s h = .stall t) :
    run i s body = .next (t.modHart h.key fun g => { g with stall := true }) := by
  rw [run_ready r, e]; rfl

/-- The hart after an instruction that changes only its hart. -/
theorem run_onHart {s : State} {h : Hart} {i : Instr} {f : Hart → Hart} (r : Ready s h i) (hf : ∀ x, (f x).key = x.key) :
    run i s (onHart f) = .next (s.modHart h.key fun g => (f g).retire h i (h.pc + BitVec.ofNat 64 (instrLen i))) := by
  rw [run_ok r rfl, modHart_modHart s h.key f _ hf]

/-- Without a hart there is nothing to run (the fault noHart). -/
theorem run_noHart {s : State} {i : Instr} {body : State → Hart → Effect} (e : s.curHart? = none) : run i s body = .fault .noHart := by
  simp [run, e]

end Sys2Proof.Laws
end

