-- ==== Sys2Proof/Laws/PerInstr.lean ====
section
/-! SUPPORT. For each constructor: an instruction has one word or two (R47), and an event has none. -/

namespace Sys2Proof.Laws.Length

/-- No word, one, or two. -/
def Statement (i : Instr) : Prop := encode i = [] ∨ (∃ w, encode i = [w]) ∨ ∃ w v, encode i = [w, v]

theorem add (a0 a1 a2) : Statement (.add a0 a1 a2) := .inr (.inl ⟨_, rfl⟩)
theorem sub (a0 a1 a2) : Statement (.sub a0 a1 a2) := .inr (.inl ⟨_, rfl⟩)
theorem and (a0 a1 a2) : Statement (.and a0 a1 a2) := .inr (.inl ⟨_, rfl⟩)
theorem or (a0 a1 a2) : Statement (.or a0 a1 a2) := .inr (.inl ⟨_, rfl⟩)
theorem xor (a0 a1 a2) : Statement (.xor a0 a1 a2) := .inr (.inl ⟨_, rfl⟩)
theorem andn (a0 a1 a2) : Statement (.andn a0 a1 a2) := .inr (.inl ⟨_, rfl⟩)
theorem sll (a0 a1 a2) : Statement (.sll a0 a1 a2) := .inr (.inl ⟨_, rfl⟩)
theorem srl (a0 a1 a2) : Statement (.srl a0 a1 a2) := .inr (.inl ⟨_, rfl⟩)
theorem sra (a0 a1 a2) : Statement (.sra a0 a1 a2) := .inr (.inl ⟨_, rfl⟩)
theorem rol (a0 a1 a2) : Statement (.rol a0 a1 a2) := .inr (.inl ⟨_, rfl⟩)
theorem ror (a0 a1 a2) : Statement (.ror a0 a1 a2) := .inr (.inl ⟨_, rfl⟩)
theorem slt (a0 a1 a2) : Statement (.slt a0 a1 a2) := .inr (.inl ⟨_, rfl⟩)
theorem sltn (a0 a1 a2) : Statement (.sltn a0 a1 a2) := .inr (.inl ⟨_, rfl⟩)
theorem min (a0 a1 a2) : Statement (.min a0 a1 a2) := .inr (.inl ⟨_, rfl⟩)
theorem max (a0 a1 a2) : Statement (.max a0 a1 a2) := .inr (.inl ⟨_, rfl⟩)
theorem minn (a0 a1 a2) : Statement (.minn a0 a1 a2) := .inr (.inl ⟨_, rfl⟩)
theorem maxn (a0 a1 a2) : Statement (.maxn a0 a1 a2) := .inr (.inl ⟨_, rfl⟩)
theorem mul (a0 a1 a2) : Statement (.mul a0 a1 a2) := .inr (.inl ⟨_, rfl⟩)
theorem mulh (a0 a1 a2) : Statement (.mulh a0 a1 a2) := .inr (.inl ⟨_, rfl⟩)
theorem mulhn (a0 a1 a2) : Statement (.mulhn a0 a1 a2) := .inr (.inl ⟨_, rfl⟩)
theorem div (a0 a1 a2) : Statement (.div a0 a1 a2) := .inr (.inl ⟨_, rfl⟩)
theorem divn (a0 a1 a2) : Statement (.divn a0 a1 a2) := .inr (.inl ⟨_, rfl⟩)
theorem rem (a0 a1 a2) : Statement (.rem a0 a1 a2) := .inr (.inl ⟨_, rfl⟩)
theorem remn (a0 a1 a2) : Statement (.remn a0 a1 a2) := .inr (.inl ⟨_, rfl⟩)
theorem sadd1 (a0 a1 a2) : Statement (.sadd1 a0 a1 a2) := .inr (.inl ⟨_, rfl⟩)
theorem sadd2 (a0 a1 a2) : Statement (.sadd2 a0 a1 a2) := .inr (.inl ⟨_, rfl⟩)
theorem sadd3 (a0 a1 a2) : Statement (.sadd3 a0 a1 a2) := .inr (.inl ⟨_, rfl⟩)
theorem bext (a0 a1 a2) : Statement (.bext a0 a1 a2) := .inr (.inl ⟨_, rfl⟩)
theorem bins (a0 a1 a2) : Statement (.bins a0 a1 a2) := .inr (.inl ⟨_, rfl⟩)
theorem clz (a0 a1) : Statement (.clz a0 a1) := .inr (.inl ⟨_, rfl⟩)
theorem ctz (a0 a1) : Statement (.ctz a0 a1) := .inr (.inl ⟨_, rfl⟩)
theorem popc (a0 a1) : Statement (.popc a0 a1) := .inr (.inl ⟨_, rfl⟩)
theorem sext_b (a0 a1) : Statement (.sext_b a0 a1) := .inr (.inl ⟨_, rfl⟩)
theorem sext_h (a0 a1) : Statement (.sext_h a0 a1) := .inr (.inl ⟨_, rfl⟩)
theorem sext_w (a0 a1) : Statement (.sext_w a0 a1) := .inr (.inl ⟨_, rfl⟩)
theorem zext_b (a0 a1) : Statement (.zext_b a0 a1) := .inr (.inl ⟨_, rfl⟩)
theorem zext_h (a0 a1) : Statement (.zext_h a0 a1) := .inr (.inl ⟨_, rfl⟩)
theorem zext_w (a0 a1) : Statement (.zext_w a0 a1) := .inr (.inl ⟨_, rfl⟩)
theorem addi (a0 a1 a2) : Statement (.addi a0 a1 a2) := .inr (.inl ⟨_, rfl⟩)
theorem andi (a0 a1 a2) : Statement (.andi a0 a1 a2) := .inr (.inl ⟨_, rfl⟩)
theorem ori (a0 a1 a2) : Statement (.ori a0 a1 a2) := .inr (.inl ⟨_, rfl⟩)
theorem xori (a0 a1 a2) : Statement (.xori a0 a1 a2) := .inr (.inl ⟨_, rfl⟩)
theorem slti (a0 a1 a2) : Statement (.slti a0 a1 a2) := .inr (.inl ⟨_, rfl⟩)
theorem slli (a0 a1 a2) : Statement (.slli a0 a1 a2) := .inr (.inl ⟨_, rfl⟩)
theorem srli (a0 a1 a2) : Statement (.srli a0 a1 a2) := .inr (.inl ⟨_, rfl⟩)
theorem srai (a0 a1 a2) : Statement (.srai a0 a1 a2) := .inr (.inl ⟨_, rfl⟩)
theorem lup (a0 a1) : Statement (.lup a0 a1) := .inr (.inl ⟨_, rfl⟩)
theorem pcadd (a0 a1) : Statement (.pcadd a0 a1) := .inr (.inl ⟨_, rfl⟩)
theorem beq (a0 a1 a2) : Statement (.beq a0 a1 a2) := .inr (.inl ⟨_, rfl⟩)
theorem bne (a0 a1 a2) : Statement (.bne a0 a1 a2) := .inr (.inl ⟨_, rfl⟩)
theorem blt (a0 a1 a2) : Statement (.blt a0 a1 a2) := .inr (.inl ⟨_, rfl⟩)
theorem bge (a0 a1 a2) : Statement (.bge a0 a1 a2) := .inr (.inl ⟨_, rfl⟩)
theorem bltn (a0 a1 a2) : Statement (.bltn a0 a1 a2) := .inr (.inl ⟨_, rfl⟩)
theorem bgen (a0 a1 a2) : Statement (.bgen a0 a1 a2) := .inr (.inl ⟨_, rfl⟩)
theorem j (a0) : Statement (.j a0) := .inr (.inl ⟨_, rfl⟩)
theorem call (a0) : Statement (.call a0) := .inr (.inl ⟨_, rfl⟩)
theorem jx (a0) : Statement (.jx a0) := .inr (.inl ⟨_, rfl⟩)
theorem callx (a0 a1) : Statement (.callx a0 a1) := .inr (.inl ⟨_, rfl⟩)
theorem ret (a0) : Statement (.ret a0) := .inr (.inl ⟨_, rfl⟩)
theorem ldb (a0 a1 a2) : Statement (.ldb a0 a1 a2) := .inr (.inl ⟨_, rfl⟩)
theorem ldbz (a0 a1 a2) : Statement (.ldbz a0 a1 a2) := .inr (.inl ⟨_, rfl⟩)
theorem ldh (a0 a1 a2) : Statement (.ldh a0 a1 a2) := .inr (.inl ⟨_, rfl⟩)
theorem ldhz (a0 a1 a2) : Statement (.ldhz a0 a1 a2) := .inr (.inl ⟨_, rfl⟩)
theorem ldw (a0 a1 a2) : Statement (.ldw a0 a1 a2) := .inr (.inl ⟨_, rfl⟩)
theorem ldwz (a0 a1 a2) : Statement (.ldwz a0 a1 a2) := .inr (.inl ⟨_, rfl⟩)
theorem ldd (a0 a1 a2) : Statement (.ldd a0 a1 a2) := .inr (.inl ⟨_, rfl⟩)
theorem stb (a0 a1 a2) : Statement (.stb a0 a1 a2) := .inr (.inl ⟨_, rfl⟩)
theorem sth (a0 a1 a2) : Statement (.sth a0 a1 a2) := .inr (.inl ⟨_, rfl⟩)
theorem stw (a0 a1 a2) : Statement (.stw a0 a1 a2) := .inr (.inl ⟨_, rfl⟩)
theorem std (a0 a1 a2) : Statement (.std a0 a1 a2) := .inr (.inl ⟨_, rfl⟩)
theorem amoadd_w (a0 a1 a2 a3 a4) : Statement (.amoadd_w a0 a1 a2 a3 a4) := .inr (.inl ⟨_, rfl⟩)
theorem amoand_w (a0 a1 a2 a3 a4) : Statement (.amoand_w a0 a1 a2 a3 a4) := .inr (.inl ⟨_, rfl⟩)
theorem amoor_w (a0 a1 a2 a3 a4) : Statement (.amoor_w a0 a1 a2 a3 a4) := .inr (.inl ⟨_, rfl⟩)
theorem amoxor_w (a0 a1 a2 a3 a4) : Statement (.amoxor_w a0 a1 a2 a3 a4) := .inr (.inl ⟨_, rfl⟩)
theorem amomin_w (a0 a1 a2 a3 a4) : Statement (.amomin_w a0 a1 a2 a3 a4) := .inr (.inl ⟨_, rfl⟩)
theorem amomax_w (a0 a1 a2 a3 a4) : Statement (.amomax_w a0 a1 a2 a3 a4) := .inr (.inl ⟨_, rfl⟩)
theorem amominn_w (a0 a1 a2 a3 a4) : Statement (.amominn_w a0 a1 a2 a3 a4) := .inr (.inl ⟨_, rfl⟩)
theorem amomaxn_w (a0 a1 a2 a3 a4) : Statement (.amomaxn_w a0 a1 a2 a3 a4) := .inr (.inl ⟨_, rfl⟩)
theorem amoswp_w (a0 a1 a2 a3 a4) : Statement (.amoswp_w a0 a1 a2 a3 a4) := .inr (.inl ⟨_, rfl⟩)
theorem amoadd_d (a0 a1 a2 a3 a4) : Statement (.amoadd_d a0 a1 a2 a3 a4) := .inr (.inl ⟨_, rfl⟩)
theorem amoand_d (a0 a1 a2 a3 a4) : Statement (.amoand_d a0 a1 a2 a3 a4) := .inr (.inl ⟨_, rfl⟩)
theorem amoor_d (a0 a1 a2 a3 a4) : Statement (.amoor_d a0 a1 a2 a3 a4) := .inr (.inl ⟨_, rfl⟩)
theorem amoxor_d (a0 a1 a2 a3 a4) : Statement (.amoxor_d a0 a1 a2 a3 a4) := .inr (.inl ⟨_, rfl⟩)
theorem amomin_d (a0 a1 a2 a3 a4) : Statement (.amomin_d a0 a1 a2 a3 a4) := .inr (.inl ⟨_, rfl⟩)
theorem amomax_d (a0 a1 a2 a3 a4) : Statement (.amomax_d a0 a1 a2 a3 a4) := .inr (.inl ⟨_, rfl⟩)
theorem amominn_d (a0 a1 a2 a3 a4) : Statement (.amominn_d a0 a1 a2 a3 a4) := .inr (.inl ⟨_, rfl⟩)
theorem amomaxn_d (a0 a1 a2 a3 a4) : Statement (.amomaxn_d a0 a1 a2 a3 a4) := .inr (.inl ⟨_, rfl⟩)
theorem amoswp_d (a0 a1 a2 a3 a4) : Statement (.amoswp_d a0 a1 a2 a3 a4) := .inr (.inl ⟨_, rfl⟩)
theorem amocas_w (a0 a1 a2 a3 a4) : Statement (.amocas_w a0 a1 a2 a3 a4) := .inr (.inl ⟨_, rfl⟩)
theorem amocas_d (a0 a1 a2 a3 a4) : Statement (.amocas_d a0 a1 a2 a3 a4) := .inr (.inl ⟨_, rfl⟩)
theorem ldres_w (a0 a1 a2 a3) : Statement (.ldres_w a0 a1 a2 a3) := .inr (.inl ⟨_, rfl⟩)
theorem ldres_d (a0 a1 a2 a3) : Statement (.ldres_d a0 a1 a2 a3) := .inr (.inl ⟨_, rfl⟩)
theorem stcond_w (a0 a1 a2 a3 a4) : Statement (.stcond_w a0 a1 a2 a3 a4) := .inr (.inl ⟨_, rfl⟩)
theorem stcond_d (a0 a1 a2 a3 a4) : Statement (.stcond_d a0 a1 a2 a3 a4) := .inr (.inl ⟨_, rfl⟩)
theorem fadd (a0 a1 a2 a3 a4) : Statement (.fadd a0 a1 a2 a3 a4) := .inr (.inl ⟨_, rfl⟩)
theorem fsub (a0 a1 a2 a3 a4) : Statement (.fsub a0 a1 a2 a3 a4) := .inr (.inl ⟨_, rfl⟩)
theorem fmul (a0 a1 a2 a3 a4) : Statement (.fmul a0 a1 a2 a3 a4) := .inr (.inl ⟨_, rfl⟩)
theorem fdiv (a0 a1 a2 a3 a4) : Statement (.fdiv a0 a1 a2 a3 a4) := .inr (.inl ⟨_, rfl⟩)
theorem fsqrt (a0 a1 a2 a3) : Statement (.fsqrt a0 a1 a2 a3) := .inr (.inl ⟨_, rfl⟩)
theorem fmin (a0 a1 a2 a3) : Statement (.fmin a0 a1 a2 a3) := .inr (.inl ⟨_, rfl⟩)
theorem fmax (a0 a1 a2 a3) : Statement (.fmax a0 a1 a2 a3) := .inr (.inl ⟨_, rfl⟩)
theorem fcmpeq (a0 a1 a2 a3) : Statement (.fcmpeq a0 a1 a2 a3) := .inr (.inl ⟨_, rfl⟩)
theorem fcmplt (a0 a1 a2 a3) : Statement (.fcmplt a0 a1 a2 a3) := .inr (.inl ⟨_, rfl⟩)
theorem fcmple (a0 a1 a2 a3) : Statement (.fcmple a0 a1 a2 a3) := .inr (.inl ⟨_, rfl⟩)
theorem fsgn (a0 a1 a2 a3) : Statement (.fsgn a0 a1 a2 a3) := .inr (.inl ⟨_, rfl⟩)
theorem fclass (a0 a1 a2) : Statement (.fclass a0 a1 a2) := .inr (.inl ⟨_, rfl⟩)
theorem fneg (a0 a1 a2) : Statement (.fneg a0 a1 a2) := .inr (.inl ⟨_, rfl⟩)
theorem fabs (a0 a1 a2) : Statement (.fabs a0 a1 a2) := .inr (.inl ⟨_, rfl⟩)
theorem fma (a0 a1 a2 a3 a4 a5) : Statement (.fma a0 a1 a2 a3 a4 a5) := .inr (.inl ⟨_, rfl⟩)
theorem fms (a0 a1 a2 a3 a4 a5) : Statement (.fms a0 a1 a2 a3 a4 a5) := .inr (.inl ⟨_, rfl⟩)
theorem fnma (a0 a1 a2 a3 a4 a5) : Statement (.fnma a0 a1 a2 a3 a4 a5) := .inr (.inl ⟨_, rfl⟩)
theorem fcvt (a0 a1 a2 a3 a4) : Statement (.fcvt a0 a1 a2 a3 a4) := .inr (.inl ⟨_, rfl⟩)
theorem fmvx (a0 a1) : Statement (.fmvx a0 a1) := .inr (.inl ⟨_, rfl⟩)
theorem fmvf (a0 a1) : Statement (.fmvf a0 a1) := .inr (.inl ⟨_, rfl⟩)
theorem csrrd (a0 a1) : Statement (.csrrd a0 a1) := .inr (.inl ⟨_, rfl⟩)
theorem csrwr (a0 a1 a2) : Statement (.csrwr a0 a1 a2) := .inr (.inl ⟨_, rfl⟩)
theorem csrset (a0 a1 a2) : Statement (.csrset a0 a1 a2) := .inr (.inl ⟨_, rfl⟩)
theorem csrclr (a0 a1 a2) : Statement (.csrclr a0 a1 a2) := .inr (.inl ⟨_, rfl⟩)
theorem cinv (a0 a1) : Statement (.cinv a0 a1) := .inr (.inl ⟨_, rfl⟩)
theorem cwb (a0 a1) : Statement (.cwb a0 a1) := .inr (.inl ⟨_, rfl⟩)
theorem cflush (a0 a1) : Statement (.cflush a0 a1) := .inr (.inl ⟨_, rfl⟩)
theorem vquery (a0 a1 a2) : Statement (.vquery a0 a1 a2) := .inr (.inl ⟨_, rfl⟩)
theorem vdrop (a0 a1) : Statement (.vdrop a0 a1) := .inr (.inl ⟨_, rfl⟩)
theorem tdget (a0 a1 a2) : Statement (.tdget a0 a1 a2) := .inr (.inl ⟨_, rfl⟩)
theorem fence (a0 a1) : Statement (.fence a0 a1) := .inr (.inl ⟨_, rfl⟩)
theorem rfence (a0 a1 a2) : Statement (.rfence a0 a1 a2) := .inr (.inl ⟨_, rfl⟩)
theorem rslot (a0 a1 a2) : Statement (.rslot a0 a1 a2) := .inr (.inl ⟨_, rfl⟩)
theorem rslott (a0 a1) : Statement (.rslott a0 a1) := .inr (.inl ⟨_, rfl⟩)
theorem barInit (a0 a1 a2) : Statement (.barInit a0 a1 a2) := .inr (.inl ⟨_, rfl⟩)
theorem barArrive (a0 a1) : Statement (.barArrive a0 a1) := .inr (.inl ⟨_, rfl⟩)
theorem barWait (a0 a1) : Statement (.barWait a0 a1) := .inr (.inl ⟨_, rfl⟩)
theorem launch (a0 a1 a2) : Statement (.launch a0 a1 a2) := .inr (.inl ⟨_, rfl⟩)
theorem join (a0 a1) : Statement (.join a0 a1) := .inr (.inl ⟨_, rfl⟩)
theorem farm (a0 a1) : Statement (.farm a0 a1) := .inr (.inl ⟨_, rfl⟩)
theorem fclaim (a0 a1) : Statement (.fclaim a0 a1) := .inr (.inl ⟨_, rfl⟩)
theorem wmpub (a0 a1) : Statement (.wmpub a0 a1) := .inr (.inl ⟨_, rfl⟩)
theorem wmwait (a0 a1) : Statement (.wmwait a0 a1) := .inr (.inl ⟨_, rfl⟩)
theorem nullHint (a0) : Statement (.nullHint a0) := .inr (.inl ⟨_, rfl⟩)
theorem hintClass (a0) : Statement (.hintClass a0) := .inr (.inl ⟨_, rfl⟩)
theorem hintPref (a0 a1 a2) : Statement (.hintPref a0 a1 a2) := .inr (.inl ⟨_, rfl⟩)
theorem hintLive (a0 a1) : Statement (.hintLive a0 a1) := .inr (.inl ⟨_, rfl⟩)
theorem hintFuse (a0) : Statement (.hintFuse a0) := .inr (.inl ⟨_, rfl⟩)
theorem hintPause (a0) : Statement (.hintPause a0) := .inr (.inl ⟨_, rfl⟩)
theorem hintPlace (a0 a1 a2) : Statement (.hintPlace a0 a1 a2) := .inr (.inl ⟨_, rfl⟩)
theorem setvl (a0) : Statement (.setvl a0) := .inr (.inr ⟨_, _, rfl⟩)
theorem vadd (a0) : Statement (.vadd a0) := .inr (.inr ⟨_, _, rfl⟩)
theorem vsub (a0) : Statement (.vsub a0) := .inr (.inr ⟨_, _, rfl⟩)
theorem vmul (a0) : Statement (.vmul a0) := .inr (.inr ⟨_, _, rfl⟩)
theorem vmulh (a0) : Statement (.vmulh a0) := .inr (.inr ⟨_, _, rfl⟩)
theorem vdiv (a0) : Statement (.vdiv a0) := .inr (.inr ⟨_, _, rfl⟩)
theorem vrem (a0) : Statement (.vrem a0) := .inr (.inr ⟨_, _, rfl⟩)
theorem vmin (a0) : Statement (.vmin a0) := .inr (.inr ⟨_, _, rfl⟩)
theorem vmax (a0) : Statement (.vmax a0) := .inr (.inr ⟨_, _, rfl⟩)
theorem vand (a0) : Statement (.vand a0) := .inr (.inr ⟨_, _, rfl⟩)
theorem vor (a0) : Statement (.vor a0) := .inr (.inr ⟨_, _, rfl⟩)
theorem vxor (a0) : Statement (.vxor a0) := .inr (.inr ⟨_, _, rfl⟩)
theorem vsll (a0) : Statement (.vsll a0) := .inr (.inr ⟨_, _, rfl⟩)
theorem vsrl (a0) : Statement (.vsrl a0) := .inr (.inr ⟨_, _, rfl⟩)
theorem vsra (a0) : Statement (.vsra a0) := .inr (.inr ⟨_, _, rfl⟩)
theorem vabs (a0) : Statement (.vabs a0) := .inr (.inr ⟨_, _, rfl⟩)
theorem vneg (a0) : Statement (.vneg a0) := .inr (.inr ⟨_, _, rfl⟩)
theorem vcmp (a0) : Statement (.vcmp a0) := .inr (.inr ⟨_, _, rfl⟩)
theorem vmerge (a0) : Statement (.vmerge a0) := .inr (.inr ⟨_, _, rfl⟩)
theorem vmv (a0) : Statement (.vmv a0) := .inr (.inr ⟨_, _, rfl⟩)
theorem vmvx (a0) : Statement (.vmvx a0) := .inr (.inr ⟨_, _, rfl⟩)
theorem vid (a0) : Statement (.vid a0) := .inr (.inr ⟨_, _, rfl⟩)
theorem vfadd (a0) : Statement (.vfadd a0) := .inr (.inr ⟨_, _, rfl⟩)
theorem vfsub (a0) : Statement (.vfsub a0) := .inr (.inr ⟨_, _, rfl⟩)
theorem vfmul (a0) : Statement (.vfmul a0) := .inr (.inr ⟨_, _, rfl⟩)
theorem vfdiv (a0) : Statement (.vfdiv a0) := .inr (.inr ⟨_, _, rfl⟩)
theorem vfsqrt (a0) : Statement (.vfsqrt a0) := .inr (.inr ⟨_, _, rfl⟩)
theorem vfma (a0) : Statement (.vfma a0) := .inr (.inr ⟨_, _, rfl⟩)
theorem vfms (a0) : Statement (.vfms a0) := .inr (.inr ⟨_, _, rfl⟩)
theorem vfnma (a0) : Statement (.vfnma a0) := .inr (.inr ⟨_, _, rfl⟩)
theorem vfmin (a0) : Statement (.vfmin a0) := .inr (.inr ⟨_, _, rfl⟩)
theorem vfmax (a0) : Statement (.vfmax a0) := .inr (.inr ⟨_, _, rfl⟩)
theorem vfabs (a0) : Statement (.vfabs a0) := .inr (.inr ⟨_, _, rfl⟩)
theorem vfneg (a0) : Statement (.vfneg a0) := .inr (.inr ⟨_, _, rfl⟩)
theorem vfcmp (a0) : Statement (.vfcmp a0) := .inr (.inr ⟨_, _, rfl⟩)
theorem vfcvt (a0) : Statement (.vfcvt a0) := .inr (.inr ⟨_, _, rfl⟩)
theorem vld (a0) : Statement (.vld a0) := .inr (.inr ⟨_, _, rfl⟩)
theorem vlds (a0) : Statement (.vlds a0) := .inr (.inr ⟨_, _, rfl⟩)
theorem vldx (a0) : Statement (.vldx a0) := .inr (.inr ⟨_, _, rfl⟩)
theorem vld_st (a0) : Statement (.vld_st a0) := .inr (.inr ⟨_, _, rfl⟩)
theorem vst (a0) : Statement (.vst a0) := .inr (.inr ⟨_, _, rfl⟩)
theorem vsts (a0) : Statement (.vsts a0) := .inr (.inr ⟨_, _, rfl⟩)
theorem vstx (a0) : Statement (.vstx a0) := .inr (.inr ⟨_, _, rfl⟩)
theorem kand (a0 a1 a2 a3) : Statement (.kand a0 a1 a2 a3) := .inr (.inr ⟨_, _, rfl⟩)
theorem kor (a0 a1 a2 a3) : Statement (.kor a0 a1 a2 a3) := .inr (.inr ⟨_, _, rfl⟩)
theorem kxor (a0 a1 a2 a3) : Statement (.kxor a0 a1 a2 a3) := .inr (.inr ⟨_, _, rfl⟩)
theorem knot (a0 a1 a2) : Statement (.knot a0 a1 a2) := .inr (.inr ⟨_, _, rfl⟩)
theorem kpopc (a0 a1 a2) : Statement (.kpopc a0 a1 a2) := .inr (.inr ⟨_, _, rfl⟩)
theorem kfirst (a0 a1 a2) : Statement (.kfirst a0 a1 a2) := .inr (.inr ⟨_, _, rfl⟩)
theorem kset (a0 a1 a2) : Statement (.kset a0 a1 a2) := .inr (.inr ⟨_, _, rfl⟩)
theorem vslideup (a0) : Statement (.vslideup a0) := .inr (.inr ⟨_, _, rfl⟩)
theorem vslidedn (a0) : Statement (.vslidedn a0) := .inr (.inr ⟨_, _, rfl⟩)
theorem vperm (a0) : Statement (.vperm a0) := .inr (.inr ⟨_, _, rfl⟩)
theorem vcompress (a0) : Statement (.vcompress a0) := .inr (.inr ⟨_, _, rfl⟩)
theorem vexpand (a0) : Statement (.vexpand a0) := .inr (.inr ⟨_, _, rfl⟩)
theorem vredsum (a0) : Statement (.vredsum a0) := .inr (.inr ⟨_, _, rfl⟩)
theorem vredosum (a0) : Statement (.vredosum a0) := .inr (.inr ⟨_, _, rfl⟩)
theorem vredmax (a0) : Statement (.vredmax a0) := .inr (.inr ⟨_, _, rfl⟩)
theorem vredq (a0) : Statement (.vredq a0) := .inr (.inr ⟨_, _, rfl⟩)
theorem vredmin (a0) : Statement (.vredmin a0) := .inr (.inr ⟨_, _, rfl⟩)
theorem vredand (a0) : Statement (.vredand a0) := .inr (.inr ⟨_, _, rfl⟩)
theorem vredor (a0) : Statement (.vredor a0) := .inr (.inr ⟨_, _, rfl⟩)
theorem vexp2 (a0) : Statement (.vexp2 a0) := .inr (.inr ⟨_, _, rfl⟩)
theorem vrcp (a0) : Statement (.vrcp a0) := .inr (.inr ⟨_, _, rfl⟩)
theorem vlog2 (a0) : Statement (.vlog2 a0) := .inr (.inr ⟨_, _, rfl⟩)
theorem vrsqrt (a0) : Statement (.vrsqrt a0) := .inr (.inr ⟨_, _, rfl⟩)
theorem vsinpi (a0) : Statement (.vsinpi a0) := .inr (.inr ⟨_, _, rfl⟩)
theorem vcospi (a0) : Statement (.vcospi a0) := .inr (.inr ⟨_, _, rfl⟩)
theorem msetvl (a0) : Statement (.msetvl a0) := .inr (.inr ⟨_, _, rfl⟩)
theorem mexit (a0) : Statement (.mexit a0) := .inr (.inr ⟨_, _, rfl⟩)
theorem mopa (a0) : Statement (.mopa a0) := .inr (.inr ⟨_, _, rfl⟩)
theorem mopa4 (a0) : Statement (.mopa4 a0) := .inr (.inr ⟨_, _, rfl⟩)
theorem mopas (a0) : Statement (.mopas a0) := .inr (.inr ⟨_, _, rfl⟩)
theorem mzero (a0 a1) : Statement (.mzero a0 a1) := .inr (.inr ⟨_, _, rfl⟩)
theorem mld (a0) : Statement (.mld a0) := .inr (.inr ⟨_, _, rfl⟩)
theorem mst (a0) : Statement (.mst a0) := .inr (.inr ⟨_, _, rfl⟩)
theorem mrow (a0) : Statement (.mrow a0) := .inr (.inr ⟨_, _, rfl⟩)
theorem mcol (a0) : Statement (.mcol a0) := .inr (.inr ⟨_, _, rfl⟩)
theorem cpy (a0) : Statement (.cpy a0) := .inr (.inr ⟨_, _, rfl⟩)
theorem cpyt (a0) : Statement (.cpyt a0) := .inr (.inr ⟨_, _, rfl⟩)
theorem cpyr (a0 a1 a2 a3) : Statement (.cpyr a0 a1 a2 a3) := .inr (.inr ⟨_, _, rfl⟩)
theorem cbinit (a0 a1 a2) : Statement (.cbinit a0 a1 a2) := .inr (.inr ⟨_, _, rfl⟩)
theorem cbwait (a0 a1 a2) : Statement (.cbwait a0 a1 a2) := .inr (.inr ⟨_, _, rfl⟩)
theorem sopen (a0 a1 a2) : Statement (.sopen a0 a1 a2) := .inr (.inr ⟨_, _, rfl⟩)
theorem sclose (a0 a1) : Statement (.sclose a0 a1) := .inr (.inr ⟨_, _, rfl⟩)
theorem mbxpop (a0 a1 a2) : Statement (.mbxpop a0 a1 a2) := .inr (.inr ⟨_, _, rfl⟩)
theorem waitmsg (a0) : Statement (.waitmsg a0) := .inr (.inr ⟨_, _, rfl⟩)
theorem msgsend (a0 a1 a2 a3) : Statement (.msgsend a0 a1 a2 a3) := .inr (.inr ⟨_, _, rfl⟩)
theorem rxopen (a0 a1 a2 a3) : Statement (.rxopen a0 a1 a2 a3) := .inr (.inr ⟨_, _, rfl⟩)
theorem rxpop (a0 a1 a2 a3) : Statement (.rxpop a0 a1 a2 a3) := .inr (.inr ⟨_, _, rfl⟩)
theorem coll (a0) : Statement (.coll a0) := .inr (.inr ⟨_, _, rfl⟩)
theorem collwait (a0 a1 a2) : Statement (.collwait a0 a1 a2) := .inr (.inr ⟨_, _, rfl⟩)
theorem vdef (a0 a1 a2) : Statement (.vdef a0 a1 a2) := .inr (.inr ⟨_, _, rfl⟩)
theorem vresize (a0 a1 a2 a3) : Statement (.vresize a0 a1 a2 a3) := .inr (.inr ⟨_, _, rfl⟩)
theorem tdset (a0 a1 a2 a3) : Statement (.tdset a0 a1 a2 a3) := .inr (.inr ⟨_, _, rfl⟩)
theorem tlbinv (a0 a1 a2 a3 a4) : Statement (.tlbinv a0 a1 a2 a3 a4) := .inr (.inr ⟨_, _, rfl⟩)
theorem illegalWord (a0 a1) : Statement (.illegalWord a0 a1) := by
  simp only [Statement, encode]
  split
  · exact .inr (.inr ⟨_, _, rfl⟩)
  · exact .inr (.inl ⟨_, rfl⟩)
theorem runLimit (a0) : Statement (.runLimit a0) := .inl rfl
theorem vqEntryIssue (a0) : Statement (.vqEntryIssue a0) := .inl rfl
theorem vectorMemoryResponse (a0 a1) : Statement (.vectorMemoryResponse a0 a1) := .inl rfl
theorem elementProgress (a0) : Statement (.elementProgress a0) := .inl rfl
theorem waitResume (a0) : Statement (.waitResume a0) := .inl rfl
theorem barArriveFire (a0 a1) : Statement (.barArriveFire a0 a1) := .inl rfl
theorem copyTransfer (a0 a1 a2) : Statement (.copyTransfer a0 a1 a2) := .inl rfl
theorem copyCompletion (a0 a1) : Statement (.copyCompletion a0 a1) := .inl rfl
theorem streamFetch (a0 a1 a2 a3) : Statement (.streamFetch a0 a1 a2 a3) := .inl rfl
theorem rxMessageArrival (a0 a1 a2 a3 a4 a5) : Statement (.rxMessageArrival a0 a1 a2 a3 a4 a5) := .inl rfl
theorem collOperationStart (a0 a1 a2) : Statement (.collOperationStart a0 a1 a2) := .inl rfl
theorem collPartialTransfer (a0 a1 a2 a3) : Statement (.collPartialTransfer a0 a1 a2 a3) := .inl rfl
theorem collOperationEnd (a0 a1 a2) : Statement (.collOperationEnd a0 a1 a2) := .inl rfl
theorem collPackageUnreachable (a0) : Statement (.collPackageUnreachable a0) := .inl rfl
theorem pcieAtomicopCompletion (a0 a1) : Statement (.pcieAtomicopCompletion a0 a1) := .inl rfl
theorem pcieCompletionTimeout (a0) : Statement (.pcieCompletionTimeout a0) := .inl rfl
theorem vaultWalkStep (a0 a1) : Statement (.vaultWalkStep a0 a1) := .inl rfl
theorem regionRequest (a0 a1 a2) : Statement (.regionRequest a0 a1 a2) := .inl rfl
theorem leaseExpiry (a0 a1) : Statement (.leaseExpiry a0 a1) := .inl rfl
theorem leaseRecallAck (a0 a1) : Statement (.leaseRecallAck a0 a1) := .inl rfl
theorem regionDecay (a0) : Statement (.regionDecay a0) := .inl rfl
theorem cxlCacheResponse (a0 a1 a2) : Statement (.cxlCacheResponse a0 a1 a2) := .inl rfl
theorem snpData (a0) : Statement (.snpData a0) := .inl rfl
theorem snpInv (a0) : Statement (.snpInv a0) := .inl rfl
theorem snpCur (a0) : Statement (.snpCur a0) := .inl rfl
theorem cxlMemRead (a0) : Statement (.cxlMemRead a0) := .inl rfl
theorem cxlMemWrite (a0 a1) : Statement (.cxlMemWrite a0 a1) := .inl rfl
theorem heartbeat (a0 a1) : Statement (.heartbeat a0 a1) := .inl rfl
theorem agentDeath (a0) : Statement (.agentDeath a0) := .inl rfl
theorem agentReadmit (a0) : Statement (.agentReadmit a0) := .inl rfl
theorem linkStop (a0 a1 a2) : Statement (.linkStop a0 a1 a2) := .inl rfl
theorem linkGo (a0 a1 a2) : Statement (.linkGo a0 a1 a2) := .inl rfl
theorem linkSectorReceive (a0 a1 a2 a3) : Statement (.linkSectorReceive a0 a1 a2 a3) := .inl rfl
theorem linkDictChecksum (a0 a1) : Statement (.linkDictChecksum a0 a1) := .inl rfl
theorem qctlWrite (a0 a1 a2 a3) : Statement (.qctlWrite a0 a1 a2 a3) := .inl rfl
theorem tailWrite (a0 a1 a2) : Statement (.tailWrite a0 a1 a2) := .inl rfl
theorem nop (a0 a1 a2) : Statement (.nop a0 a1 a2) := .inl rfl
theorem hqLaunch (a0 a1 a2) : Statement (.hqLaunch a0 a1 a2) := .inl rfl
theorem entryWrite (a0 a1 a2) : Statement (.entryWrite a0 a1 a2) := .inl rfl
theorem tdWrite (a0 a1 a2) : Statement (.tdWrite a0 a1 a2) := .inl rfl
theorem badCommand (a0 a1 a2) : Statement (.badCommand a0 a1 a2) := .inl rfl
theorem registerWrite (a0 a1) : Statement (.registerWrite a0 a1) := .inl rfl
theorem doorbell (a0 a1) : Statement (.doorbell a0 a1) := .inl rfl
theorem interrupt (a0) : Statement (.interrupt a0) := .inl rfl
theorem netLaunchPacket (a0 a1) : Statement (.netLaunchPacket a0 a1) := .inl rfl
theorem quantumEnd (a0) : Statement (.quantumEnd a0) := .inl rfl
theorem waitSlotTimeout (a0) : Statement (.waitSlotTimeout a0) := .inl rfl
theorem priorityAging (a0) : Statement (.priorityAging a0) := .inl rfl
theorem hartWake (a0) : Statement (.hartWake a0) := .inl rfl
theorem mixWindowEnd (a0) : Statement (.mixWindowEnd a0) := .inl rfl
theorem retrieverArrival (a0) : Statement (.retrieverArrival a0) := .inl rfl
theorem tlbinvAck (a0 a1) : Statement (.tlbinvAck a0 a1) := .inl rfl
theorem powerInterval (a0) : Statement (.powerInterval a0) := .inl rfl
theorem thermalClampOn (a0) : Statement (.thermalClampOn a0) := .inl rfl
theorem thermalClampOff (a0) : Statement (.thermalClampOff a0) := .inl rfl
theorem powerClampOn (a0) : Statement (.powerClampOn a0) := .inl rfl
theorem powerClampOff (a0) : Statement (.powerClampOff a0) := .inl rfl
theorem coreRetire (a0 a1) : Statement (.coreRetire a0 a1) := .inl rfl
theorem debug (a0 a1) : Statement (.debug a0 a1) := .inl rfl
theorem pldmSensorRead (a0) : Statement (.pldmSensorRead a0) := .inl rfl
theorem pldmFirmwareUpdate (a0 a1) : Statement (.pldmFirmwareUpdate a0 a1) := .inl rfl
theorem commitSvn (a0) : Statement (.commitSvn a0) := .inl rfl
theorem packageReset (a0 a1 a2) : Statement (.packageReset a0 a1 a2) := .inl rfl
theorem featreqWrite (a0) : Statement (.featreqWrite a0) := .inl rfl
theorem create (a0 a1) : Statement (.create a0 a1) := .inl rfl
theorem start (a0) : Statement (.start a0) := .inl rfl
theorem swapout (a0) : Statement (.swapout a0) := .inl rfl
theorem swapin (a0) : Statement (.swapin a0) := .inl rfl
theorem terminate (a0) : Statement (.terminate a0) := .inl rfl
theorem destroy (a0) : Statement (.destroy a0) := .inl rfl
theorem badOp (a0 a1) : Statement (.badOp a0 a1) := .inl rfl
theorem bankpool (a0) : Statement (.bankpool a0) := .inl rfl
theorem groupdef (a0) : Statement (.groupdef a0) := .inl rfl
theorem asidrange (a0) : Statement (.asidrange a0) := .inl rfl
theorem ctxarea (a0) : Statement (.ctxarea a0) := .inl rfl
theorem codefail (a0) : Statement (.codefail a0) := .inl rfl
theorem partreq (a0) : Statement (.partreq a0) := .inl rfl
theorem tdtable (a0) : Statement (.tdtable a0) := .inl rfl
theorem asidctx (a0) : Statement (.asidctx a0) := .inl rfl
theorem pcieReadCompletion (a0 a1) : Statement (.pcieReadCompletion a0 a1) := .inl rfl
theorem birsp (a0) : Statement (.birsp a0) := .inl rfl
theorem hintPauseEnd (a0) : Statement (.hintPauseEnd a0) := .inl rfl
theorem taskTerminated (a0 a1) : Statement (.taskTerminated a0 a1) := .inl rfl
theorem land : Statement (.land) := .inr (.inl ⟨_, rfl⟩)
theorem ecall : Statement (.ecall) := .inr (.inl ⟨_, rfl⟩)
theorem ebreak : Statement (.ebreak) := .inr (.inl ⟨_, rfl⟩)
theorem eret : Statement (.eret) := .inr (.inl ⟨_, rfl⟩)
theorem ifence : Statement (.ifence) := .inr (.inl ⟨_, rfl⟩)
theorem xfence : Statement (.xfence) := .inr (.inl ⟨_, rfl⟩)
theorem exit : Statement (.exit) := .inr (.inl ⟨_, rfl⟩)
theorem yield : Statement (.yield) := .inr (.inl ⟨_, rfl⟩)
theorem getMeasurements : Statement (.getMeasurements) := .inl rfl
theorem mainSideUnpowered : Statement (.mainSideUnpowered) := .inl rfl

end Sys2Proof.Laws.Length
end

