-- ==== Sys2Proof/Tests/Slice0.lean ====
section
/-! SUPPORT. The model's own tests: ill-formed terms that the checks refuse, words written out from the spec's encodings, and for every statement a
state and operands that meet its hypotheses. -/

namespace Sys2Proof.Tests
open Sys2Proof.Machine Sys2Proof.Claims

set_option Elab.async false

/-! ### Ill-formed terms (R75 to R88): for each check one term that it refuses -/

theorem test_wf_fcvt : wf (.fcvt 1 2 .f32 .f32 .dyn) = false ∧ wf (.fcvt 1 2 .f64 .f32 .rne) = false ∧ wf (.fcvt 1 2 .i16 .f32 .rne) = false := by decide
theorem test_wf_reservation_order : wf (.ldres_w 1 2 .release .hart) = false ∧ wf (.ldres_d 1 2 .acqRel .hart) = false ∧
    wf (.stcond_w 1 2 3 .acquire .hart) = false ∧ wf (.stcond_d 1 2 3 .acqRel .hart) = false := by decide
theorem test_wf_csr_number : wf (.csrrd 1 0x00A) = false ∧ wf (.csrwr 1 2 0x300) = false ∧ wf (.csrset 1 2 0x10E) = false ∧ wf (.csrclr 1 2 0x205) = false := by decide
theorem test_wf_fences : wf (.fence .relaxed .system) = false ∧ wf (.rfence .relaxed .hart 1) = false ∧ wf (.rfence .acquire .hart 0) = false := by decide
theorem test_wf_hints : wf (.nullHint 0x400002) = false ∧ wf (.hintFuse 0) = false ∧ wf (.hintPlace 6 false 0) = false ∧ wf (.hintPlace 0 true 1) = false := by decide
theorem test_wf_int_formats : wf (.vadd ⟨1, 2, .vec 3, 0, .f32, 0⟩) = false ∧ wf (.vabs ⟨1, 2, 0, .n8, 0⟩) = false ∧ wf (.vneg ⟨1, 2, 0, .f16, 0⟩) = false ∧
    wf (.vcmp ⟨1, 2, .vec 3, .un, 0, .i8, 0⟩) = false ∧ wf (.vid ⟨1, 0, .i16, 0⟩) = false := by decide
theorem test_wf_fp_formats : wf (.vfadd ⟨1, 2, .vec 3, 0, .e4m3, .dyn, false, 0⟩) = false ∧ wf (.vfma ⟨1, 2, 3, 4, 0, .i32, .dyn, false, 0⟩) = false ∧
    wf (.vfmin ⟨1, 2, .vec 3, 0, .i8, 0⟩) = false ∧ wf (.vfcmp ⟨1, 2, .vec 3, .eq, 0, .n64, 0⟩) = false ∧ wf (.vexp2 ⟨1, 2, 0, .f16, false, 0⟩) = false := by decide
theorem test_wf_vfcvt : wf (.vfcvt ⟨1, 2, 0, .f32, .f32, .dyn, false, false, 0⟩) = false ∧ wf (.vfcvt ⟨1, 2, 0, .e8m0, .i8, .dyn, false, false, 0⟩) = false ∧
    wf (.vfcvt ⟨1, 1, 0, .f64, .f32, .dyn, false, false, 0⟩) = false := by decide
theorem test_wf_permutes : wf (.vslideup ⟨1, 1, 2, 0, .i8, 0⟩) = false ∧ wf (.vperm ⟨1, 2, 1, 0, .i8, 0⟩) = false ∧ wf (.vcompress ⟨1, 1, 0, .i8, 0⟩) = false ∧
    wf (.vexpand ⟨1, 1, 0, .i8, 0⟩) = false := by decide
theorem test_wf_reductions : wf (.vredsum ⟨1, 2, 3, 0, .i8, .rne, false, 0⟩) = false ∧ wf (.vredmax ⟨1, 2, 3, 0, .f32, .rne, false, 0⟩) = false ∧
    wf (.vredand ⟨1, 2, 3, 0, .f32, .dyn, false, 0⟩) = false ∧ wf (.vredq ⟨1, 2, 3, .i16, false, 0⟩) = false := by decide
theorem test_wf_tensor : wf (.msetvl ⟨1, 2, .f16, 0⟩) = false ∧ wf (.mopa ⟨0, 1, 2, .i8, .dyn, 0⟩) = false ∧ wf (.mopa4 ⟨0, 1, 2, .f16, .dyn, 0⟩) = false ∧
    wf (.mopas ⟨0, 1, 2, 3, 4, .i8, .dyn, 0⟩) = false ∧ wf (.coll ⟨1, 2, 3, 4, 0, .f16, .die, .sum, 0⟩) = false ∧
    wf (.coll ⟨1, 2, 3, 4, 0, .f32, .cluster, .sum, 0⟩) = false := by decide

/-! ### Words written out field by field (Tables 2.1 to 2.3 and 3.1 to 3.12) -/

/-- R: major, rd, rs1, rs2, fn. -/
def r (maj : BitVec 6) (d a b : BitVec 5) (fn : BitVec 11) : Half × Half := (maj ++ d ++ a ++ b ++ fn, 0)
/-- I, S, B: major, two registers, 16 bits. -/
def i (maj : BitVec 6) (d a : BitVec 5) (imm : BitVec 16) : Half × Half := (maj ++ d ++ a ++ imm, 0)
/-- XV. -/
def xv (maj : BitVec 6) (fn : BitVec 16) (d a b c : BitVec 5) (k : BitVec 3) (fmt : BitVec 4) (ctl : BitVec 6) (sat : BitVec 1) (rm : BitVec 3) (flush : BitVec 1)
    (hint : BitVec 4) : Half × Half :=
  (maj ++ d ++ a ++ b ++ c ++ k ++ fmt.extractLsb' 0 3, fn ++ ctl ++ sat ++ rm ++ flush ++ fmt.extractLsb' 3 1 ++ hint)
/-- XM. -/
def xm (fn : BitVec 16) (d b ix : BitVec 5) (k : BitVec 3) (fmt : BitVec 4) (off : BitVec 11) (hint : BitVec 4) : Half × Half :=
  (0x3A#6 ++ d ++ b ++ ix ++ 0#5 ++ k ++ fmt.extractLsb' 0 3, fn ++ off ++ fmt.extractLsb' 3 1 ++ hint)
/-- XE. -/
def xe (maj : BitVec 6) (fn : BitVec 16) (d a b c : BitVec 5) (sel : BitVec 6) (ctl : BitVec 12) (hint : BitVec 4) : Half × Half :=
  (maj ++ d ++ a ++ b ++ c ++ sel, fn ++ ctl ++ hint)
/-- Each pair of words gives its instruction. -/
def reads (l : List ((Half × Half) × Instr)) : Bool := l.all fun p => decide (insnOf p.1.1 p.1.2 = some p.2)

theorem test_words_integer : reads
    [(r 0x01 3 4 5 0x000, .add 3 4 5), (r 0x01 3 4 5 0x001, .sub 3 4 5), (r 0x01 3 4 5 0x002, .and 3 4 5), (r 0x01 3 4 5 0x003, .or 3 4 5),
     (r 0x01 3 4 5 0x004, .xor 3 4 5), (r 0x01 3 4 5 0x005, .andn 3 4 5), (r 0x01 3 4 5 0x006, .sll 3 4 5), (r 0x01 3 4 5 0x007, .srl 3 4 5),
     (r 0x01 3 4 5 0x008, .sra 3 4 5), (r 0x01 3 4 5 0x009, .rol 3 4 5), (r 0x01 3 4 5 0x00A, .ror 3 4 5), (r 0x01 3 4 5 0x00B, .slt 3 4 5),
     (r 0x01 3 4 5 0x00C, .sltn 3 4 5), (r 0x01 3 4 5 0x00D, .min 3 4 5), (r 0x01 3 4 5 0x00E, .max 3 4 5), (r 0x01 3 4 5 0x00F, .minn 3 4 5),
     (r 0x01 3 4 5 0x010, .maxn 3 4 5), (r 0x01 3 4 5 0x011, .mul 3 4 5), (r 0x01 3 4 5 0x012, .mulh 3 4 5), (r 0x01 3 4 5 0x013, .mulhn 3 4 5),
     (r 0x01 3 4 5 0x014, .div 3 4 5), (r 0x01 3 4 5 0x015, .divn 3 4 5), (r 0x01 3 4 5 0x016, .rem 3 4 5), (r 0x01 3 4 5 0x017, .remn 3 4 5),
     (r 0x01 3 4 5 0x018, .sadd1 3 4 5), (r 0x01 3 4 5 0x019, .sadd2 3 4 5), (r 0x01 3 4 5 0x01A, .sadd3 3 4 5), (r 0x01 3 4 5 0x01B, .bext 3 4 5),
     (r 0x01 3 4 5 0x01C, .bins 3 4 5), (r 0x01 3 4 0 0x020, .clz 3 4), (r 0x01 3 4 0 0x021, .ctz 3 4), (r 0x01 3 4 0 0x022, .popc 3 4),
     (r 0x01 3 4 0 0x023, .sext_b 3 4), (r 0x01 3 4 0 0x024, .sext_h 3 4), (r 0x01 3 4 0 0x025, .sext_w 3 4), (r 0x01 3 4 0 0x026, .zext_b 3 4),
     (r 0x01 3 4 0 0x027, .zext_h 3 4), (r 0x01 3 4 0 0x028, .zext_w 3 4)] = true := by decide

theorem test_words_immediate : reads
    [(i 0x02 3 4 0x8001, .addi 3 4 0x8001), (i 0x03 3 4 0x8001, .andi 3 4 0x8001), (i 0x04 3 4 0x8001, .ori 3 4 0x8001), (i 0x05 3 4 0x8001, .xori 3 4 0x8001),
     (i 0x06 3 4 0x8001, .slti 3 4 0x8001), (i 0x07 3 4 63, .slli 3 4 63), (i 0x08 3 4 63, .srli 3 4 63), (i 0x09 3 4 63, .srai 3 4 63),
     ((0x0E#6 ++ 3#5 ++ 0x100001#21, 0), .lup 3 0x100001), ((0x0F#6 ++ 3#5 ++ 0x100001#21, 0), .pcadd 3 0x100001)] = true := by decide

theorem test_words_control : reads
    [(i 0x10 4 5 0x8001, .beq 4 5 0x8001), (i 0x11 4 5 0x8001, .bne 4 5 0x8001), (i 0x12 4 5 0x8001, .blt 4 5 0x8001), (i 0x13 4 5 0x8001, .bge 4 5 0x8001),
     (i 0x14 4 5 0x8001, .bltn 4 5 0x8001), (i 0x15 4 5 0x8001, .bgen 4 5 0x8001), ((0x16#6 ++ 0x2000001#26, 0), .j 0x2000001),
     ((0x17#6 ++ 0x2000001#26, 0), .call 0x2000001), (r 0x0D 0 4 0 0x000, .jx 4), (r 0x0D 3 4 0 0x001, .callx 3 4), (r 0x0D 0 1 0 0x002, .ret 1),
     (r 0x0D 0 0 0 0x003, .land)] = true := by decide

theorem test_words_scalar_memory : reads
    [(i 0x0A 3 4 0x8001, .ldbz 3 4 0x8001), (i 0x0B 3 4 0x8001, .ldhz 3 4 0x8001), (i 0x0C 3 4 0x8001, .ldwz 3 4 0x8001), (i 0x18 3 4 0x8001, .ldb 3 4 0x8001),
     (i 0x19 3 4 0x8001, .ldh 3 4 0x8001), (i 0x1A 3 4 0x8001, .ldw 3 4 0x8001), (i 0x1B 3 4 0x8001, .ldd 3 4 0x8001), (i 0x1C 5 4 0x8001, .stb 5 4 0x8001),
     (i 0x1D 5 4 0x8001, .sth 5 4 0x8001), (i 0x1E 5 4 0x8001, .stw 5 4 0x8001), (i 0x1F 5 4 0x8001, .std 5 4 0x8001)] = true := by decide

theorem test_words_atomics : reads
    [(r 0x20 3 4 5 (0#2 ++ 0#3 ++ 0x00#6), .amoadd_w 3 4 5 .relaxed .hart), (r 0x20 3 4 5 (1#2 ++ 1#3 ++ 0x01#6), .amoand_w 3 4 5 .acquire .core),
     (r 0x20 3 4 5 (2#2 ++ 2#3 ++ 0x02#6), .amoor_w 3 4 5 .release .cluster), (r 0x20 3 4 5 (3#2 ++ 3#3 ++ 0x03#6), .amoxor_w 3 4 5 .acqRel .die),
     (r 0x20 3 4 5 (0#2 ++ 4#3 ++ 0x04#6), .amomin_w 3 4 5 .relaxed .package), (r 0x20 3 4 5 (1#2 ++ 5#3 ++ 0x05#6), .amomax_w 3 4 5 .acquire .system),
     (r 0x20 3 4 5 (2#2 ++ 0#3 ++ 0x06#6), .amominn_w 3 4 5 .release .hart), (r 0x20 3 4 5 (3#2 ++ 1#3 ++ 0x07#6), .amomaxn_w 3 4 5 .acqRel .core),
     (r 0x20 3 4 5 (0#2 ++ 2#3 ++ 0x08#6), .amoswp_w 3 4 5 .relaxed .cluster), (r 0x21 3 4 5 (1#2 ++ 3#3 ++ 0x00#6), .amoadd_d 3 4 5 .acquire .die),
     (r 0x21 3 4 5 (2#2 ++ 4#3 ++ 0x01#6), .amoand_d 3 4 5 .release .package), (r 0x21 3 4 5 (3#2 ++ 5#3 ++ 0x02#6), .amoor_d 3 4 5 .acqRel .system),
     (r 0x21 3 4 5 (0#2 ++ 0#3 ++ 0x03#6), .amoxor_d 3 4 5 .relaxed .hart), (r 0x21 3 4 5 (1#2 ++ 1#3 ++ 0x04#6), .amomin_d 3 4 5 .acquire .core),
     (r 0x21 3 4 5 (2#2 ++ 2#3 ++ 0x05#6), .amomax_d 3 4 5 .release .cluster), (r 0x21 3 4 5 (3#2 ++ 3#3 ++ 0x06#6), .amominn_d 3 4 5 .acqRel .die),
     (r 0x21 3 4 5 (0#2 ++ 4#3 ++ 0x07#6), .amomaxn_d 3 4 5 .relaxed .package), (r 0x21 3 4 5 (1#2 ++ 5#3 ++ 0x08#6), .amoswp_d 3 4 5 .acquire .system),
     (r 0x22 3 4 5 (2#2 ++ 0#3 ++ 0x00#6), .amocas_w 3 4 5 .release .hart), (r 0x22 3 4 5 (3#2 ++ 1#3 ++ 0x01#6), .amocas_d 3 4 5 .acqRel .core),
     (r 0x23 3 4 0 (1#2 ++ 2#3 ++ 0x00#6), .ldres_w 3 4 .acquire .cluster), (r 0x23 3 4 0 (0#2 ++ 3#3 ++ 0x01#6), .ldres_d 3 4 .relaxed .die),
     (r 0x23 3 4 5 (2#2 ++ 4#3 ++ 0x02#6), .stcond_w 3 4 5 .release .package), (r 0x23 3 4 5 (0#2 ++ 5#3 ++ 0x03#6), .stcond_d 3 4 5 .relaxed .system)] = true := by decide

theorem test_words_scalar_fp : reads
    [(r 0x24 3 4 5 (1#3 ++ 0#1 ++ 0x00#7), .fadd 3 4 5 false .rne), (r 0x24 3 4 5 (2#3 ++ 1#1 ++ 0x01#7), .fsub 3 4 5 true .rtz),
     (r 0x24 3 4 5 (3#3 ++ 0#1 ++ 0x02#7), .fmul 3 4 5 false .rup), (r 0x24 3 4 5 (4#3 ++ 1#1 ++ 0x03#7), .fdiv 3 4 5 true .rdn),
     (r 0x24 3 4 0 (5#3 ++ 0#1 ++ 0x04#7), .fsqrt 3 4 false .rna), (r 0x24 3 4 5 (0#3 ++ 1#1 ++ 0x05#7), .fmin 3 4 5 true),
     (r 0x24 3 4 5 (0#3 ++ 0#1 ++ 0x06#7), .fmax 3 4 5 false), (r 0x24 3 4 5 (0#3 ++ 1#1 ++ 0x07#7), .fcmpeq 3 4 5 true),
     (r 0x24 3 4 5 (0#3 ++ 0#1 ++ 0x08#7), .fcmplt 3 4 5 false), (r 0x24 3 4 5 (0#3 ++ 1#1 ++ 0x09#7), .fcmple 3 4 5 true),
     (r 0x24 3 4 0 (0#3 ++ 0#1 ++ 0x0A#7), .fclass 3 4 false), (r 0x24 3 4 5 (0#3 ++ 1#1 ++ 0x0B#7), .fsgn 3 4 5 true),
     (r 0x24 3 4 0 (0#3 ++ 0#1 ++ 0x0C#7), .fneg 3 4 false), (r 0x24 3 4 0 (0#3 ++ 1#1 ++ 0x0D#7), .fabs 3 4 true),
     (r 0x25 3 4 0 (1#3 ++ 0x4#4 ++ 0xB#4), .fcvt 3 4 .i32 .f64 .rne), (r 0x26 3 4 5 (2#3 ++ 6#5 ++ 0#3), .fma 3 4 5 6 false .rtz),
     (r 0x26 3 4 5 (0#3 ++ 6#5 ++ 5#3), .fms 3 4 5 6 true .dyn), (r 0x26 3 4 5 (0#3 ++ 6#5 ++ 2#3), .fnma 3 4 5 6 false .dyn),
     (r 0x27 3 4 0 0x000, .fmvx 3 4), (r 0x27 3 4 0 0x001, .fmvf 3 4)] = true := by decide

theorem test_words_system : reads
    [((0x2C#6 ++ 3#5 ++ 0#5 ++ 0x011#12 ++ 0#4, 0), .csrrd 3 0x011), ((0x2C#6 ++ 3#5 ++ 4#5 ++ 0x101#12 ++ 1#4, 0), .csrwr 3 4 0x101),
     ((0x2C#6 ++ 3#5 ++ 4#5 ++ 0x020#12 ++ 2#4, 0), .csrset 3 4 0x020), ((0x2C#6 ++ 3#5 ++ 4#5 ++ 0x028#12 ++ 3#4, 0), .csrclr 3 4 0x028),
     (r 0x2D 0 0 0 0x000, .ecall), (r 0x2D 0 0 0 0x001, .ebreak), (r 0x2D 0 0 0 0x002, .eret), (r 0x2D 0 0 0 0x008, .ifence), (r 0x2D 0 4 5 0x010, .cinv 4 5),
     (r 0x2D 0 4 5 0x011, .cwb 4 5), (r 0x2D 0 4 5 0x012, .cflush 4 5), (r 0x2E 3 4 5 0x000, .vquery 3 4 5), (r 0x2E 3 4 0 0x001, .vdrop 3 4),
     (r 0x2E 3 4 5 0x002, .tdget 3 4 5)] = true := by decide

theorem test_words_sync_and_tasks : reads
    [(r 0x30 0 0 0 (3#2 ++ 5#3 ++ 0#6), .fence .acqRel .system), (r 0x30 0 0 0 0x001, .xfence), (r 0x32 0 4 5 (0#7 ++ 0#1 ++ 7#3), .rslot 7 4 5),
     ((0x31#6 ++ 0#10 ++ 1#2 ++ 2#3 ++ 0#3 ++ 0x81#8, 0), .rfence .acquire .cluster 0x81), (r 0x32 0 4 0 (0#7 ++ 1#1 ++ 7#3), .rslott 7 4),
     (r 0x33 0 4 5 (0#2 ++ 3#3 ++ 0#6), .barInit 4 5 .die), (r 0x33 0 4 0 (0#2 ++ 4#3 ++ 1#6), .barArrive 4 .package),
     (r 0x33 0 4 0 (0#2 ++ 1#3 ++ 2#6), .barWait 4 .core), (r 0x34 3 4 5 0x000, .launch 3 4 5), (r 0x34 3 4 0 0x001, .join 3 4), (r 0x34 0 0 0 0x002, .exit),
     (r 0x34 0 0 0 0x003, .yield), (r 0x35 3 4 0 0x000, .farm 3 4), (r 0x35 3 4 0 0x001, .fclaim 3 4), (r 0x35 0 4 5 0x002, .wmpub 4 5),
     (r 0x35 0 4 5 0x003, .wmwait 4 5)] = true := by decide

theorem test_words_hints : reads
    [((0x37#6 ++ 1#4 ++ 0#20 ++ 2#2, 0), .hintClass 2), ((0x37#6 ++ 2#4 ++ 1#1 ++ 4#5 ++ 0x8001#16, 0), .hintPref true 4 0x8001),
     ((0x37#6 ++ 3#4 ++ 1#1 ++ 0#5 ++ 0x8001#16, 0), .hintLive true 0x8001), ((0x37#6 ++ 4#4 ++ 0#19 ++ 7#3, 0), .hintFuse 7),
     ((0x37#6 ++ 5#4 ++ 0#6 ++ 0x8001#16, 0), .hintPause 0x8001), ((0x37#6 ++ 6#4 ++ 0#16 ++ 1#1 ++ 2#3 ++ 3#2, 0), .hintPlace 2 true 3),
     ((0x37#6 ++ 0#26, 0), .nullHint 0), ((0x37#6 ++ 6#4 ++ 0#16 ++ 0#1 ++ 6#3 ++ 0#2, 0), .nullHint (6#4 ++ 0#16 ++ 0#1 ++ 6#3 ++ 0#2))] = true := by decide

theorem test_words_vector_integer : reads
    [(xe 0x38 0x0000 3 4 0 0 0xA 0 1, .setvl ⟨3, 4, .f32, 1⟩), (xv 0x38 0x0010 3 4 5 0 6 0x0 0 0 0 0 0, .vadd ⟨3, 4, .vec 5, 6, .i8, 0⟩),
     (xv 0x38 0x0011 3 4 0 5 6 0x1 1 0 0 0 0, .vsub ⟨3, 4, .scal 5, 6, .n8, 0⟩), (xv 0x38 0x0012 3 4 5 0 6 0x2 0 0 0 0 15, .vmul ⟨3, 4, .vec 5, 6, .i16, 15⟩),
     (xv 0x38 0x0013 3 4 5 0 6 0x3 0 0 0 0 0, .vmulh ⟨3, 4, .vec 5, 6, .n16, 0⟩), (xv 0x38 0x0014 3 4 5 0 6 0x4 0 0 0 0 0, .vdiv ⟨3, 4, .vec 5, 6, .i32, 0⟩),
     (xv 0x38 0x0015 3 4 5 0 6 0x5 0 0 0 0 0, .vrem ⟨3, 4, .vec 5, 6, .n32, 0⟩), (xv 0x38 0x0016 3 4 5 0 6 0x6 0 0 0 0 0, .vmin ⟨3, 4, .vec 5, 6, .i64, 0⟩),
     (xv 0x38 0x0017 3 4 5 0 6 0x7 0 0 0 0 0, .vmax ⟨3, 4, .vec 5, 6, .n64, 0⟩), (xv 0x38 0x0018 3 4 5 0 6 0 0 0 0 0 0, .vand ⟨3, 4, .vec 5, 6, .i8, 0⟩),
     (xv 0x38 0x0019 3 4 5 0 6 0 0 0 0 0 0, .vor ⟨3, 4, .vec 5, 6, .i8, 0⟩), (xv 0x38 0x001A 3 4 5 0 6 0 0 0 0 0 0, .vxor ⟨3, 4, .vec 5, 6, .i8, 0⟩),
     (xv 0x38 0x001B 3 4 5 0 6 0 0 0 0 0 0, .vsll ⟨3, 4, .vec 5, 6, .i8, 0⟩), (xv 0x38 0x001C 3 4 5 0 6 0 0 0 0 0 0, .vsrl ⟨3, 4, .vec 5, 6, .i8, 0⟩),
     (xv 0x38 0x001D 3 4 5 0 6 0 0 0 0 0 0, .vsra ⟨3, 4, .vec 5, 6, .i8, 0⟩), (xv 0x38 0x001E 3 4 0 0 6 4 0 0 0 0 0, .vabs ⟨3, 4, 6, .i32, 0⟩),
     (xv 0x38 0x001F 3 4 0 0 6 2 0 0 0 0 0, .vneg ⟨3, 4, 6, .i16, 0⟩), (xv 0x38 0x0020 7 4 5 0 6 4 (0#2 ++ 5#3 ++ 0#1) 0 0 0 0, .vcmp ⟨7, 4, .vec 5, .ge, 6, .i32, 0⟩),
     (xv 0x38 0x0021 3 4 5 0 6 0xF 0 0 0 0 0, .vmerge ⟨3, 4, .vec 5, 6, .e8m0, 0⟩), (xv 0x38 0x0022 3 4 0 0 6 0xE 0 0 0 0 0, .vmv ⟨3, 4, 6, .e2m1, 0⟩),
     (xv 0x38 0x0023 3 4 0 5 6 0xD 0 0 0 0 0, .vmvx ⟨3, 4, 5, 6, .e5m2, 0⟩), (xv 0x38 0x0024 3 0 0 0 6 4 0 0 0 0 0, .vid ⟨3, 6, .i32, 0⟩)] = true := by decide

theorem test_words_vector_fp : reads
    [((0xE4611012, 0x00000090), .vfadd ⟨3, 1, .vec 2, 2, .f32, .rtz, false, 0⟩), ((0xE4C20004, 0x000D2A50), .vfcvt ⟨6, 2, 0, .e4m3, .f32, .rne, false, true, 0⟩),
     (xv 0x39 0x0001 3 4 0 5 6 0x8 1 0 3 1 0, .vfsub ⟨3, 4, .scal 5, 6, .f16, .rup, true, 0⟩), (xv 0x39 0x0002 3 4 5 0 6 0x9 0 0 4 0 0, .vfmul ⟨3, 4, .vec 5, 6, .bf16, .rdn, false, 0⟩),
     (xv 0x39 0x0003 3 4 5 0 6 0xB 0 0 5 0 0, .vfdiv ⟨3, 4, .vec 5, 6, .f64, .rna, false, 0⟩), (xv 0x39 0x0004 3 4 0 0 6 0xA 0 0 1 0 0, .vfsqrt ⟨3, 4, 6, .f32, .rne, false, 0⟩),
     (xv 0x39 0x0005 3 4 5 2 6 0xA 0 0 0 0 0, .vfma ⟨3, 4, 5, 2, 6, .f32, .dyn, false, 0⟩), (xv 0x39 0x0006 3 4 5 2 6 0xA 0 0 0 0 0, .vfms ⟨3, 4, 5, 2, 6, .f32, .dyn, false, 0⟩),
     (xv 0x39 0x0007 3 4 5 2 6 0xA 0 0 0 0 0, .vfnma ⟨3, 4, 5, 2, 6, .f32, .dyn, false, 0⟩), (xv 0x39 0x0008 3 4 5 0 6 0xA 0 0 0 0 0, .vfmin ⟨3, 4, .vec 5, 6, .f32, 0⟩),
     (xv 0x39 0x0009 3 4 5 0 6 0xA 0 0 0 0 0, .vfmax ⟨3, 4, .vec 5, 6, .f32, 0⟩), (xv 0x39 0x000A 3 4 0 0 6 0xA 0 0 0 0 0, .vfabs ⟨3, 4, 6, .f32, 0⟩),
     (xv 0x39 0x000B 3 4 0 0 6 0xA 0 0 0 0 0, .vfneg ⟨3, 4, 6, .f32, 0⟩),
     (xv 0x39 0x000C 7 4 5 0 6 0xA (0#2 ++ 6#3 ++ 0#1) 0 0 0 0, .vfcmp ⟨7, 4, .vec 5, .un, 6, .f32, 0⟩)] = true := by decide

theorem test_words_vector_memory : reads
    [(xm 0x0000 3 4 0 6 0xA 0x7FF 0, .vld ⟨3, 4, 6, .f32, 0x7FF, 0⟩), (xm 0x0001 3 4 5 6 0x0 0x400 0, .vlds ⟨3, 4, 5, 6, .i8, 0x400, 0⟩),
     (xm 0x0002 3 4 5 6 0xB 0x001 0, .vldx ⟨3, 4, 5, 6, .f64, 0x001, 0⟩), (xm 0x0003 3 0 7 6 0xA 0 0, .vld_st ⟨3, 7, 6, .f32, 0⟩),
     (xm 0x0008 3 4 0 6 0xA 0 2, .vst ⟨3, 4, 6, .f32, 0, 2⟩), (xm 0x0009 3 4 5 6 0xA 0 0, .vsts ⟨3, 4, 5, 6, .f32, 0, 0⟩),
     (xm 0x000A 3 4 5 6 0xA 0 0, .vstx ⟨3, 4, 5, 6, .f32, 0, 0⟩)] = true := by decide

theorem test_words_masks_permutes_reductions : reads
    [(xv 0x3B 0x0000 3 4 5 0 0 0 0 0 0 0 0, .kand 3 4 5 0), (xv 0x3B 0x0001 3 4 5 0 0 0 0 0 0 0 0, .kor 3 4 5 0), (xv 0x3B 0x0002 3 4 5 0 0 0 0 0 0 0 0, .kxor 3 4 5 0),
     (xv 0x3B 0x0003 3 4 0 0 0 0 0 0 0 0 0, .knot 3 4 0), (xv 0x3B 0x0004 9 4 0 0 0 0 0 0 0 0 0, .kpopc 9 4 0), (xv 0x3B 0x0005 9 4 0 0 0 0 0 0 0 0 0, .kfirst 9 4 0),
     (xv 0x3B 0x0006 3 0 0 9 0 0 0 0 0 0 0, .kset 3 9 0), (xv 0x3B 0x0010 3 4 0 9 6 0xA 0 0 0 0 0, .vslideup ⟨3, 4, 9, 6, .f32, 0⟩),
     (xv 0x3B 0x0011 3 4 0 9 6 0xA 0 0 0 0 0, .vslidedn ⟨3, 4, 9, 6, .f32, 0⟩), (xv 0x3B 0x0012 3 4 5 0 6 0xA 0 0 0 0 0, .vperm ⟨3, 4, 5, 6, .f32, 0⟩),
     (xv 0x3B 0x0013 3 4 0 0 6 0xA 0 0 0 0 0, .vcompress ⟨3, 4, 6, .f32, 0⟩), (xv 0x3B 0x0014 3 4 0 0 6 0xA 0 0 0 0 0, .vexpand ⟨3, 4, 6, .f32, 0⟩),
     (xv 0x3B 0x0020 3 4 5 0 6 0xA 0 0 1 1 0, .vredsum ⟨3, 4, 5, 6, .f32, .rne, true, 0⟩), (xv 0x3B 0x0021 3 4 5 0 6 0x4 0 0 0 0 0, .vredosum ⟨3, 4, 5, 6, .i32, .dyn, false, 0⟩),
     (xv 0x3B 0x0022 3 4 5 0 6 0xA 0 0 0 1 0, .vredmax ⟨3, 4, 5, 6, .f32, .dyn, true, 0⟩), (xv 0x3B 0x0023 3 0 5 9 0 0xA 0 0 0 1 0, .vredq ⟨3, 5, 9, .f32, true, 0⟩),
     (xv 0x3B 0x0024 3 4 5 0 6 0x0 0 0 0 0 0, .vredmin ⟨3, 4, 5, 6, .i8, .dyn, false, 0⟩), (xv 0x3B 0x0025 3 4 5 0 6 0x0 0 0 0 0 0, .vredand ⟨3, 4, 5, 6, .i8, .dyn, false, 0⟩),
     (xv 0x3B 0x0026 3 4 5 0 6 0x0 0 0 0 0 0, .vredor ⟨3, 4, 5, 6, .i8, .dyn, false, 0⟩), (xv 0x3B 0x0030 3 4 0 0 6 0xA 0 0 0 1 0, .vexp2 ⟨3, 4, 6, .f32, true, 0⟩),
     (xv 0x3B 0x0031 3 4 0 0 6 0xB 0 0 0 0 0, .vrcp ⟨3, 4, 6, .f64, false, 0⟩), (xv 0x3B 0x0032 3 4 0 0 6 0xA 0 0 0 0 0, .vlog2 ⟨3, 4, 6, .f32, false, 0⟩),
     (xv 0x3B 0x0033 3 4 0 0 6 0xA 0 0 0 0 0, .vrsqrt ⟨3, 4, 6, .f32, false, 0⟩), (xv 0x3B 0x0034 3 4 0 0 6 0xA 0 0 0 0 0, .vsinpi ⟨3, 4, 6, .f32, false, 0⟩),
     (xv 0x3B 0x0035 3 4 0 0 6 0xA 0 0 0 0 0, .vcospi ⟨3, 4, 6, .f32, false, 0⟩)] = true := by decide

theorem test_words_tensor : reads
    [(xe 0x3C 0x0000 3 4 0 0 0xB 0 0, .msetvl ⟨3, 4, .f64, 0⟩), (xe 0x3C 0x0001 0 0 0 0 0 0 5, .mexit 5), (xv 0x3C 0x0010 1 4 5 0 0 0x9 0 0 2 0 0, .mopa ⟨1, 4, 5, .bf16, .rtz, 0⟩),
     (xv 0x3C 0x0011 1 4 5 0 0 0xD 0 0 0 0 0, .mopa4 ⟨1, 4, 5, .e5m2, .dyn, 0⟩), (xv 0x3C 0x0012 1 4 5 6 0 0xE (7#5 ++ 0#1) 0 1 0 0, .mopas ⟨1, 4, 5, 6, 7, .e2m1, .rne, 0⟩),
     (xv 0x3C 0x0018 1 0 0 0 0 0 0 0 0 0 0, .mzero 1 0), (xv 0x3C 0x0019 1 0 5 4 0 0 0 0 0 0 0, .mld ⟨1, 4, 5, 0⟩), (xv 0x3C 0x001A 1 0 5 4 0 0 0 0 0 0 0, .mst ⟨1, 4, 5, 0⟩),
     (xv 0x3C 0x001B 3 1 0 9 0 0 1 0 0 0 0, .mrow ⟨3, 1, 9, true, 0⟩), (xv 0x3C 0x001C 3 1 0 9 0 0 0 0 0 0 0, .mcol ⟨3, 1, 9, false, 0⟩)] = true := by decide

theorem test_words_engine_and_privileged : reads
    [(xe 0x3D 0x0000 3 4 5 6 63 0 0, .cpy ⟨3, 4, 5, 6, .barrier 63, 0⟩), (xe 0x3D 0x0001 3 4 5 6 0 3 0, .cpyt ⟨3, 4, 5, 6, .mailbox, true, 0⟩),
     (xe 0x3D 0x0002 3 4 0 0 9 0 0, .cpyr 3 4 (.barrier 9) 0), (xe 0x3D 0x0003 0 4 0 0 9 0 0, .cbinit 4 9 0), (xe 0x3D 0x0004 3 0 0 0 9 0 0, .cbwait 3 9 0),
     (xe 0x3D 0x0008 0 4 0 0 7 0 0, .sopen 4 7 0), (xe 0x3D 0x0009 0 0 0 0 7 0 0, .sclose 7 0), (xe 0x3D 0x0010 3 4 0 0 0 0 0, .mbxpop 3 4 0),
     (xe 0x3D 0x0011 0 0 0 0 0 0 0, .waitmsg 0), (xe 0x3D 0x0012 3 4 5 0 0 0 0, .msgsend 3 4 5 0), (xe 0x3D 0x0018 3 4 0 0 15 0 0, .rxopen 3 4 15 0),
     (xe 0x3D 0x0019 3 4 0 0 15 0 0, .rxpop 3 4 15 0), (xe 0x3D 0x0020 3 4 5 6 63 (0xA#4 ++ 5#3 ++ 2#3 ++ 0#2) 0, .coll ⟨3, 4, 5, 6, 63, .f32, .system, .max, 0⟩),
     (xe 0x3D 0x0021 3 4 0 0 0 0 0, .collwait 3 4 0), (xe 0x3E 0x0000 3 4 0 0 0 0 0, .vdef 3 4 0), (xe 0x3E 0x0001 3 4 5 0 0 0 0, .vresize 3 4 5 0),
     (xe 0x3E 0x0002 3 4 5 0 0 0 0, .tdset 3 4 5 0), (xe 0x3E 0x0003 0 4 5 6 0 1 0, .tlbinv 4 5 6 true 0)] = true := by decide

/-- A reserved bit, a value beyond a file, and the words of Table 2.8 are no instruction. -/
theorem test_words_refused : ([(r 0x01 3 4 5 0x020, 0), (r 0x00 0 0 0 0, 1), (r 0x36 0 0 0 0, 2), (r 0x3F 0 0 0 0, 3), (r 0x2D 1 0 0 0, 4), (r 0x20 3 4 5 (0#2 ++ 6#3 ++ 0#6), 5),
    (xv 0x38 0x0020 8 4 5 0 6 4 0 0 0 0 0, 6), (xv 0x3C 0x0010 2 4 5 0 0 0x9 0 0 0 0 0, 7), (xe 0x3D 0x0008 0 4 0 0 8 0 0, 8), (r 0x26 3 4 5 3, 9),
    (xv 0x38 0x0010 3 4 5 0 6 0x8 0 0 0 0 0, 10), (i 0x07 3 4 64, 11)] : List ((Half × Half) × Nat)).all (fun p => decide (insnOf p.1.1 p.1.2 = none)) = true := by decide

/-- encode puts the same words out. -/
theorem test_encode_words : encode (.vfadd ⟨3, 1, .vec 2, 2, .f32, .rtz, false, 0⟩) = [0xE4611012, 0x00000090] ∧ encode (.amoadd_d 10 12 11 .acqRel .system) = [0x854C5F40] ∧
    encode (.hintClass 2) = [0xDC400002] := by decide

/-! ### Small states -/

/-- A hart of partition 0 on a core, its pc at 0x100. -/
def hart (core : Nat) (l : Level) : Hart :=
  { loadedHart 0x100 with level := l, sched := { Sched.start core 0 with status := .running, slot := some { core := core, slot := 0 }, newHart := false } }

/-- The part with one hart, whose slot is owned by it and holds all its registers, and a page at virtual address 0 in the HBM of die 0. -/
def world (h : Hart) : State :=
  let i : SlotId := { core := h.core, slot := 0 }
  { State.reset.withFetchWord 32 0 with
    harts := [h]
    cur := some h.key
    slots := [{ Slot.empty i with occupant := some h.key, hart := 1, valid := true, owner := 0, vValid := BitVec.allOnes 32, kValid := BitVec.allOnes 8, mValid := 3, lanes := 512, matrix := 128 }]
    tlb := [{ core := h.core, part := 0, asid := 0, global := false, vpage := 0, ppage := 0x4000000000, size := 4096, perm := 0x3F, vault := 255 }] }

/-- A Hound's hart at T, and a Mastiff's at S with a trap vector. -/
def tHart : Hart := hart 16 .t
def sHart : Hart := { hart 0 .s with csr := { Csrs.reset with evec := 0x200 } }
def wHart : Hart := hart 272 .t

/-- What the page's bytes are translated to. -/
def page (h : Hart) (va : Nat) (n : Need) : Option Xlat := match (world h).access h.ctx (BitVec.ofNat 64 va) n with | .ok x => some x | .error _ => none

/-- The checks of R23 pass, and nothing holds the instruction back. -/
def passes (s : State) (h : Hart) (i : Instr) : Bool :=
  s.featureOn i && decide (minLevel i ≤ h.level.code.toNat) && !writesReadOnly i && implements h.cls i && h.free i && !h.blocked

theorem ready_of {s : State} {h : Hart} {i : Instr} (c : s.curHart? = some h) (p : passes s h i = true) : Ready s h i := by
  simp only [passes, Bool.and_eq_true, decide_eq_true_eq, Bool.not_eq_true'] at p
  exact ⟨c, p.1.1.1.1.1, p.1.1.1.1.2, p.1.1.1.2, p.1.1.2, p.1.2, p.2⟩

theorem world_hart (h : Hart) : (world h).hart? h.key = some h := by simp [world, State.hart?]

theorem world_cur (h : Hart) : (world h).curHart? = some h := world_hart h

theorem world_ready {h : Hart} {i : Instr} (p : passes (world h) h i = true) : Ready (world h) h i := ready_of (world_hart h) p

theorem ok_of {ε α : Type} {x : Except ε α} {a : α} (h : x.toOption = some a) : x = .ok a := by
  cases x with
  | ok b => exact congrArg Except.ok (Option.some.inj h)
  | error e => cases h

/-- What a failing check answers. -/
def failure {ε α : Type} : Except ε α → Option ε
  | .ok _ => none
  | .error e => some e

theorem err_of {ε α : Type} {x : Except ε α} {e : ε} (h : failure x = some e) : x = .error e := by
  cases x with
  | ok b => cases h
  | error d => exact congrArg Except.error (Option.some.inj h)

/-- A hart has its turn in a state put together in whatever way. -/
theorem any_ready {s : State} {h : Hart} {i : Instr} (p : (decide (s.curHart? = some h) && passes s h i) = true) : Ready s h i := by
  rw [Bool.and_eq_true, decide_eq_true_eq] at p
  exact ready_of p.1 p.2

/-- A translation by that page. -/
def pg (h : Hart) (va : Nat) : Xlat :=
  { pa := 0x4000000000 + va, vault := 255,
    entry := { core := h.core, part := 0, asid := 0, global := false, vpage := 0, ppage := 0x4000000000, size := 4096, perm := 0x3F, vault := 255 } }

/-- Bytes of HBM are at hand where nothing is wrong with them. -/
theorem atHand_hbm {s : State} {h : Hart} {x : Xlat} {n d : Nat} {own : Bool} (hp : placeOf x.pa = .hbm d) (hd : s.deadAt x.pa = none)
    (hc : ∀ y, y ∈ sectorsOf x.pa n → s.corrupted y = false) (hl : s.readWaits x.pa (s.cacheDie (h.via x) x.pa) = false) : AtHand s h x n own := by
  have hb : s.silentAt x.pa = false := by
    cases k : s.silentAt x.pa with
    | false => rfl
    | true => simp [State.readWaits, k] at hl
  unfold AtHand; rw [hp]; exact ⟨hd, hb, hc, hl⟩

/-- What a read is ready by, where no line stands and no host is asked. -/
theorem read_ready {s : State} {v : Via} {pa n : Nat} {a : Option Bool} (hl : s.lines = [])
    (p : ((s.deadAt pa).isNone && !s.corrupted pa && !s.onPcie pa && !s.readWaits pa (s.cacheDie v pa) && (s.readNeeds v pa n a).isEmpty) = true) :
    ReadReady s v pa n a := by
  simp only [Bool.and_eq_true, Option.isNone_iff_eq_none, Bool.not_eq_true', List.isEmpty_iff] at p
  refine ⟨p.1.1.1.1, p.1.1.1.2, p.1.1.2, p.1.2, fun l _ m => ?_, fun y m => ?_⟩
  · rw [hl] at m; cases m
  · rw [p.2] at m; cases m

/-- An access of HBM that nothing disturbs. -/
theorem quiet_hbm {s : State} {pa m o : Nat} (hp : placeOf pa = .hbm m)
    (p : ((s.deadAt pa).isNone && !s.silentAt pa && !s.corrupted pa && (s.region (regionOf pa)).closing.isNone) = true)
    (r : (s.region (regionOf pa)).state = .p o) : Quiet s pa := by
  simp only [Bool.and_eq_true, Option.isNone_iff_eq_none, Bool.not_eq_true'] at p
  exact ⟨⟨m, hp⟩, p.1.1.1, p.1.1.2, p.1.2, p.2, fun l e => by rw [r] at e; cases e⟩

/-! ### Witnesses: a state and operands that meet the hypotheses of each statement -/

theorem witness_IntegerResults :
    (let h := { tHart with csr := { tHart.csr with stklim := 0x1000 } }
     intValue h (.addi 2 0 0x1000) = some (2, 0x1000) ∧ Ready (world h) h (.addi 2 0 0x1000) ∧ ¬ limited h 2 0x1000) ∧
    (let h := { tHart with csr := { tHart.csr with stklim := 0x1000 } }
     intValue h (.addi 2 0 0x0FFF) = some (2, 0x0FFF) ∧ Ready (world h) h (.addi 2 0 0x0FFF) ∧ limited h 2 0x0FFF)   :=
  ⟨⟨by decide +kernel, world_ready (by decide +kernel), by unfold limited; decide +kernel⟩, by decide +kernel, world_ready (by decide +kernel), by unfold limited; decide +kernel⟩

theorem witness_Branches :
    (∃ c, branchOf tHart (.beq 1 2 3) = some (c, 3) ∧ Ready (world tHart) tHart (.beq 1 2 3) ∧ c) ∧
    (∃ c, branchOf tHart (.bne 1 2 3) = some (c, 3) ∧ Ready (world tHart) tHart (.bne 1 2 3) ∧ ¬ c) ∧
    Ready (world tHart) tHart (.j 0x3FFFFFF) ∧ Ready (world tHart) tHart (.call 1) :=
  ⟨⟨_, rfl, world_ready (by decide +kernel), by decide⟩, ⟨_, rfl, world_ready (by decide +kernel), by decide⟩, world_ready (by decide +kernel), world_ready (by decide +kernel)⟩

theorem witness_Loads : ∃ ext, loadOf tHart (.ldd 5 0 0x108) = some (5, 0x108, 8, ext) ∧ Ready (world tHart) tHart (.ldd 5 0 0x108) ∧
    (0x108 : Word).toNat % 8 = 0 ∧ (world tHart).access tHart.ctx 0x108 .load = .ok (pg tHart 0x108) ∧ (world tHart).scalarLocked tHart 0x108 8 = false ∧
    tHart.pathHolds (pg tHart 0x108).pa 8 = false ∧ AtHand (world tHart) tHart (pg tHart 0x108) 8 false :=
  ⟨_, rfl, world_ready (by decide +kernel), by decide, rfl, by decide +kernel, rfl, atHand_hbm (d := 1) (by decide +kernel) (by decide +kernel) (by decide +kernel) (by decide +kernel)⟩

theorem witness_Stores : storeOf tHart (.std 5 0 0x108) = some (0x108, 8, 0) ∧ Claims.Inv (world tHart) ∧ Ready (world tHart) tHart (.std 5 0 0x108) ∧
    (0x108 : Word).toNat % 8 = 0 ∧ (world tHart).access tHart.ctx 0x108 .store = .ok (pg tHart 0x108) ∧ (world tHart).scalarLocked tHart 0x108 8 = false ∧
    (world tHart).storeWaits tHart 0x108 8 = false ∧ tHart.key.part ≠ 16 ∧ (world tHart).deadAt (pg tHart 0x108).pa = none ∧
    WriteAtOnce (world tHart) tHart (pg tHart 0x108) :=
  ⟨rfl, by unfold Claims.Inv; decide +kernel, world_ready (by decide +kernel), by decide, rfl, by decide +kernel, by decide +kernel, by decide, by decide +kernel,
    rfl, rfl, rfl, by decide +kernel, .inl trivial, fun c => absurd c (by decide +kernel)⟩

theorem witness_Atomics :
    let i : Instr := .amocas_d 5 0 6 .acqRel .system
    ∃ p f, atomOf tHart i = some (5, 0, 8, .acqRel, .system, p, f) ∧ Claims.Inv (world tHart) ∧ Ready (world tHart) tHart i ∧ (0 : Word).toNat % 8 = 0 ∧
      (world tHart).access tHart.ctx 0 .atomic = .ok (pg tHart 0) ∧ (world tHart).rmwWaits tHart 0 (pg tHart 0).pa 8 = false ∧ tHart.key.part ≠ 16 ∧
      (world tHart).hostWrites = [] ∧ Released (world tHart) tHart .acqRel .system ∧ AtHand (world tHart) tHart (pg tHart 0) 8 true :=
  ⟨_, _, rfl, by unfold Claims.Inv; decide +kernel, world_ready (by decide +kernel), by decide, rfl, by decide +kernel, by decide, rfl, fun _ => by decide +kernel,
    atHand_hbm (d := 1) (by decide +kernel) (by decide +kernel) (by decide +kernel) (by decide +kernel)⟩

theorem witness_AccessTraps :
    addrOf tHart (.ldd 5 0 0x101) = some (0x101, 8) ∧ Ready (world tHart) tHart (.ldd 5 0 0x101) ∧ tHart.level = .t ∧ (0x101 : Word).toNat % 8 ≠ 0 ∧
    addrOf tHart (.ldd 5 0 0x1000) = some (0x1000, 8) ∧ Ready (world tHart) tHart (.ldd 5 0 0x1000) ∧ (0x1000 : Word).toNat % 8 = 0 ∧
    ∃ e, (world tHart).access tHart.ctx 0x1000 (needOf tHart (.ldd 5 0 0x1000)) = .error e :=
  ⟨rfl, world_ready (by decide +kernel), rfl, by decide, rfl, world_ready (by decide +kernel), by decide, _, rfl⟩

/-- The same with the page in host memory, its port letting AtomicOps out. -/
def hostWorld (h : Hart) : State :=
  { world h with
    tlb := [{ core := h.core, part := 0, asid := 0, global := false, vpage := 0, ppage := 0x80000000000000, size := 4096, perm := 0x3F, vault := 255 }]
    ports := Vector.replicate 2 { cxl := false, atomicEnable := true } }
def hostPg (h : Hart) (va : Nat) : Xlat :=
  { pa := 0x80000000000000 + va, vault := 255,
    entry := { core := h.core, part := 0, asid := 0, global := false, vpage := 0, ppage := 0x80000000000000, size := 4096, perm := 0x3F, vault := 255 } }

/-- The same with the port letting no AtomicOp out. -/
def shutWorld (h : Hart) : State := { hostWorld h with ports := Vector.replicate 2 { cxl := false, atomicEnable := false } }

theorem host_ready {h : Hart} {i : Instr} (p : passes (hostWorld h) h i = true) : Ready (hostWorld h) h i :=
  ready_of (by simp [hostWorld, world, State.curHart?, State.hart?]) p

theorem witness_PcieAtomics :
    let i : Instr := .amoadd_d 5 0 6 .relaxed .system
    let j : Instr := .amoor_d 5 0 6 .relaxed .system
    let g := { tHart with req := .atomicDone 0x80000000000000 (.ok 9) }
    let z := { tHart with req := .timedOut 0x80000000000000 true }
    (∃ f, atomOf tHart i = some (5, 0, 8, .relaxed, .system, some (.fetchAdd, 0, 0), f) ∧ Ready (hostWorld tHart) tHart i ∧
      (hostWorld tHart).access tHart.ctx 0 .atomic = .ok (hostPg tHart 0) ∧ (hostWorld tHart).rmwWaits tHart 0 (hostPg tHart 0).pa 8 = false ∧
      Released (hostWorld tHart) tHart .relaxed .system ∧ placeOf (hostPg tHart 0).pa = .host 0 ∧ (hostWorld tHart).ports[(0 : Fin 2)].cxl = false ∧
      (hostWorld tHart).deadAt (hostPg tHart 0).pa = none ∧ (hostWorld tHart).ports[(0 : Fin 2)].atomicEnable = true ∧ tHart.req = .none ∧
      (hostWorld tHart).silentAt (hostPg tHart 0).pa = false) ∧
    (Ready (hostWorld g) g i ∧ (hostWorld g).access g.ctx 0 .atomic = .ok (hostPg g 0) ∧ g.req = .atomicDone (hostPg g 0).pa (.ok 9) ∧
      (hostWorld g).rmwWaits g 0 (hostPg g 0).pa 8 = false ∧ (hostWorld g).deadAt (hostPg g 0).pa = none) ∧
    (Ready (hostWorld z) z i ∧ (hostWorld z).access z.ctx 0 .atomic = .ok (hostPg z 0) ∧ z.req = .timedOut (hostPg z 0).pa true ∧ z.level = .t ∧
      (hostWorld z).rmwWaits z 0 (hostPg z 0).pa 8 = false ∧ (hostWorld z).deadAt (hostPg z 0).pa = none) ∧
    (∃ f, atomOf tHart j = some (5, 0, 8, .relaxed, .system, none, f) ∧ Ready (hostWorld tHart) tHart j) ∧
    (Ready (shutWorld tHart) tHart i ∧ (shutWorld tHart).access tHart.ctx 0 .atomic = .ok (hostPg tHart 0) ∧
      (shutWorld tHart).ports[(0 : Fin 2)].atomicEnable = false ∧ (shutWorld tHart).ports[(0 : Fin 2)].cxl = false) :=
  ⟨⟨_, rfl, host_ready (by decide +kernel), rfl, by decide +kernel, (fun h => by cases h), by decide +kernel, by decide +kernel,
    by decide +kernel, by decide +kernel, rfl, by decide +kernel⟩, ⟨host_ready (by decide +kernel), rfl, by decide +kernel⟩,
    ⟨host_ready (by decide +kernel), rfl, by decide +kernel, rfl, by decide +kernel⟩, ⟨_, rfl, host_ready (by decide +kernel)⟩,
    ready_of (world_hart tHart) (by decide +kernel), rfl, by decide +kernel, by decide +kernel⟩

theorem witness_Reservations :
    let i : Instr := .ldres_d 5 0 .acquire .system
    let j : Instr := .stcond_w 5 0 6 .release .system
    let g := { tHart with resv := some 0x4000000000, resvSeq := some 3 }
    (Ready (world tHart) tHart i ∧ (world tHart).access tHart.ctx 0 .load = .ok (pg tHart 0) ∧ (world tHart).scalarLocked tHart 0 8 = false ∧
      tHart.pathHolds (pg tHart 0).pa 8 = false ∧ AtHand (world tHart) tHart (pg tHart 0) 8 true) ∧
    (Ready (world g) g j ∧ Claims.Inv (world g) ∧ (world g).access g.ctx 0 .store = .ok (pg g 0) ∧ (world g).rmwWaits g 0 (pg g 0).pa 4 = false ∧
      Released (world g) g .release .system ∧ g.resv = some ((pg g 0).pa / 64 * 64) ∧ g.resvSeq ≠ none ∧ g.key.part ≠ 16 ∧ (world g).hostWrites = [] ∧
      AtHand (world g) g (pg g 0) 4 true) ∧
    (Ready (world tHart) tHart j ∧ (world tHart).access tHart.ctx 0 .store = .ok (pg tHart 0) ∧ (world tHart).onPcie (pg tHart 0).pa = false ∧
      (world tHart).rmwWaits tHart 0 (pg tHart 0).pa 4 = false ∧ Released (world tHart) tHart .release .system ∧
      ¬ (tHart.resv = some ((pg tHart 0).pa / 64 * 64) ∧ (tHart.resvLost = false ∨ tHart.resvSeq ≠ none))) ∧
    ((hostWorld tHart).onPcie (hostPg tHart 0).pa = true ∧ Ready (hostWorld tHart) tHart i ∧ (hostWorld tHart).access tHart.ctx 0 .load = .ok (hostPg tHart 0)) :=
  ⟨⟨world_ready (by decide +kernel), rfl, by decide +kernel, rfl, atHand_hbm (d := 1) (by decide +kernel) (by decide +kernel) (by decide +kernel) (by decide +kernel)⟩,
    ⟨world_ready (by decide +kernel), by unfold Claims.Inv; decide +kernel, rfl, by decide +kernel, fun _ => by decide +kernel, by decide +kernel, by decide, by decide, rfl,
      atHand_hbm (d := 1) (by decide +kernel) (by decide +kernel) (by decide +kernel) (by decide +kernel)⟩,
    ⟨world_ready (by decide +kernel), rfl, by decide +kernel, by decide +kernel, fun _ => by decide +kernel, by decide +kernel⟩,
    by decide +kernel, host_ready (by decide +kernel), rfl⟩

/-- What a fetch gives, if it gives a word. -/
def fetchedWord : Fetched → Option Half
  | .word _ w => some w
  | .trap _ _ => none
  | .wait _ => none

theorem word_of {f : Fetched} {w : Half} (h : fetchedWord f = some w) : ∃ u, f = .word u w := by
  cases f with
  | word u v => exact ⟨u, by rw [Option.some.inj h]⟩
  | trap _ _ => cases h
  | wait _ => cases h

theorem witness_IndirectJumps :
    let g := { (tHart.setX 5 0x101) with csr := { tHart.csr with cfien := true } }
    let c := { tHart with csr := { tHart.csr with cfien := true } }
    let q := { tHart with held := .queue [entryOf wHart (.kand 1 2 3 0) 0 0 0], heldCls := 1 }
    let landed := (world c).writeNat 0x4000000000 4 0x34000003
    (Ready (world tHart) tHart (.jx 0) ∧ tHart.csr.cfien = false ∧ Ready (world tHart) tHart (.callx 5 0) ∧ Ready (world tHart) tHart (.ret 1) ∧
      tHart.held = .none ∧ Ready (world tHart) tHart .land) ∧
    (Ready landed c (.jx 0) ∧ c.getX 0 &&& 3 = 0 ∧ c.level = .t ∧ ∃ u, landed.fetchGet c 0 = .word u 0x34000003) ∧
    (Ready (world q) q (.ret 1) ∧ q.cls.code = q.heldCls.toNat ∧ q.queue = []) ∧
    (Ready (world g) g (.jx 5) ∧ g.getX 5 &&& 3 ≠ 0) ∧
    (Ready (world c) c (.callx 1 0) ∧ c.getX 0 &&& 3 = 0 ∧ (∃ u, (world c).fetchGet c 0 = .word u 0) ∧ (0 : Half) ≠ 0x34000003) :=
  ⟨⟨world_ready (by decide +kernel), rfl, world_ready (by decide +kernel), world_ready (by decide +kernel), rfl, world_ready (by decide +kernel)⟩,
    ⟨ready_of (world_cur _) (by decide +kernel), by decide +kernel, rfl, word_of (by decide +kernel)⟩,
    ⟨world_ready (by decide +kernel), by decide +kernel, rfl⟩, ⟨world_ready (by decide +kernel), by decide +kernel⟩, world_ready (by decide +kernel), by decide +kernel,
    word_of (by decide +kernel), by decide⟩

theorem witness_FloatResults :
    Ready (world tHart) tHart (.fma 1 2 3 4 true .rne) ∧ (∃ b fl, fpValue tHart (.fma 1 2 3 4 true .rne) = some (1, .f64, b, fl)) ∧
    Ready (world tHart) tHart (.fclass 1 2 false) ∧ (∃ v fl, fxValue tHart (.fclass 1 2 false) = some (1, v, fl)) ∧ Ready (world tHart) tHart (.fmvf 1 2) :=
  ⟨world_ready (by decide +kernel), ⟨_, _, rfl⟩, world_ready (by decide +kernel), ⟨_, _, rfl⟩, world_ready (by decide +kernel)⟩

theorem witness_CsrInstructions :
    (Ready (world tHart) tHart (.csrrd 5 0x026) ∧ csrRead (world tHart) tHart 0x026 = some 0x100000 ∧ csrReadWaits 0x026 = false) ∧
    (∃ f c, Ready (world sHart) sHart (.csrset 5 6 0x101) ∧ csrOf sHart (.csrset 5 6 0x101) = some (5, 0x101, f, c) ∧ csrRead (world sHart) sHart 0x101 = some 0x200 ∧
      csrWriteWaits 0x101 = false) ∧
    (∃ f c, csrOf tHart (.csrwr 5 6 0x011) = some (5, 0x011, f, c) ∧ (world tHart).curHart? = some tHart ∧ (world tHart).featureOn (.csrwr 5 6 0x011) = true ∧
      minLevel (.csrwr 5 6 0x011) ≤ tHart.level.code.toNat ∧ csrReadOnly 0x011 = true) ∧
    (∃ n, csrRead (world tHart) tHart n = none) ∧ (world sHart).hart? sHart.key = some sHart :=
  ⟨⟨world_ready (by decide +kernel), by decide +kernel, by decide +kernel⟩, ⟨_, _, world_ready (by decide +kernel), rfl, by decide +kernel, by decide +kernel⟩,
    ⟨_, _, rfl, world_cur _, by decide +kernel, by decide +kernel, by decide +kernel⟩, ⟨0xFFF, by decide +kernel⟩, world_hart sHart⟩

/-- A hart at T with a trap vector, a context area and delegation of cause 0x0A. -/
def aHart : Hart :=
  { hart 16 .t with area := some 0x4000001000, csr := { Csrs.reset with evec := 0x200, uvec := 0x300, udeleg := 0x38C00 } }
/-- The same with an entry in its queue, and its image once a trap has saved it, as the handler at S finds it. -/
def qHart : Hart := { aHart with queue := [entryOf aHart (.kpopc 9 2 0) 0 0 0], xpend := 0x200 }
def saved : State := (world qHart).trapS qHart.key (.scalar 0x0E 0 0)
def savedHart : Hart := (saved.hart? qHart.key).getD qHart

theorem witness_TrapEntry :
    ((world aHart).hart? aHart.key = some aHart ∧ aHart.csr.evec ≠ 0 ∧ aHart.level = .t ∧ aHart.area ≠ none ∧ (Trap.scalar 0x0E 0 0).cause ≠ 0x0D ∧
      (Trap.scalar 0x0D 0 0).cause = 0x0D) ∧ ((world tHart).hart? tHart.key = some tHart ∧ tHart.csr.evec = 0) :=
  ⟨⟨world_hart aHart, by decide, rfl, by decide, by decide, rfl⟩, world_hart tHart, rfl⟩

theorem witness_DelegatedTrap : (world aHart).hart? aHart.key = some aHart ∧ aHart.level = .t ∧ aHart.csr.uvec ≠ 0 ∧
    (∀ c, c ∈ [0x0A#8, 0x0B#8, 0x0F#8, 0x10#8, 0x11#8] → aHart.csr.udeleg.getLsbD (Trap.scalar c 0 0).cause.toNat = true) ∧
    aHart.delegates 0x01 = false ∧ (world tHart).hart? tHart.key = some tHart ∧ tHart.delegates 0x0A = false :=
  ⟨world_hart aHart, rfl, by decide, by decide, by decide, world_hart tHart, by decide⟩

theorem witness_ChecksInOrder :
    let pinned := { tHart with csr := { Csrs.reset with pin := true } }
    let off := { world tHart with featReq := 0 }
    (off.curHart? = some tHart ∧ tHart.queue = [] ∧ off.featureOn (.fadd 1 2 3 false .dyn) = false) ∧
    ((world tHart).curHart? = some tHart ∧ (world tHart).featureOn (.csrrd 1 0x100) = true ∧ tHart.level.code.toNat < minLevel (.csrrd 1 0x100)) ∧
    ((world wHart).curHart? = some wHart ∧ (world wHart).featureOn (.csrwr 0 1 0x011) = true ∧ minLevel (.csrwr 0 1 0x011) ≤ wHart.level.code.toNat ∧
      writesReadOnly (.csrwr 0 1 0x011) = true) ∧
    ((world pinned).curHart? = some pinned ∧ (world pinned).featureOn (.mexit 0) = true ∧ minLevel (.mexit 0) ≤ pinned.level.code.toNat ∧
      writesReadOnly (.mexit 0) = false ∧ implements pinned.cls (.mexit 0) = false ∧ pinned.csr.pin = true) :=
  ⟨⟨rfl, rfl, by decide +kernel⟩, ⟨world_cur _, by decide +kernel, by decide +kernel⟩, ⟨world_cur _, by decide +kernel, by decide +kernel, by decide +kernel⟩,
    world_cur _, by decide +kernel, by decide +kernel, by decide +kernel, by decide +kernel, rfl⟩

theorem witness_CallsAndReturns :
    let g := { sHart with csr := { sHart.csr with pp := 1, epc := 0x105 } }
    let m := { sHart with csr := { sHart.csr with pp := 2 } }
    let u := { sHart with area := some 0x4000001000 }
    Ready (world tHart) tHart .ecall ∧ tHart.level = .t ∧ Ready (world sHart) sHart .ecall ∧ sHart.level ≠ .t ∧
    (sHart.getX 8).toNat < 0x100 ∧ Ready (world tHart) tHart .ebreak ∧
    (let g := sHart.setX 8 0x108; Ready (world g) g .ecall ∧ 0x107 < (g.getX 8).toNat) ∧
    (Ready (world tHart) tHart .eret ∧ tHart.level = .t) ∧
    (Ready (world m) m .eret ∧ m.csr.pp = 2 ∧ m.queue = []) ∧
    (Ready (world g) g .eret ∧ g.level ≠ .t ∧ g.csr.pp = 1 ∧ g.held = .none ∧ g.imgOuter = none) ∧
    (Ready (world u) u .eret ∧ u.csr.pp = 0 ∧ u.queue = [] ∧ (world u).imageCount 0x4000001000 = 0) :=
  ⟨world_ready (by decide +kernel), rfl, world_ready (by decide +kernel), by decide, by decide, world_ready (by decide +kernel), ⟨world_ready (by decide +kernel), by decide⟩,
    ⟨world_ready (by decide +kernel), rfl⟩, ⟨world_ready (by decide +kernel), rfl, rfl⟩, ⟨world_ready (by decide +kernel), by decide, rfl, rfl, rfl⟩, world_ready (by decide +kernel), rfl, rfl, by decide +kernel⟩

theorem witness_ImageReissue :
    let other : State := { saved with slots := saved.slots.map fun x => { x with hart := 7 } }
    saved.hart? savedHart.key = some savedHart ∧ savedHart.area = some 0x4000001000 ∧ savedHart.imgHeld = 0 ∧ 0 < saved.imageCount 0x4000001000 ∧
    saved.imageCount 0x4000001000 ≤ 32 ∧ saved.imageCls 0x4000001000 = savedHart.cls.code ∧ saved.owns savedHart = true ∧ Claims.Inv saved ∧
    other.hart? savedHart.key = some savedHart ∧ other.owns savedHart = false ∧ firstVector (other.imageEntries 0x4000001000) = some 0 ∧ savedHart.csr.evec ≠ 0 := by
  unfold Claims.Inv; decide +kernel

theorem witness_Fences :
    let g := { tHart with queue := [entryOf tHart (.vld ⟨1, 2, 0, .f32, 0, 0⟩) 0 0 0] }
    (Ready (world tHart) tHart (.fence .acquire .system) ∧ (world tHart).readsPending tHart = false) ∧
    (Ready (world tHart) tHart (.fence .acqRel .system) ∧ ordRelease (world tHart) tHart .system = none) ∧
    (Ready (world tHart) tHart .xfence ∧ Ready (world tHart) tHart .ifence ∧ (world tHart).streamsPending tHart = false) ∧
    (Ready (world tHart) tHart (.rfence .acquire .system 0x80) ∧ (world tHart).slotsPending tHart (tHart.fullSlots 0x80) true = false) ∧
    (Ready (world tHart) tHart (.rfence .release .system 0x80) ∧ (world tHart).slotsPending tHart (tHart.fullSlots 0x80) false = false ∧
      (release (world tHart) tHart .system fun a => a.slots &&& tHart.fullSlots 0x80 != 0) = none) ∧
    ((world g).hart? g.key = some g ∧ Ready (world g) g (.fence .acquire .hart) ∧ (world g).readsPending g = true ∧ Ready (world g) g .xfence ∧
      (world g).streamsPending g = true) :=
  ⟨⟨world_ready (by decide +kernel), by decide +kernel⟩, ⟨world_ready (by decide +kernel), by decide +kernel⟩,
    ⟨world_ready (by decide +kernel), world_ready (by decide +kernel), by decide +kernel⟩, ⟨world_ready (by decide +kernel), by decide +kernel⟩,
    ⟨world_ready (by decide +kernel), by decide +kernel⟩, world_hart _, world_ready (by decide +kernel), by decide +kernel, world_ready (by decide +kernel), by decide +kernel⟩

/-- The same part with partition 0 changed, and with bytes written at the page. -/
def partWorld (h : Hart) (f : Part → Part) : State := (world h).modPart 0 f
def memWorld (h : Hart) (n v : Nat) : State := (world h).writeNat 0x4000000000 n v

theorem part_ready {h : Hart} {i : Instr} {f : Part → Part} (p : passes (partWorld h f) h i = true) : Ready (partWorld h f) h i := ready_of (world_cur h) p
theorem mem_ready {h : Hart} {i : Instr} {n v : Nat} (p : passes (memWorld h n v) h i = true) : Ready (memWorld h n v) h i := ready_of (world_cur h) p

/-- A descriptor table at the page: handle 0 names a box of 16 elements of one byte at address 0, valid, of partition 0 and ASID 0. -/
def boxWorld (h : Hart) : State := (partWorld h fun p => { p with tds := [(0, 0x4000000000, 1)] }).writeNat 0x4000000000 64 (2 ^ 95 + 16 * 2 ^ 128)

theorem witness_RangeSlots :
    let g := tHart.setX 5 (2 ^ 48 : Nat)
    let b := tHart.setX 5 (2 ^ 48 + 1 : Nat)
    let c := tHart.setX 5 1
    let d : Desc := { base := 0, esz := 1, ext := [16], strides := [] }
    tHart.memoryDone = true ∧ (Ready (world tHart) tHart (.rslot 7 4 0) ∧ tHart.getX 0 = 0) ∧
    (Ready (world g) g (.rslot 7 0 5) ∧ g.getX 5 ≠ 0 ∧ (g.getX 5).toNat ≤ 2 ^ 48 ∧ (g.getX 0).toNat + (g.getX 5).toNat ≤ 2 ^ 64 ∧ canonical (g.getX 0) = true ∧
      canonical (g.getX 0 + BitVec.ofNat 64 ((g.getX 5).toNat - 1)) = true) ∧
    (Ready (world b) b (.rslot 7 0 5) ∧ 2 ^ 48 < (b.getX 5).toNat) ∧
    (Ready (boxWorld tHart) tHart (.rslott 7 0) ∧ (boxWorld tHart).handle tHart 0 = .ok d ∧ (0 : Int) ≤ (d.range 0).1 ∧ (d.range 0).1 + (d.range 0).2 ≤ (2 ^ 64 : Nat)) ∧
    (Ready (boxWorld c) c (.rslott 7 5) ∧ (boxWorld c).handle c (c.getX 5) = .error 1) :=
  ⟨by decide +kernel, ⟨world_ready (by decide +kernel), by decide +kernel⟩, ⟨world_ready (by decide +kernel), by decide +kernel⟩, ⟨world_ready (by decide +kernel), by decide +kernel⟩,
    ⟨ready_of (world_cur _) (by decide +kernel), ok_of (by decide +kernel), by decide +kernel, by decide +kernel⟩, ready_of (world_cur _) (by decide +kernel), err_of (by decide +kernel)⟩

theorem witness_RangeSlots_bound :
    let g := tHart.setX 5 (2 ^ 48 : Nat)
    let d : Desc := { base := 0, esz := 1, ext := [16], strides := [] }
    (∀ e, e ∈ tHart.queue → e.isInsn accessesMemory = false) ∧ (Ready (world tHart) tHart (.rslot 7 4 0) ∧ tHart.getX 0 = 0) ∧
    (Ready (world g) g (.rslot 7 0 5) ∧ g.getX 5 ≠ 0 ∧ (g.getX 5).toNat ≤ 2 ^ 48 ∧ (g.getX 0).toNat + (g.getX 5).toNat ≤ 2 ^ 64 ∧
      canonical (g.getX 0) = true ∧ canonical (g.getX 0 + g.getX 5 - 1) = true) ∧
    (Ready (boxWorld tHart) tHart (.rslott 7 0) ∧ (boxWorld tHart).handle tHart (tHart.getX 0) = .ok d ∧ (0 : Int) ≤ (d.range 0).1 ∧
      (d.range 0).1 + (d.range 0).2 ≤ (2 ^ 64 : Nat)) :=
  ⟨by decide, ⟨world_ready (by decide +kernel), by decide +kernel⟩, ⟨world_ready (by decide +kernel), by decide +kernel⟩,
    ready_of (world_cur _) (by decide +kernel), ok_of (by decide +kernel), by decide +kernel, by decide +kernel⟩

/-- A barrier block at the page: valid, COUNT 2, ARRIVED 1, PHASE 5. -/
def block : Nat := 1 + 2 * 2 ^ 32 + 1 * 2 ^ 64 + 5 * 2 ^ 96
def arrived (p : Half) : Hart := { tHart with eng := { Engine.start with arrivals := [(0, p)] } }
/-- A hart with one entry, whose arrival waits to fire. -/
def arriving : Hart := { tHart with queue := [{ entryOf tHart (.barArrive 4 .system) 0 0 0 with status := 4 }] }

theorem witness_Barriers :
    let s := memWorld tHart 16 block
    (Claims.Inv s ∧ s.hart? tHart.key = some tHart ∧ tHart.key.part ≠ 16 ∧ (tHart.getX 4).toNat % 64 = 0 ∧ s.access tHart.ctx (tHart.getX 4) .atomic = .ok (pg tHart 0) ∧
      Plain (pg tHart 0).pa ∧ s.deadAt (pg tHart 0).pa = none ∧ s.silentAt (pg tHart 0).pa = false ∧ s.corrupted (pg tHart 0).pa = false ∧ tHart.arriving 0 = false ∧ s.scalarLocked tHart 0 64 = false ∧
      tHart.pathHolds (pg tHart 0).pa 64 = false) ∧
    (Ready s tHart (.barInit 4 5 .system) ∧ s.rmwWaits tHart 0 (pg tHart 0).pa 64 = false ∧ s.writeWaits (pg tHart 0).pa .system = none ∧ s.hostWrites = []) ∧
    (Ready s tHart (.barWait 4 .system) ∧ tHart.eng.arrivals.lookup 0 = none) ∧
    (Ready (memWorld (arrived 4) 16 block) (arrived 4) (.barWait 4 .system) ∧ (arrived 4).eng.arrivals.lookup 0 = some 4 ∧
      4 ≠ (memWorld (arrived 4) 16 block).phase 0x4000000000) ∧
    (Ready (memWorld (arrived 5) 16 block) (arrived 5) (.barWait 4 .system) ∧
      (arrived 5).eng.arrivals.lookup 0 = some ((memWorld (arrived 5) 16 block).phase 0x4000000000)) ∧
    (Ready (memWorld arriving 16 block) arriving (.barWait 4 .system) ∧ arriving.arriving (arriving.getX 4) = true) ∧
    (Ready (hostWorld tHart) tHart (.barInit 4 5 .system) ∧ (hostWorld tHart).access tHart.ctx 0 .atomic = .ok (hostPg tHart 0) ∧ placeOf (hostPg tHart 0).pa = .host 0) :=
  ⟨⟨by unfold Claims.Inv; decide +kernel, world_hart _, by decide, by decide +kernel, rfl, trivial, by decide +kernel, by decide +kernel, by decide +kernel, by decide +kernel,
    by decide +kernel, rfl⟩, ⟨mem_ready (by decide +kernel), by decide +kernel, by decide +kernel, rfl⟩, ⟨mem_ready (by decide +kernel), by decide +kernel⟩,
    ⟨mem_ready (by decide +kernel), by decide +kernel⟩, ⟨mem_ready (by decide +kernel), by decide +kernel⟩, ⟨mem_ready (by decide +kernel), by decide +kernel⟩,
    host_ready (by decide +kernel), rfl, by decide +kernel⟩

theorem witness_BarrierArrivalFires :
    let s := memWorld arriving 16 block
    let g := { arriving with queue := entryOf tHart (.vld ⟨1, 2, 0, .f32, 0, 0⟩) 0 0 0 :: arriving.queue }
    (∃ e v, Claims.Inv s ∧ s.hart? arriving.key = some arriving ∧ arriving.key.part ≠ 16 ∧ arriving.queue[0]? = some e ∧
      arriving.sched.slot = some { core := 16, slot := 0 } ∧ e.check = some (.barArrive 4 .system) ∧ e.status = 4 ∧
      s.beforeMarker arriving 0 e = false ∧ s.unsettled arriving .system = false ∧ release s arriving .system (fun _ => true) = none ∧
      markerBlock s arriving e = .ok (v, 0x4000000000) ∧ Plain 0x4000000000 ∧ s.deadAt 0x4000000000 = none ∧ s.silentAt 0x4000000000 = false ∧ s.corrupted 0x4000000000 = false ∧
      s.hostWrites = [] ∧ s.readNat 0x4000000000 4 % 2 = 1) ∧
    (∃ e, g.queue[1]? = some e ∧ e.check = some (.barArrive 4 .system) ∧ e.status = 4 ∧ (world g).beforeMarker g 1 e = true) :=
  ⟨⟨_, _, by unfold Claims.Inv; decide +kernel, world_hart _, by decide, rfl, rfl, by decide +kernel, rfl, by decide +kernel, by decide +kernel, by decide +kernel,
    rfl, trivial, by decide +kernel, by decide +kernel, by decide +kernel, rfl, by decide +kernel⟩, _, rfl, by decide +kernel, rfl, by decide +kernel⟩

theorem witness_Hints :
    let p := { tHart with csr := { Csrs.reset with pin := true } }
    let z := { tHart with sched := { tHart.sched with pauseUntil := some 10 } }
    Ready (world tHart) tHart (.nullHint 0) ∧ Ready (world tHart) tHart (.hintFuse 7) ∧ Ready (world tHart) tHart (.hintClass 3) ∧
    Ready (world tHart) tHart (.hintLive true 1) ∧ Ready (world tHart) tHart (.hintLive false 1) ∧ (Ready (world p) p (.hintPlace 1 true 3) ∧ p.csr.pin = true) ∧
    (Ready (world tHart) tHart (.hintPlace 1 false 0) ∧ tHart.csr.pin = false) ∧ (Ready (world tHart) tHart (.hintPause 1) ∧ (1 : BitVec 16) ≠ 0) ∧
    (Ready (world tHart) tHart (.hintPref true 0 1) ∧ (∀ x, x ∈ (world tHart).prefSectors tHart true 0 1 →
      (world tHart).readWaits x.pa ((world tHart).cacheDie (tHart.via x) x.pa) = false ∧ (world tHart).lines = [] ∧
        ∀ y, y ∈ (world tHart).readNeeds (tHart.via x) x.pa 1 (some false) → ((world tHart).cxlState y).grants rdAny = true)) ∧
    ((world z).hart? z.key = some z ∧ z.sched.pauseUntil = some 10 ∧ (world z).time < 10 ∧ 10 ≤ ({ world z with time := 10 } : State).time) :=
  ⟨world_ready (by decide +kernel), world_ready (by decide +kernel), world_ready (by decide +kernel), world_ready (by decide +kernel), world_ready (by decide +kernel),
    ⟨world_ready (by decide +kernel), rfl⟩, ⟨world_ready (by decide +kernel), rfl⟩, ⟨world_ready (by decide +kernel), by decide⟩, ⟨world_ready (by decide +kernel), by decide +kernel⟩,
    world_hart _, rfl, by decide, Nat.le_refl _⟩

/-- A task of partition 0 that the hart's task 0 launched. -/
def task (live : Nat) (hd : Half) (src : Source) : Task :=
  { handle := hd, source := src, entry := 0, depth := 1, prio := 0, cls := 3, harts := 1, code := 0, asid := 0, arg := 0, rtc := false, live := live, pending := false,
    terminated := true, launcherCore := 0 }

theorem witness_Tasks :
    let j := tHart.setX 5 9
    let kids := fun live (p : Part) => { p with tasks := [task live 9 (.hart 0)] }
    (world tHart).hart? tHart.key = some tHart ∧
    (Ready (world tHart) tHart (.join 3 5) ∧ ((world tHart).part tHart.key.part).tasks.find? (fun t => zext64 t.handle == tHart.getX 5 && t.source == .hart tHart.task &&
      t.handle != tHart.task) = none) ∧
    (Ready (partWorld j (kids 0)) j (.join 3 5) ∧ ((partWorld j (kids 0)).part j.key.part).tasks.find? (fun t => zext64 t.handle == j.getX 5 && t.source == .hart j.task &&
      t.handle != j.task) = some (task 0 9 (.hart 0))) ∧
    (Ready (partWorld j (kids 1)) j (.join 3 5) ∧ ((partWorld j (kids 1)).part j.key.part).tasks.find? (fun t => zext64 t.handle == j.getX 5 && t.source == .hart j.task &&
      t.handle != j.task) = some (task 1 9 (.hart 0))) ∧
    (Ready (world tHart) tHart .exit ∧ tHart.queue = [] ∧ ordRelease (world tHart) tHart .package = none) ∧
    (let q := { tHart with queue := [entryOf tHart (.kand 1 2 3 0) 0 0 0] }; Ready (world q) q .exit ∧ q.queue ≠ []) ∧ Ready (world tHart) tHart .yield ∧
    (((partWorld tHart (kids 1)).part (partNo 0)).task? 9 = some (task 1 9 (.hart 0))) :=
  ⟨world_hart _, ⟨world_ready (by decide +kernel), by decide +kernel⟩,
    ⟨part_ready (by decide +kernel), by decide +kernel⟩, ⟨part_ready (by decide +kernel), by decide +kernel⟩, ⟨world_ready (by decide +kernel), rfl, by decide +kernel⟩,
    ⟨world_ready (by decide +kernel), by decide⟩, world_ready (by decide +kernel), by decide +kernel⟩

/-- A farm of 10 elements in strips of 4, of which `c` are claimed, with watermark `m`. -/
def aFarm (c m : Nat) (up : Word) : Farm := { slot := 1, gen := 2, task := 0, total := 10, strip := 4, upstream := up, claim := c, mark := m, done := [] }
def farmPart (f : Farm) (p : Part) : Part := { p with farms := [f] }
/-- A farm descriptor at the page: TOTAL 10, STRIP 4. -/
def farmBytes : Nat := 10 + 4 * 2 ^ 64

theorem witness_Farms :
    let h := (tHart.setX 4 0x20001).setX 5 10
    let s := fun f => partWorld h (farmPart f)
    let q := { h with eng := { Engine.start with strips := [(0x20001, 2)] } }
    (Ready (world h) h (.fclaim 3 4) ∧ ((world h).part h.key.part).farm? (h.getX 4) = none) ∧
    (Ready (s (aFarm 3 0 0)) h (.fclaim 3 4) ∧ ((s (aFarm 3 0 0)).part h.key.part).farm? (h.getX 4) = some (aFarm 3 0 0) ∧ (aFarm 3 0 0).total ≤ 3 * 4) ∧
    (Ready (s (aFarm 2 0 0)) h (.fclaim 3 4) ∧ ((s (aFarm 2 0 0)).part h.key.part).farm? (h.getX 4) = some (aFarm 2 0 0) ∧ 2 * 4 < (aFarm 2 0 0).total ∧
      (aFarm 2 0 0).claim < (aFarm 2 0 0).mark / 4 + 4096 ∧ ((s (aFarm 2 0 0)).part h.key.part).upstreamReady (aFarm 2 0 0) = true) ∧
    (Ready (s (aFarm 0 0 0x20001)) h (.fclaim 3 4) ∧ ((s (aFarm 0 0 0x20001)).part h.key.part).farm? (h.getX 4) = some (aFarm 0 0 0x20001) ∧
      ((s (aFarm 0 0 0x20001)).part h.key.part).upstreamReady (aFarm 0 0 0x20001) = false) ∧
    (Ready (s (aFarm 3 10 0)) h (.wmwait 4 5) ∧ ((s (aFarm 3 10 0)).part h.key.part).farm? (h.getX 4) = some (aFarm 3 10 0) ∧ min (h.getX 5).toNat 10 ≤ (aFarm 3 10 0).mark) ∧
    Ready (world h) h (.wmwait 4 5) ∧
    (Ready (partWorld q (farmPart (aFarm 3 8 0))) q (.wmpub 4 5) ∧ ((partWorld q (farmPart (aFarm 3 8 0))).part q.key.part).farm? (q.getX 4) = some (aFarm 3 8 0) ∧
      ordRelease (partWorld q (farmPart (aFarm 3 8 0))) q .package = none ∧ q.eng.strips.lookup (aFarm 3 8 0).handle = some 2) ∧
    (Ready (world tHart) tHart (.farm 3 0) ∧ (world tHart).access tHart.ctx (tHart.getX 0) .load = .ok (pg tHart 0) ∧ (world tHart).scalarLocked tHart 0 64 = false ∧
      tHart.pathHolds (pg tHart 0).pa 64 = false ∧ AtHand (world tHart) tHart (pg tHart 0) 64 false ∧
      bitsOf (leNat ((world tHart).view (tHart.via (pg tHart 0)) (pg tHart 0).pa 64)) 95 64 = 0) ∧
    (let s := memWorld tHart 64 farmBytes
     Ready s tHart (.farm 3 0) ∧ s.access tHart.ctx (tHart.getX 0) .load = .ok (pg tHart 0) ∧ s.scalarLocked tHart 0 64 = false ∧ tHart.pathHolds (pg tHart 0).pa 64 = false ∧
       AtHand s tHart (pg tHart 0) 64 false ∧ leNat (s.view (tHart.via (pg tHart 0)) (pg tHart 0).pa 64) = farmBytes ∧
       (s.part tHart.key.part).farms.length < 256) :=
  ⟨⟨world_ready (by decide +kernel), by decide +kernel⟩, ⟨part_ready (by decide +kernel), by decide +kernel⟩, ⟨part_ready (by decide +kernel), by decide +kernel⟩,
    ⟨part_ready (by decide +kernel), by decide +kernel⟩, ⟨part_ready (by decide +kernel), by decide +kernel⟩, world_ready (by decide +kernel),
    ⟨part_ready (by decide +kernel), by decide +kernel⟩,
    ⟨world_ready (by decide +kernel), rfl, by decide +kernel, rfl, atHand_hbm (d := 1) (by decide +kernel) (by decide +kernel) (by decide +kernel) (by decide +kernel), by decide +kernel⟩,
    mem_ready (by decide +kernel), rfl, by decide +kernel, rfl, atHand_hbm (d := 1) (by decide +kernel) (by decide +kernel) (by decide +kernel) (by decide +kernel), by decide +kernel⟩

/-- The queue holds one entry of an instruction whose operands are captured. -/
def queued (h : Hart) (i : Instr) (a : Word) : Hart := { h with queue := [{ entryOf h i a 0 0 with vl := 3, mvl := 2 }] }
def slot16 : SlotId := { core := 16, slot := 0 }

theorem turn_of {s : State} {k : HartKey} {h : Hart} {sl : SlotId} {pos : Nat} {e : Entry} {i : Instr} (c : s.hart? k = some h)
    (p : (h.inSlot && decide (h.sched.slot = some sl) && decide (h.turn = some pos) && decide (h.queue[pos]? = some e) && decide (e.check = some i) &&
      implements h.cls i && s.featureOn i) = true) : Turn s k h sl pos e i := by
  simp only [Bool.and_eq_true, decide_eq_true_eq] at p
  exact ⟨c, p.1.1.1.1.1.1, p.1.1.1.1.1.2, p.1.1.1.1.2, p.1.1.1.2, p.1.1.2, p.1.2, p.2⟩

/-- The entry of a queued instruction. -/
def entry (h : Hart) (i : Instr) (a : Word) : Entry := { entryOf h i a 0 0 with vl := 3, mvl := 2 }

theorem queued_turn {h : Hart} {sl : SlotId} {i : Instr} {a : Word} (p : ((queued h i a).inSlot && decide ((queued h i a).sched.slot = some sl) &&
    decide ((queued h i a).turn = some 0) && decide ((queued h i a).queue[0]? = some (entry h i a)) && decide ((entry h i a).check = some i) &&
    implements (queued h i a).cls i && (world (queued h i a)).featureOn i) = true) :
    Turn (world (queued h i a)) (queued h i a).key (queued h i a) sl 0 (entry h i a) i := turn_of (world_hart _) p

theorem witness_QueuedCommit :
    let i : Instr := .vadd ⟨1, 2, .scal 5, 3, .i32, 0⟩
    let j : Instr := .mopa ⟨0, 1, 2, .f16, .dyn, 0⟩
    let w := { wHart with csr := { Csrs.reset with mm := true, tfmt := 0xA } }
    captured tHart i = some (0, 0, 0) ∧ Ready (world tHart) tHart i ∧ TileReady tHart i ∧ (touchesVector i = true → (world tHart).owns tHart = true) ∧
    tHart.queue.length + tHart.heldCount < 32 ∧ ((queuedDest i).isSome = true → tHart.owed < 8) ∧
    (captured w j = some (0, 0, 0) ∧ Ready (world w) w j ∧ TileReady w j ∧ (touchesVector j = true → (world w).owns w = true)) :=
  ⟨by decide +kernel, world_ready (by decide +kernel), trivial, fun _ => by decide +kernel, by decide +kernel, fun _ => by decide +kernel, by decide +kernel,
    world_ready (by decide +kernel), ⟨by decide +kernel, by decide +kernel⟩, fun _ => by decide +kernel⟩

theorem witness_QueuedCommit_refused :
    let j : Instr := .mzero 0 0
    let i : Instr := .kpopc 9 1 0
    let n := { tHart with csr := { Csrs.reset with asid := 7 } }
    let q := { tHart with queue := List.replicate 32 (entryOf tHart (.kand 1 2 3 0) 0 0 0) }
    (captured wHart j = some (0, 0, 0) ∧ Ready (world wHart) wHart j ∧ ¬ TileReady wHart j) ∧
    (captured n i = some (0, 0, 0) ∧ Ready (world n) n i ∧ TileReady n i ∧ touchesVector i = true ∧ (world n).owns n = false) ∧
    (captured q i = some (0, 0, 0) ∧ Ready (world q) q i ∧ TileReady q i ∧ (world q).owns q = true ∧ 32 ≤ q.queue.length + q.heldCount) :=
  ⟨⟨by decide +kernel, world_ready (by decide +kernel), by unfold TileReady; decide⟩, ⟨by decide +kernel, world_ready (by decide +kernel), trivial, by decide +kernel, by decide +kernel⟩,
    by decide +kernel, world_ready (by decide +kernel), trivial, by decide +kernel, by decide +kernel⟩

theorem witness_LengthsAndModes :
    let w := { wHart with csr := { Csrs.reset with mm := true, tfmt := 0xA } }
    (tHart.sched.slot = some slot16 ∧ Ready (world tHart) tHart (.setvl ⟨3, 4, .f64, 0⟩)) ∧ Ready (world wHart) wHart (.msetvl ⟨3, 4, .f32, 0⟩) ∧
    (Ready (world wHart) wHart (.mexit 0) ∧ wHart.csr.mm = false) ∧ (Ready (world w) w (.mexit 0) ∧ w.csr.mm = true ∧ (world w).owns w = true ∧ w.queue = []) :=
  ⟨⟨rfl, world_ready (by decide +kernel)⟩, world_ready (by decide +kernel), ⟨world_ready (by decide +kernel), rfl⟩, world_ready (by decide +kernel), rfl, by decide +kernel, rfl⟩

theorem witness_LaneResults :
    let i : Instr := .vfma ⟨1, 2, 3, 4, 5, .f64, .rne, false, 0⟩
    let q := queued tHart i 0
    let o : VSpec := ⟨3, 4, 6, .f32, false, 0⟩
    (∃ v, Turn (world q) q.key q slot16 0 (entry tHart i 0) i ∧ laneOf q ((world q).slot slot16) (entry tHart i 0) i = some (1, [2, 3, 4], 5, .f64, true, v) ∧
      Present ((world q).slot slot16) [1, 2, 3, 4] [5]) ∧
    ((∃ g, specialOf (.vrcp o) = some (o, g)) ∧ o.fmt.isFp = true ∧ specialCase (.vrcp o) (.fin true 0 0) = some (.inf true, fDZ) ∧
      specialCase (.vlog2 o) (.inf true) = some (.nan, fNV) ∧ specialCase (.vcospi o) (.fin false 0 0) = some (.one, 0)) :=
  ⟨⟨_, queued_turn (by decide +kernel), rfl, by unfold Present; decide +kernel⟩, ⟨_, rfl⟩, rfl, rfl, rfl, rfl⟩

theorem witness_MaskResults :
    let i : Instr := .vcmp ⟨1, 2, .vec 3, .lt, 5, .i32, 0⟩
    let q := queued tHart i 0
    ∃ v fl, Turn (world q) q.key q slot16 0 (entry tHart i 0) i ∧ maskOf q ((world q).slot slot16) (entry tHart i 0) i = some (1, [2, 3], [5, 1], some false, v, fl) ∧
      Present ((world q).slot slot16) [2, 3] [5, 1] :=
  ⟨_, _, queued_turn (by decide +kernel), rfl, by unfold Present; decide +kernel⟩

theorem witness_MoveResults :
    let i : Instr := .vslidedn ⟨1, 2, 5, 3, .i64, 0⟩
    let q := queued tHart i 255
    ∃ w v, Turn (world q) q.key q slot16 0 (entry tHart i 255) i ∧ moveOf q ((world q).slot slot16) (entry tHart i 255) i = some (1, [2], 3, .i64, w, v) ∧
      Present ((world q).slot slot16) [1, 2] [3] :=
  ⟨_, _, queued_turn (by decide +kernel), rfl, by unfold Present; decide +kernel⟩

theorem witness_VectorAnswers :
    let i : Instr := .vmvx ⟨9, 2, 5, 3, .i8, 0⟩
    let q := queued tHart i 2
    ∃ v, Turn (world q) q.key q slot16 0 (entry tHart i 2) i ∧ answerOf ((world q).slot slot16) (entry tHart i 2) i = some (9, [2], [3], v) ∧
      Present ((world q).slot slot16) [2] [3] :=
  ⟨_, queued_turn (by decide +kernel), rfl, by unfold Present; decide +kernel⟩

/-- A hart with one given entry, and with receive queue 0 in a state. -/
def holding (h : Hart) (e : Entry) (q : Option RxQueue) : Hart :=
  { h with queue := [e], eng := { h.eng with rx := h.eng.rx.set 0 q } }
/-- A receive queue at byte 256 of the page. -/
def rxq (n head tail : Nat) : RxQueue := { base := 256, sizeLog := n, notify := false, head := head, tail := tail, off := 0 }
/-- A message of one element of 4 bytes, the number 9, at the queue's start. -/
def mailed (h : Hart) : State := { world h with mem := ((world h).writeNat 0x4000000100 32 (4 + 9 * 2 ^ 128)).mem }

theorem mailed_hart (h : Hart) : (mailed h).hart? h.key = some h := by simp [mailed, world, State.hart?]

/-- What the next element is: there (0), one to wait for (1), none (2), or behind a page that no longer translates (3). -/
def nextKind : Next → Nat
  | .at_ _ _ _ => 0
  | .waits _ _ _ => 1
  | .empty _ => 2
  | .denied _ _ => 3

theorem next_at {x : Next} (h : nextKind x = 0) : ∃ u y va, x = .at_ u y va := by
  cases x with
  | at_ u y va => exact ⟨u, y, va, rfl⟩
  | waits _ _ _ => cases h
  | empty _ => cases h
  | denied _ _ => cases h

theorem next_empty {x : Next} (h : nextKind x = 2) : ∃ u, x = .empty u := by
  cases x with
  | at_ _ _ _ => cases h
  | waits _ _ _ => cases h
  | empty u => exact ⟨u, rfl⟩
  | denied _ _ => cases h

/-- The next element is there and can be taken. -/
def takes (q : Fin 16) (size : Nat) (j : Job) (s : State) : Bool :=
  match nextElem q size 0 j 4096 s with
  | .at_ u _ _ => (takeElem q size 0 j u).isSome
  | .waits _ _ _ => false
  | .empty _ => false
  | .denied _ _ => false

theorem takes_elem {q : Fin 16} {size : Nat} {j : Job} {s : State} (h : takes q size j s = true) :
    ∃ u x va w b, nextElem q size 0 j 4096 s = .at_ u x va ∧ takeElem q size 0 j u = some (w, b) := by
  unfold takes at h
  split at h
  · next u x va e =>
    obtain ⟨⟨w, b⟩, t⟩ := Option.isSome_iff_exists.mp h
    exact ⟨u, x, va, w, b, e, t⟩
  · cases h
  · cases h
  · cases h

theorem witness_Reductions :
    let o : VRed := ⟨1, 2, 3, 4, .i32, .dyn, false, 0⟩
    let q := queued tHart (.vredsum o) 0
    let d := queued tHart (.vredosum o) 0
    let p : VRedQ := ⟨1, 3, 5, .i32, false, 0⟩
    let e := { entryOf tHart (.vredq p) 0 0 0 with vl := 1 }
    let w := { e with issued := true, paddrs := [(0, 255, 0x4000000110)] }
    let job := fun (r : RxQueue) (x : Entry) => ({ hart := holding tHart x (some r), slot := slot16, entry := x } : Job)
    let turn := fun (s : State) (x : Entry) (r : Option RxQueue) => Turn s tHart.key (holding tHart x r) slot16 0 x (.vredq p)
    (∃ v, Turn (world q) q.key q slot16 0 (entry tHart (.vredsum o) 0) (.vredsum o) ∧ redOf q ((world q).slot slot16) (entry tHart (.vredsum o) 0) (.vredsum o) = some (o, v) ∧
      Present ((world q).slot slot16) [1, 2, 3] [4] ∧ 0 < (entry tHart (.vredsum o) 0).vl.toNat) ∧
    (Turn (world d) d.key d slot16 0 (entry tHart (.vredosum o) 0) (.vredosum o) ∧ Present ((world d).slot slot16) [1, 2, 3] [4]) ∧
    (turn (world (holding tHart e none)) e none ∧ (holding tHart e none).eng.rx[(0 : Fin 16)] = none) ∧
    (turn (world (holding tHart { e with vl := 0 } (some (rxq 10 0 32)))) { e with vl := 0 } (some (rxq 10 0 32)) ∧ count { e with vl := 0 } false ≤ e.elem.toNat) ∧
    (turn (mailed (holding tHart e (some (rxq 10 0 32)))) e (some (rxq 10 0 32)) ∧ e.elem.toNat < count e false ∧ e.paddrs = [] ∧
      ∃ u x va, nextElem 0 4 0 (job (rxq 10 0 32) e) 4096 (mailed (holding tHart e (some (rxq 10 0 32)))) = .at_ u x va) ∧
    (turn (world (holding tHart e (some (rxq 10 0 0)))) e (some (rxq 10 0 0)) ∧
      ∃ u, nextElem 0 4 0 (job (rxq 10 0 0) e) 4096 (world (holding tHart e (some (rxq 10 0 0)))) = .empty u) ∧
    (let s := mailed (holding tHart w (some (rxq 10 0 32)))
     turn s w (some (rxq 10 0 32)) ∧ w.issued = true ∧ count w false = w.elem.toNat + 1 ∧ Present (s.slot slot16) [1, 3] [] ∧ s.deadAt 0x4000000110 = none ∧
       s.corrupted 0x4000000110 = false ∧
       ∃ u x va y b, nextElem 0 4 0 (job (rxq 10 0 32) w) 4096 s = .at_ u x va ∧ takeElem 0 4 0 (job (rxq 10 0 32) w) u = some (y, b)) :=
  ⟨⟨_, queued_turn (by decide +kernel), rfl, by unfold Present; decide +kernel, by decide⟩, ⟨queued_turn (by decide +kernel), by unfold Present; decide +kernel⟩,
    ⟨turn_of (world_hart _) (by decide +kernel), by decide +kernel⟩, ⟨turn_of (world_hart _) (by decide +kernel), by decide +kernel⟩,
    ⟨turn_of (mailed_hart _) (by decide +kernel), by decide +kernel, rfl, next_at (by decide +kernel)⟩, ⟨turn_of (world_hart _) (by decide +kernel), next_empty (by decide +kernel)⟩,
    turn_of (mailed_hart _) (by decide +kernel), rfl, by decide +kernel, by unfold Present; decide +kernel, by decide +kernel, by decide +kernel, takes_elem (by decide +kernel)⟩

/-- A Whippet's hart in matrix mode with F32 tiles, and its slot. -/
def mHart : Hart := { wHart with csr := { Csrs.reset with mm := true, tfmt := 0xA } }
def slot272 : SlotId := { core := 272, slot := 0 }

theorem witness_TileResults :
    let o : TOuter := ⟨1, 2, 3, .f16, .rne, 0⟩
    let z := queued mHart (.mzero 0 0) 0
    let ready := fun (i : Instr) (l : List Reg) =>
      Turn (world (queued mHart i 0)) (queued mHart i 0).key (queued mHart i 0) slot272 0 (entry mHart i 0) i ∧
      Present ((world (queued mHart i 0)).slot slot272) l [] ∧ ((world (queued mHart i 0)).slot slot272).mValid.getLsbD 1 = true ∧ (queued mHart i 0).csr.mm = true ∧
      (entry mHart i 0).mvl.toNat ≤ mvlMax (entry mHart i 0).tileFmt
    (∃ g, ready (.mopa o) [2, 3] ∧ outerOf (queued mHart (.mopa o) 0) ((world (queued mHart (.mopa o) 0)).slot slot272) (entry mHart (.mopa o) 0) (.mopa o) = some (1, [2, 3], g)) ∧
    Turn (world z) z.key z slot272 0 (entry mHart (.mzero 0 0) 0) (.mzero 0 0) ∧
    (ready (if true then .mcol ⟨3, 1, 9, true, 0⟩ else .mrow ⟨3, 1, 9, true, 0⟩) [3] ∧ ready (if false then .mcol ⟨3, 1, 9, false, 0⟩ else .mrow ⟨3, 1, 9, false, 0⟩) [3]) :=
  ⟨⟨_, ⟨queued_turn (by decide +kernel), by unfold Present; decide +kernel, by decide +kernel, by decide +kernel, by decide +kernel⟩, rfl⟩, queued_turn (by decide +kernel),
    ⟨queued_turn (by decide +kernel), by unfold Present; decide +kernel, by decide +kernel, by decide +kernel, by decide +kernel⟩,
    queued_turn (by decide +kernel), by unfold Present; decide +kernel, by decide +kernel, by decide +kernel, by decide +kernel⟩

/-- An entry of mld or mst of a square of one element: waiting to issue, and issued. -/
def tileEntry (i : Instr) : Entry := { entryOf mHart i 0 0 0 with mvl := 1 }
def tileOut (i : Instr) : Entry := { tileEntry i with issued := true, paddrs := [(0, 255, 0x4000000000)] }

theorem witness_TileMemory :
    let o : TMem := ⟨1, 4, 5, 0⟩
    let i := fun st : Bool => if st then Instr.mst o else .mld o
    let turn := fun (st : Bool) (e : Entry) => let h := holding mHart e none; Turn (world h) h.key h slot272 0 e (i st) ∧ h.csr.mm = true ∧ e.mvl.toNat ≤ mvlMax e.tileFmt
    let s := fun (e : Entry) => world (holding mHart e none)
    (∀ st : Bool, turn st (tileEntry (i st)) ∧ (tileEntry (i st)).issued = false ∧ ((s (tileEntry (i st))).slot slot272).mValid.getLsbD 1 = true ∧
      (tileEntry (i st)).elem.toNat < (tileEntry (i st)).mvl.toNat ∧ (tileAt (tileEntry (i st)) 0 0).toNat % tileBytes (tileEntry (i st)) = 0 ∧
      (s (tileEntry (i st))).access (holding mHart (tileEntry (i st)) none).ctx (tileAt (tileEntry (i st)) 0 0) (if st then .store else .load) = .ok (pg mHart 0) ∧
      (s (tileEntry (i st))).interlocked (holding mHart (tileEntry (i st)) none) (tileAt (tileEntry (i st)) 0 0) 4 = false ∧
      (s (tileEntry (i st))).behind (holding mHart (tileEntry (i st)) none) (tileAt (tileEntry (i st)) 0 0) 4 st = false ∧
      turn st { tileEntry (i st) with elem := 1 } ∧ turn st (tileOut (i st))) ∧
    (let e := tileOut (i false)
     let h := holding mHart e none
     h.key.part ≠ 16 ∧ (world h).stale = [] ∧ h.pathHolds 0x4000000000 4 = false ∧
       ReadReady (world h) (h.ctx.via 255) 0x4000000000 4 ((world h).vectorAlloc (h.ctx.via 255) 0 4)) ∧
    (let h := holding mHart (tileOut (i true)) none
     Claims.Inv (world h) ∧ Quiet (world h) 0x4000000000) := by
  refine ⟨fun st => ?_, ⟨by decide, by decide +kernel, by decide +kernel, read_ready (by decide +kernel) (by decide +kernel)⟩, by unfold Claims.Inv; decide +kernel,
    quiet_hbm (m := 1) (o := 1) (by decide +kernel) (by decide +kernel) (by decide +kernel)⟩
  cases st <;> exact ⟨⟨turn_of (world_hart _) (by decide +kernel), by decide +kernel⟩, rfl, by decide +kernel, by decide +kernel, by decide +kernel, ok_of (by decide +kernel),
    by decide +kernel, by decide +kernel, ⟨turn_of (world_hart _) (by decide +kernel), by decide +kernel⟩, turn_of (world_hart _) (by decide +kernel), by decide +kernel⟩

/-- An entry of one element of a vector load or store: waiting to issue, and issued with its byte still to come. -/
def memOp : VMem := ⟨1, 0, 0, .i8, 0, 0⟩
def memNew (i : Instr) : Entry := { entryOf tHart i 0 0 0 with vl := 1 }
def memOut (i : Instr) (limit : Word) : Entry := { memNew i with issued := true, paddrs := [(0, 255, 0x4000000000)], limit := limit }

/-- The one element of an entry is active. -/
theorem one_active {x : Slot} {i : Instr} : Active x (memNew i) 1 0 0 := ⟨Nat.zero_le _, Nat.one_pos, .inl rfl⟩

theorem witness_VectorLoads :
    let i := Instr.vld memOp
    let turn := fun (e : Entry) (i : Instr) => Turn (world (holding tHart e none)) tHart.key (holding tHart e none) slot16 0 e i
    let form := fun (e : Entry) (i : Instr) => (memForm ((world (holding tHart e none)).slot slot16) e i).isSome = true ∧ Present ((world (holding tHart e none)).slot slot16) [1, 2] [0]
    let e := memNew i
    let h := holding tHart e none
    let d := holding tHart (memOut i 1) none
    let s : State := { world d with time := 1000 }
    (∀ i, i ∈ [Instr.vld memOp, .vst memOp, .vlds ⟨1, 0, 0, 0, .i8, 0, 0⟩, .vsts ⟨1, 0, 0, 0, .i8, 0, 0⟩, .vldx ⟨1, 0, 2, 0, .i8, 0, 0⟩, .vstx ⟨1, 0, 2, 0, .i8, 0, 0⟩] →
      turn (memNew i) i ∧ form (memNew i) i) ∧
    (e.issued = false ∧ Active ((world h).slot slot16) e (count e false) 0 0 ∧ (world h).access h.ctx 0 .load = .ok (pg h 0) ∧ (world h).interlocked h 0 1 = false ∧
      (world h).behind h 0 1 false = false) ∧
    (turn { e with vl := 0 } i ∧ form { e with vl := 0 } i ∧ ∀ n, ¬ Active ((world h).slot slot16) { e with vl := 0 } (count { e with vl := 0 } false) 0 n) ∧
    (Turn s d.key d slot16 0 (memOut i 1) i ∧ (memOut i 1).issued = true ∧ d.key.part ≠ 16 ∧ s.stale = [] ∧ ((memOut i 1).paddrs.map (·.1)).Nodup ∧
      d.pathHolds 0x4000000000 1 = false ∧ ReadReady s (d.ctx.via 255) 0x4000000000 1 (s.vectorAlloc (d.ctx.via 255) 0 1) ∧
      (memOut i 1).limit ≠ 0 ∧ (memOut i 1).limit.toNat ≤ (s.time - (memOut i 1).since) * s.mhzOf d.core / 1000) ∧ (memOut i 0).limit = 0 :=
  ⟨fun i m => by
      simp only [List.mem_cons, List.not_mem_nil, or_false] at m
      rcases m with rfl | rfl | rfl | rfl | rfl | rfl <;> exact ⟨turn_of (world_hart _) (by decide +kernel), rfl, by unfold Present; decide +kernel⟩,
    ⟨rfl, one_active, ok_of (by decide +kernel), by decide +kernel, by decide +kernel⟩,
    ⟨turn_of (world_hart _) (by decide +kernel), ⟨rfl, by unfold Present; decide +kernel⟩, fun n a => absurd a.2.1 (Nat.not_lt_zero n)⟩,
    ⟨turn_of (world_hart _) (by decide +kernel), rfl, by decide, rfl, by decide, by decide +kernel, read_ready (by decide +kernel) (by decide +kernel), by decide, by decide +kernel⟩, rfl⟩

/-- A stream of four elements of 4 bytes from the page's start. -/
def stream : StreamState := { base := 0, length := 4, fmt := 4, s0 := 4, s1 := 0, s2 := 0, c0 := 4, c1 := 1, pos := 0, first := [], buf := [], withheld := [] }

theorem witness_VectorLoads_stream :
    let o : VPop := ⟨3, 7, 6, .i32, 0⟩
    let e := { entryOf tHart (.vld_st o) 0 0 0 with vl := 1 }
    let h := fun b : Option StreamState => let g := holding tHart e none; { g with eng := { g.eng with streams := g.eng.streams.set 7 b } }
    let turn := fun b => Turn (world (h b)) (h b).key (h b) slot16 0 e (.vld_st o)
    let full := { stream with buf := [(0, 0x4000000000, [1, 2, 3, 4])] }
    (turn none ∧ (h none).eng.streams[(7 : Stream)] = none) ∧ (turn (some { stream with fmt := 0 }) ∧ ({ stream with fmt := 0 } : StreamState).fmt ≠ o.fmt.code) ∧
    (turn (some full) ∧ full.fmt = o.fmt.code ∧ e.restored = false ∧ Present ((world (h (some full))).slot slot16) [3] [6] ∧ e.elem.toNat < count e false ∧
      passStop (h (some full)) e false = 1 ∧ (full.buf.lookup 0).isSome = true) ∧
    (turn (some stream) ∧ ¬ stream.length ≤ 0 ∧ stream.buf.lookup 0 = none ∧
      (let y : Slot := { (world (h (some stream))).slot slot16 with k := Vector.replicate 8 (Vector.replicate 512 true) }
       Active y e (passStop (h (some stream)) e false) 6 0)) :=
  ⟨⟨turn_of (world_hart _) (by decide +kernel), rfl⟩, ⟨turn_of (world_hart _) (by decide +kernel), by decide⟩,
    ⟨turn_of (world_hart _) (by decide +kernel), rfl, rfl, by unfold Present; decide +kernel, by decide, by decide +kernel, rfl⟩,
    turn_of (world_hart _) (by decide +kernel), by decide, rfl, by unfold Active; decide +kernel⟩

theorem witness_VectorStores :
    let e := memOut (.vst memOp) 1
    let h := holding tHart e none
    let p := { memOp with fmt := .e2m1 }
    let d := memOut (.vst p) 1
    let g := holding tHart d none
    (∃ m, Turn (world h) h.key h slot16 0 e (.vst memOp) ∧ memForm ((world h).slot slot16) e (.vst memOp) = some m ∧ m.store = true ∧ m.pack = false ∧ e.issued = true ∧
      e.paddrs = (0, 255, 0x4000000000) :: [] ∧ h.key.part ≠ 16 ∧ Claims.Inv (world h) ∧ Quiet (world h) 0x4000000000 ∧ 0x4000000000 % memSize m.fmt = 0) ∧
    (∃ m, Turn (world g) g.key g slot16 0 d (.vst p) ∧ memForm ((world g).slot slot16) d (.vst p) = some m ∧ m.store = true ∧ m.pack = true ∧ Quiet (world g) 0x4000000000) :=
  ⟨⟨_, turn_of (world_hart _) (by decide +kernel), rfl, rfl, rfl, rfl, rfl, by decide, by unfold Claims.Inv; decide +kernel,
      quiet_hbm (m := 1) (o := 1) (by decide +kernel) (by decide +kernel) (by decide +kernel), by decide⟩,
    _, turn_of (world_hart _) (by decide +kernel), rfl, rfl, rfl, quiet_hbm (m := 1) (o := 1) (by decide +kernel) (by decide +kernel) (by decide +kernel)⟩

theorem witness_VectorTraps :
    let o := { memOp with fmt := .i32 }
    let odd := { memNew (.vld o) with opa := 1 }
    let far := { memNew (.vst o) with opa := 0x1000 }
    let h := holding { tHart with area := some 0x4000000000 } far none
    let out := memOut (.vld memOp) 1
    let bad := { memNew (.vld memOp) with insn := 0 }
    let turn := fun (e : Entry) (i : Instr) => Turn (world (holding tHart e none)) tHart.key (holding tHart e none) slot16 0 e i
    let s := world (holding tHart odd none)
    (turn odd (.vld o) ∧ (∃ m, memForm (s.slot slot16) odd (.vld o) = some m ∧ m.k = 0 ∧ (m.addr 0).toNat % memSize m.fmt ≠ 0 ∧
      Active (s.slot slot16) odd (count odd false) 0 0)) ∧
    (Turn (world h) h.key h slot16 0 far (.vst o) ∧ Claims.Inv (world h) ∧ (∃ m, memForm ((world h).slot slot16) far (.vst o) = some m ∧ m.addr 0 = 0x1000 ∧
      (m.addr 0).toNat % memSize m.fmt = 0) ∧ (∃ d, (world h).access h.ctx 0x1000 .store = .error d) ∧ Active ((world h).slot slot16) far (count far false) 0 0) ∧
    (turn out (.vld memOp) ∧ out.issued = true ∧ out.paddrs = (0, 255, 0x4000000000) :: [] ∧ (world (holding tHart out none)).deadAt 0x4000000000 = none ∧
      (world (holding tHart out none)).corrupted 0x4000000000 = false) ∧
    (let g := holding tHart bad none; (world g).hart? g.key = some g ∧ g.inSlot = true ∧ g.turn = some 0 ∧ g.queue[0]? = some bad ∧ bad.check = none) ∧
    (let g := { aHart with queue := [memNew (.vld memOp)] }
     (world g).hart? g.key = some g ∧ g.queue[0]? = some (memNew (.vld memOp)) ∧ g.sent = false ∧ g.delegates 0x04 = false ∧ g.csr.evec ≠ 0 ∧ g.delegates 0x0F = true ∧
       g.queue.length + ((world g).heldEntries g).length ≤ 32) :=
  ⟨⟨turn_of (world_hart _) (by decide +kernel), _, rfl, rfl, by decide +kernel, by unfold Active; decide +kernel⟩,
    ⟨turn_of (world_hart _) (by decide +kernel), by unfold Claims.Inv; decide +kernel, ⟨_, rfl, by decide +kernel, by decide +kernel⟩, ⟨_, rfl⟩, by unfold Active; decide +kernel⟩,
    ⟨turn_of (world_hart _) (by decide +kernel), rfl, rfl, by decide +kernel, by decide +kernel⟩, ⟨world_hart _, by decide +kernel⟩, world_hart _, by decide +kernel⟩

theorem witness_BoundaryTraps :
    let r := { aHart with rtc := true, retired := 16384 }
    let j := { aHart with irqs := [2, 3] }
    ((world tHart).curHart? = some tHart ∧ tHart.level = .t) ∧
    ((world r).hart? r.key = some r ∧ r.csr.evec ≠ 0 ∧ r.limitDue = true ∧ ((world r).part r.key.part).state = .running) ∧
    ((world j).hart? j.key = some j ∧ j.csr.evec ≠ 0 ∧ j.irqs = [2, 3] ∧ j.interruptible = true) ∧
    ((world sHart).hart? sHart.key = some sHart ∧ sHart.level = .s ∧ sHart.csr.ie = false) :=
  ⟨⟨world_cur _, rfl⟩, ⟨world_hart _, by decide, by decide +kernel, by decide +kernel⟩, ⟨world_hart _, by decide, rfl, by decide +kernel⟩, world_hart _, rfl, rfl⟩

theorem witness_WaitsEnd :
    let w := { tHart with sched := { tHart.sched with status := .waiting }, waitFor := some (.wmwait 4 5) }
    ((world tHart).hart? tHart.key = some tHart ∧ tHart.sched.status ≠ .waiting) ∧
    ((world w).hart? w.key = some w ∧ w.sched.status = .waiting ∧ w.waitFor = some (.wmwait 4 5) ∧ Ready { world w with cur := some w.key } w (.wmwait 4 5) ∧
      ∀ f, ((world w).part w.key.part).farm? (w.getX 4) = some f → min (w.getX 5).toNat f.total ≤ f.mark) :=
  ⟨⟨world_hart _, by decide⟩, world_hart _, rfl, rfl, world_ready (by decide +kernel), fun f h => by
    have n : ((world { tHart with sched := { tHart.sched with status := .waiting }, waitFor := some (.wmwait 4 5) }).part 0).farm? 0 = none := by decide +kernel
    exact absurd (n.symm.trans h) (by simp)⟩

/-- A vault of index 3 in a state, with one line of it. -/
def vault (st : VaultState) : Vault :=
  { index := 3, state := st, gen := 7, lineLog := 6, write := 0, fifo := false, ways := 1, bypass := 0, shares := [{ slice := 0, bank := 0, first := 0 }], oldShares := [{ slice := 1, bank := 0, first := 0 }],
    oldWays := 1, walk := 0, wback := 0, issuer := none }
def vaultPart (st : VaultState) (p : Part) : Part := { p with vaults := [vault st] }
/-- A partition that may hold descriptors of ASID 0, its table at 0x4000200000. -/
def tablePart (p : Part) : Part := { p with asid0 := 0, asidN := 1, tds := [(0, 0x4000200000, 1)] }

theorem witness_VaultInstructions :
    let h := sHart.setX 4 3
    let z := sHart.setX 4 255
    let s := fun st => partWorld h (vaultPart st)
    let p := partWorld sHart tablePart
    (Ready (world h) h (.vquery 3 4 5) ∧ Ready (world z) z (.vdrop 3 4) ∧ (z.getX 4).setWidth 8 = (255 : BitVec 8)) ∧
    (Ready (world h) h (.vdrop 3 4) ∧ (h.getX 4).setWidth 8 ≠ (255 : BitVec 8) ∧ ((world h).part h.key.part).vault? 3 = none) ∧
    (Ready (s .dropping) h (.vdrop 3 4) ∧ ((s .dropping).part h.key.part).vault? 3 = some (vault .dropping) ∧ (vault .dropping).state ≠ .active) ∧
    (Ready (s .active) h (.vdrop 3 4) ∧ ((s .active).part h.key.part).vault? 3 = some (vault .active)) ∧ Ready (world h) h (.tdget 3 5 6) ∧
    ((h.getX 0).toNat % 256 = 0 ∧ (s .active).access h.ctx (h.getX 0) .load = .ok (pg h 0) ∧ (s .active).scalarLocked h (h.getX 0) 256 = false ∧
      h.pathHolds (pg h 0).pa 256 = false ∧ AtHand (s .active) h (pg h 0) 256 false ∧ Ready (s .active) h (.vdef 3 0 0) ∧
      Ready (s .active) h (.vresize 3 4 0 0) ∧ Ready (s .active) h (.vresize 3 5 0 0) ∧ ((s .active).part h.key.part).vault? 0 = none) ∧
    (Claims.Inv p ∧ p.access sHart.ctx (sHart.getX 0) .load = .ok (pg sHart 0) ∧ p.scalarLocked sHart (sHart.getX 0) 64 = false ∧
      sHart.pathHolds (pg sHart 0).pa 64 = false ∧ AtHand p sHart (pg sHart 0) 64 false ∧ Ready p sHart (.tdset 3 4 0 0) ∧ (p.part sHart.key.part).tdCheck 0 0 0 = .ok 0x4000200000 ∧ placeOf 0x4000200000 = .hbm 1 ∧ p.deadAt 0x4000200000 = none ∧
      p.writeWaits 0x4000200000 .package = none ∧ p.hostWrites = [] ∧ (pg sHart 0).pa % 64 = 0 ∧ 0x4000200000 % 64 = 0 ∧ regionOf 0x4000200000 ≠ regionOf (pg sHart 0).pa) ∧
    (Ready (world sHart) sHart (.tdset 3 4 0 0) ∧ ((world sHart).part sHart.key.part).tdCheck 0 0 0 = .error 4) :=
  ⟨⟨world_ready (by decide +kernel), world_ready (by decide +kernel), by decide⟩, ⟨world_ready (by decide +kernel), by decide, by decide +kernel⟩,
    ⟨part_ready (by decide +kernel), by decide +kernel, by decide⟩, ⟨part_ready (by decide +kernel), by decide +kernel⟩, world_ready (by decide +kernel),
    ⟨by decide, ok_of (by decide +kernel), by decide +kernel, rfl, atHand_hbm (d := 1) (by decide +kernel) (by decide +kernel) (by decide +kernel) (by decide +kernel),
      part_ready (by decide +kernel), part_ready (by decide +kernel), part_ready (by decide +kernel), by decide +kernel⟩,
    ⟨by unfold Claims.Inv; decide +kernel, ok_of (by decide +kernel), by decide +kernel, rfl, atHand_hbm (d := 1) (by decide +kernel) (by decide +kernel) (by decide +kernel) (by decide +kernel),
      part_ready (by decide +kernel), ok_of (by decide +kernel), by decide +kernel, by decide +kernel, by decide +kernel, rfl, by decide, by decide, by decide +kernel⟩,
    world_ready (by decide +kernel), err_of (by decide +kernel)⟩

/-- A tlbinv of the hart, waiting for a core's answer or for none. -/
def inv (w : List Nat) : TlbInv := { id := 1, hart := sHart.key, part := 0, asid := some 0, base := 0, len := 0, waiting := w }

theorem witness_CacheMaintenance :
    let h := tHart.setX 5 64
    let b := (tHart.setX 5 64).setX 4 0x1000
    let i : Instr := .cinv 4 5
    let s := fun w : List Nat => ({ world sHart with tlbinvs := [inv w] } : State)
    (Claims.Inv (world h) ∧ (world h).hart? h.key = some h ∧ Ready (world tHart) tHart i ∧ tHart.getX 5 = 0) ∧
    (Ready (world b) b i ∧ b.getX 5 ≠ 0 ∧ ∃ t, rangeCheck (world b) b (b.getX 4) 64 (some .store) true = .error t) ∧
    (Ready (world h) h i ∧ (∃ l, rangeCheck (world h) h (h.getX 4) 64 (some .store) true = .ok l ∧ ∀ x, x ∈ l → (world h).writeBackWaits h.key.part x = false) ∧
      (world h).rangeBusy h (h.getX 4) 64 = false ∧
      release (world h) h .package (fun _ => true) = none ∧ (world h).corrupt = []) ∧
    (Ready (world sHart) sHart (.tlbinv 4 5 6 false 0) ∧ (world sHart).tlbinvs = []) ∧ (Ready (s []) sHart (.tlbinv 4 5 6 false 0) ∧ (inv []).waiting = []) ∧
    (inv [848] ∈ (s [848]).tlbinvs ∧ (s [848]).coreBusy 0 848 = false ∧ (s [848]).invOwns (inv [848]) = true) :=
  ⟨⟨by unfold Claims.Inv; decide +kernel, world_hart _, world_ready (by decide +kernel), by decide +kernel⟩, ⟨world_ready (by decide +kernel), by decide, _, rfl⟩,
    ⟨world_ready (by decide +kernel), ⟨[(pg tHart 0, 64)], ok_of (by decide +kernel), by decide +kernel⟩, by decide +kernel, by decide +kernel, rfl⟩,
    ⟨world_ready (by decide +kernel), rfl⟩, ⟨ready_of (world_cur sHart) (by decide +kernel), rfl⟩, List.mem_singleton_self _, by decide +kernel, by decide +kernel⟩

/-- A line at the old share of the vault. -/
def line : Line := { part := 0, vault := 3, slice := 1, bank := 0, way := 0, set := 0, tag := 0x4000000000, sectors := [.clean], used := false }

theorem witness_VaultWalks :
    let s := fun st l => ({ partWorld tHart (vaultPart st) with lines := l } : State)
    (((s .active []).part 0).vault? (BitVec.ofNat 8 3) = some (vault .active) ∧ (vault .active).state ≠ .migrating ∧ (vault .active).state ≠ .dropping) ∧
    (((s .migrating []).part 0).vault? (BitVec.ofNat 8 3) = some (vault .migrating) ∧ (s .migrating []).nextLine 0 (vault .migrating) = none) ∧
    (((s .dropping []).part 0).vault? (BitVec.ofNat 8 3) = some (vault .dropping) ∧ (s .dropping []).nextLine 0 (vault .dropping) = none) ∧
    ((vault .migrating).placed line = false ∧ ∃ k, (s .migrating [line]).nextLine 0 (vault .migrating) = some (k, line)) :=
  ⟨by decide +kernel, by decide +kernel, by decide +kernel, by decide +kernel, 0, by decide +kernel⟩

/-- A region of die 1 in a state. -/
def regionIn (st : RegionState) (askers recalled : List Nat) : State :=
  { State.reset with regions := [{ index := 0x20000, state := st, lastWrite := 0, decayFrom := 0, askers := askers, closing := none, recalled := recalled, waiting := [], covered := [] }] }

theorem witness_RegionEvents :
    (placeOf 0x4000000000 = .hbm 1 ∧ State.reset.hostWrites = [] ∧ State.reset.regionAlive (regionOf 0x4000000000) = true ∧ State.reset.alive (.die 2) = true ∧
      (State.reset.region (regionOf 0x4000000000)).state = .p 1) ∧ (State.reset.region (regionOf 0x4000000000)).state ≠ .p 2 ∧
    ((regionIn (.f [2] []) [2] []).region (regionOf 0x4000000000)).state = .f [2] [] ∧ ((regionIn (.f [2] []) [2] []).region (regionOf 0x4000000000)).askers = [2] ∧
    (regionIn (.f [2] []) [2] []).regionAlive (regionOf 0x4000000000) = true ∧ (regionIn (.f [2] []) [2] []).time < 1000000 ∧
    ((regionIn (.r [(2, 5)]) [] []).region (regionOf 0x4000000000)).lease? 2 = some 5 ∧ (regionIn (.r [(2, 5)]) [] []).time < 5 ∧
    2 ∈ ((regionIn (.r [(2, 5)]) [] [2]).region (regionOf 0x4000000000)).recalled := by decide +kernel

/-- A copy of 16 bytes from the page's start to its byte 64: still to be read, read, and over. -/
def copyOf (rd : Nat) (fin : Option (BitVec 8)) (d : Deliver) : Copy :=
  { hart := tHart.key, id := 1, core := 16, home := 0, asid := 0, root := 0, level := .t, args := { dst := 64, src := 0, len := 16, box := none }, dlv := d, hint := 0, todo := [(0, 16)],
    rd := rd, wr := 0, buf := (List.range rd).map fun i => (i, 0), lost := [], missing := [], done := 0, finished := fin, slots := 0 }
def copyWorld (h : Hart) (c : Copy) : State := { world h with copies := [c] }

/-- Nothing is dead in that part. -/
theorem world_alive (h : Hart) (pa : Nat) : (world h).deadAt pa = none := by
  have a : ∀ b : Agent, (match (world h).agents.lookup b with | some st => if st.alive then none else some (b, st.incarnation) | none => none) = none := by
    intro b
    cases b with
    | die d => revert d; exact (by decide : ∀ d : Fin 6, (match (State.reset).agents.lookup (.die d) with | some st => if st.alive then none else some (Agent.die d, st.incarnation) | none => none) = none)
    | port d => revert d; exact (by decide : ∀ d : Fin 2, (match (State.reset).agents.lookup (.port d) with | some st => if st.alive then none else some (Agent.port d, st.incarnation) | none => none) = none)
    | link d => revert d; exact (by decide : ∀ d : Fin 9, (match (State.reset).agents.lookup (.link d) with | some st => if st.alive then none else some (Agent.link d, st.incarnation) | none => none) = none)
  unfold State.deadAt
  cases agentOf pa with
  | none => rfl
  | some b => exact a b

theorem witness_Copies :
    let i : Instr := .cpy ⟨3, 4, 5, 6, .barrier 63, 0⟩
    let q := queued tHart i 0
    let full := { tHart with eng := { Engine.start with mbx := List.replicate 64 { lo := 0, hi := 0 }, spill := List.replicate 1024 { lo := 0, hi := 0 } } }
    (Turn (world q) q.key q slot16 0 (entry tHart i 0) i ∧ ((world q).copies.filter fun c => c.core == q.core).length < 1024 ∧
      copyWaits (world q) q { dst := 0, src := 0, len := 0, box := none } = false) ∧
    (let b : Instr := .cpyt ⟨3, 4, 5, 6, .mailbox, true, 0⟩
     let g := queued tHart b 0
     let none_ := holding tHart { entry tHart b 0 with opc := 5 } none
     Turn (boxWorld g) g.key g slot16 0 (entry tHart b 0) b ∧ (boxWorld g).handle g 0 = .ok { base := 0, esz := 1, ext := [16], strides := [] } ∧
       ((boxWorld g).copies.filter fun c => c.core == g.core).length < 1024 ∧ copyWaits (boxWorld g) g { dst := 0, src := 0, len := 16, box := some ({ base := 0, esz := 1, ext := [16], strides := [] }, true) } = false ∧
       Turn (boxWorld none_) none_.key none_ slot16 0 { entry tHart b 0 with opc := 5 } b ∧ (boxWorld none_).handle none_ 5 = .error 1) ∧
    (let b : Instr := .cpyr 3 4 .mailbox 0
     let g := queued tHart b 7
     let r : Replay := { id := 7, args := { dst := 64, src := 0, len := 16, box := none }, missing := [(0, 8)], blocks := [], lines := [] }
     let y := { g with eng := { g.eng with replays := [r] } }
     Turn (world g) g.key g slot16 0 (entry tHart b 7) b ∧ g.eng.replays = [] ∧ Turn (world y) y.key y slot16 0 (entry tHart b 7) b ∧
       y.eng.replays.find? (fun x => x.id.setWidth 64 == (entry tHart b 7).opa) = some r ∧ (world y).replayIntact y r = true ∧ copyWaits (world y) y r.args = false) ∧
    (let c := copyOf 0 none .mailbox
     let s := copyWorld tHart c
     c ∈ s.copies ∧ (∀ x, x ∈ s.copies → x.hart = tHart.key → x.id = c.id → x = c) ∧ c.finished = none ∧ c.lost = [] ∧ c.missing = [] ∧ s.stale = [] ∧ Claims.Inv s ∧
       c.rd < runTotal c.todo ∧ ∀ j, j ∈ runSlice c.todo c.rd 4096 → s.deadAt (0x4000000000 + j) = none ∧ s.corrupted (0x4000000000 + j) = false ∧ s.onPcie (0x4000000000 + j) = false ∧ s.lines = [] ∧
         (s.access c.ctx (c.args.srcAddr j) .load).toOption = some (pg tHart j) ∧ (pg tHart j).entry ∈ s.tlb ∧
         s.readWaits (0x4000000000 + j) (s.cacheDie (c.ctx.via 255) (0x4000000000 + j)) = false ∧
         s.readNeeds (c.ctx.via 255) (0x4000000000 + j) 1 (engineAlloc c.hint) = []) ∧
    (let c := copyOf 16 none .mailbox
     let s := copyWorld tHart c
     runTotal c.todo ≤ c.rd ∧ s.hostWrites = [] ∧ (∀ j, j ∈ runSlice c.todo c.wr 4096 → s.deadAt (0x4000000040 + j) = none ∧ s.silentAt (0x4000000040 + j) = false ∧ placeOf (0x4000000040 + j) = .hbm 1 ∧ (c.buf.lookup j).isSome = true ∧
         (s.access c.ctx (c.args.dstAddr j) .store).toOption = some (pg tHart (64 + j)) ∧ (pg tHart (64 + j)).entry ∈ s.tlb) ∧ (runSlice c.todo c.wr 4096).Nodup) ∧
    (full.mailFull = true ∧ (copyOf 16 (some 0) .mailbox).finished = some 0 ∧ (copyOf 16 (some 0) .mailbox).dlv = .mailbox) ∧
    (tHart.eng.mbx.length < 64 ∧ tHart.eng.spill = [] ∧ tHart.sched.status ≠ .parked) ∧ (copyOf 16 (some 3) (.barrier 0)).dlv = .barrier 0 := by
  refine ⟨⟨queued_turn (by decide +kernel), by decide +kernel, by decide +kernel⟩,
    ⟨turn_of (world_hart _) (by decide +kernel), ok_of (by decide +kernel), by decide +kernel, by decide +kernel, turn_of (world_hart _) (by decide +kernel), err_of (by decide +kernel)⟩,
    ⟨queued_turn (by decide +kernel), rfl, turn_of (world_hart _) (by decide +kernel), by decide +kernel, by decide +kernel, by decide +kernel⟩, ⟨List.mem_singleton_self _, ?_, rfl, rfl, rfl, rfl, by unfold Claims.Inv; decide +kernel,
    by decide +kernel, by decide +kernel⟩, ⟨by decide +kernel, by decide +kernel, by decide +kernel⟩, ⟨by decide +kernel, rfl, rfl⟩, ⟨by decide, rfl, by decide⟩, rfl⟩
  intro x m _ _
  exact List.mem_singleton.mp m

/-- A hart with a receive queue and that stream. -/
def rxHart (q : RxQueue) : Hart := { tHart with csr := { tHart.csr with vl := 4 }, eng := { Engine.start with rx := Engine.start.rx.set 0 (some q), streams := Engine.start.streams.set 0 (some stream) } }

theorem witness_StreamsAndMessages :
    let h := rxHart (rxq 10 0 0)
    let b : List Byte := [1, 2, 3, 4]
    ((world h).hart? h.key = some h ∧ h.eng.streams[(0 : Stream)] = some stream ∧ stream.pos < stream.length ∧ stream.buf.lookup 0 = none ∧ stream.withheld = [] ∧ stream.first = [] ∧ h.csr.vl ≠ 0 ∧
      (world h).access h.ctx (stream.addr 0) .load = .ok (pg h 0) ∧ ReadReady (world h) (h.via (pg h 0)) (pg h 0).pa 4 none ∧
      (world h).interlocked h (stream.addr 0) 4 = false ∧ (world h).behind h (stream.addr 0) 4 false = false) ∧
    (b.length % 4 = 0 ∧ b ≠ [] ∧ b.length ≤ 65536 ∧ h.eng.rx[(1 : Fin 16)] = none) ∧
    (h.eng.rx[(0 : Fin 16)] = some (rxq 10 0 0) ∧ (rxq 10 0 0).notify = false ∧ rxOutcome (world h) h (rxq 10 0 0) b.length = (0, none) ∧ ∀ pa, (world h).deadAt pa = none) ∧
    (rxq 4 0 0).size < 16 + (b.length + 15) / 16 * 16 ∧
    (16 + (b.length + 15) / 16 * 16 ≤ (rxq 10 0 1000).size ∧ (rxq 10 0 1000).size - (1000 - 0) < 16 + (b.length + 15) / 16 * 16) := by
  exact ⟨⟨world_hart _, rfl, by decide, rfl, rfl, rfl, by decide, ok_of (by decide +kernel), read_ready (by decide +kernel) (by decide +kernel), by decide +kernel, by decide +kernel⟩, ⟨rfl, by decide, by decide, by decide +kernel⟩,
    ⟨by decide +kernel, rfl, by decide +kernel, world_alive _⟩, by decide +kernel, by decide +kernel⟩

/-- An operand of `n` bytes that can be read at once. -/
theorem readable {s : State} {h : Hart} {va : Word} {n : Nat} {hint : Hint} {x : Xlat} (a : (s.access h.ctx va .load).toOption = some x) (l : s.lines = [])
    (p : (va.toNat % n == 0 && x.pa % n == 0 && !s.interlocked h va n && !s.behind h va n false && !h.pathHolds x.pa n) = true)
    (r : ((s.deadAt x.pa).isNone && !s.corrupted x.pa && !s.onPcie x.pa && !s.readWaits x.pa (s.cacheDie (h.via x) x.pa) &&
      (s.readNeeds (h.via x) x.pa n (s.vectorAlloc (h.via x) hint n)).isEmpty) = true) : Readable s h va n hint x := by
  simp only [Bool.and_eq_true, beq_iff_eq, Bool.not_eq_true'] at p
  exact ⟨p.1.1.1.1, ok_of a, p.1.1.1.2, p.1.1.2, p.1.2, p.2, read_ready l r⟩

/-- A hart with an engine entry of an instruction and engines in a state. -/
def engaged (i : Instr) (a b : Word) (n : Engine) : Hart := { tHart with queue := [entryOf tHart i a b 0], eng := n }
/-- A state of that hart with the page's first bytes written, and virtual page 1 in host memory. -/
def engineWorld (h : Hart) (n v : Nat) : State :=
  let s := world h
  { s with mem := (s.writeNat 0x4000000000 n v).mem
           tlb := s.tlb ++ [{ core := 16, part := 0, asid := 0, global := false, vpage := 0x1000, ppage := 0x80000000000000, size := 4096, perm := 0x3F, vault := 255 }] }

theorem engine_turn {i : Instr} {a b : Word} {n : Engine} {w v : Nat}
    (p : ((engaged i a b n).inSlot && decide ((engaged i a b n).sched.slot = some slot16) && decide ((engaged i a b n).turn = some 0) &&
      decide ((engaged i a b n).queue[0]? = some (entryOf tHart i a b 0)) && decide ((entryOf tHart i a b 0).check = some i) &&
      implements (engaged i a b n).cls i && (engineWorld (engaged i a b n) w v).featureOn i) = true) :
    Turn (engineWorld (engaged i a b n) w v) (engaged i a b n).key (engaged i a b n) slot16 0 (entryOf tHart i a b 0) i :=
  turn_of (by simp [engineWorld, world, State.hart?]) p

/-- The head message of queue 0 can be taken to `dst`: it and its header lie in quiet memory apart from each other, and within one sector. -/
def pops (s : State) (j : Job) (r : RxQueue) : Bool :=
  let quiet := fun (s : State) (pa : Nat) => decide (placeOf pa = .hbm 1) && (s.deadAt pa).isNone && !s.silentAt pa && !s.corrupted pa &&
    (s.region (regionOf pa)).closing.isNone && decide ((s.region (regionOf pa)).state = .p 1)
  match rxRead s j 0 r r.head 4 with
  | .got u hd =>
    (match rxRead u j 0 r (r.head + 16 + r.off) (leNat hd % 2 ^ 17 - r.off) with
     | .got w bs =>
       (match operand w j j.entry.opa bs.length 1 .store 0 with
        | .ready y [(x, n)] [] =>
          let z := y.writePieces j (j.hart.slotMask j.entry.opa bs.length) 0 [] [(x, n)] bs
          decide (n = bs.length) && quiet y x.pa && decide (x.pa % 64 + bs.length ≤ 64) &&
          (match translateAll z j.hart.ctx .store (r.pieces (r.head + 3) 1) with
           | .ok ps => ps.all fun p => quiet z p.1.pa && (decide (p.1.pa < x.pa) || decide (x.pa + bs.length ≤ p.1.pa))
           | .error _ => true)
        | _ => false)
     | _ => false)
  | _ => false

theorem pops_elem {s : State} {j : Job} {r : RxQueue} (h : pops s j r = true) : ∃ u hd w bs y x,
    rxRead s j 0 r r.head 4 = .got u hd ∧ rxRead u j 0 r (r.head + 16 + r.off) (leNat hd % 2 ^ 17 - r.off) = .got w bs ∧
    operand w j j.entry.opa bs.length 1 .store 0 = .ready y [(x, bs.length)] [] ∧ Quiet y x.pa ∧ x.pa % 64 + bs.length ≤ 64 ∧
    (let z := y.writePieces j (j.hart.slotMask j.entry.opa bs.length) 0 [] [(x, bs.length)] bs
     ∀ ps p, translateAll z j.hart.ctx .store (r.pieces (r.head + 3) 1) = .ok ps → p ∈ ps → Quiet z p.1.pa ∧ (p.1.pa < x.pa ∨ x.pa + bs.length ≤ p.1.pa)) := by
  have quiet : ∀ (s : State) (pa : Nat), (decide (placeOf pa = .hbm 1) && (s.deadAt pa).isNone && !s.silentAt pa && !s.corrupted pa &&
      (s.region (regionOf pa)).closing.isNone && decide ((s.region (regionOf pa)).state = .p 1)) = true → Quiet s pa := by
    intro s pa q
    simp only [Bool.and_eq_true, decide_eq_true_eq, Option.isNone_iff_eq_none, Bool.not_eq_true'] at q
    exact ⟨⟨1, q.1.1.1.1.1⟩, q.1.1.1.1.2, q.1.1.1.2, q.1.1.2, q.1.2, fun l e => by rw [q.2] at e; cases e⟩
  unfold pops at h
  split at h
  · next u hd e =>
    split at h
    · next w bs e' =>
      split at h
      · next y x n o =>
        simp only [Bool.and_eq_true, decide_eq_true_eq] at h
        obtain ⟨⟨⟨hn, hq⟩, hl⟩, hz⟩ := h
        subst hn
        refine ⟨u, hd, w, bs, y, x, e, e', o, quiet y x.pa (by simpa using hq), hl, fun ps p t m => ?_⟩
        rw [t] at hz
        have k := List.all_eq_true.mp hz p m
        simp only [Bool.and_eq_true, Bool.or_eq_true, decide_eq_true_eq] at k
        exact ⟨quiet _ p.1.pa (by simpa using k.1), k.2⟩
      · cases h
    · cases h
  · cases h

theorem witness_EngineEntries :
    let g := Engine.start
    let busy := fun c : CopyBarrier => { g with cb := g.cb.set 9 c }
    let mail := { g with mbx := [{ lo := 1, hi := 2 }] }
    let full := { g with mbx := List.replicate 64 { lo := 0, hi := 0 }, spill := List.replicate 1024 { lo := 0, hi := 0 } }
    let s := fun (i : Instr) (a b : Word) (n : Engine) (v : Nat) => engineWorld (engaged i a b n) 64 v
    let can := fun (i : Instr) (a b : Word) (n : Engine) (v : Nat) => Turn (s i a b n v) tHart.key (engaged i a b n) slot16 0 (entryOf tHart i a b 0) i
    let reads := fun (i : Instr) (a b : Word) (n : Engine) (v : Nat) (w : Nat) => ∃ x, Readable (s i a b n v) (engaged i a b n) a w 0 x ∧
      leNat ((s i a b n v).view ((engaged i a b n).via x) x.pa w) = v
    (can (.cbinit 4 9 0) 0 0 (busy ⟨0, 0, 1⟩) 0 ∧ can (.cbinit 4 9 0) 0 0 g 0 ∧ (g.cb[(9 : Fin 64)]).infl = 0 ∧ ((busy ⟨0, 0, 1⟩).cb[(9 : Fin 64)]).infl ≠ 0 ∧
      (engaged (.cbinit 4 9 0) 0 0 g).waitFor = none ∧ (engaged (.cbinit 4 9 0) 0 0 g).sched.status = .running) ∧
    (can (.cbwait 3 9 0) 0 0 (busy ⟨1, 0, 1⟩) 0 ∧ can (.cbwait 3 9 0) 0 0 (busy ⟨1, 1, 1⟩) 0) ∧
    (can (.sopen 4 7 0) 0 0 g 0 ∧ reads (.sopen 4 7 0) 0 0 g 0 64 ∧ reads (.sopen 4 7 0) 0 0 g (2 ^ 511) 64 ∧ reads (.sopen 4 7 0) 0 0 g (1 + 4 * 2 ^ 128) 64 ∧
      streamSize 0 = 1 ∧ streamSize (1 + 4 * 2 ^ 128) = 4 ∧ bitsOf (2 ^ 511) 511 448 ≠ 0 ∧ (s (.sopen 4 7 0) 0 0 g 0).isafeat0.getLsbD 5 = true) ∧
    can (.sclose 7 0) 0 0 g 0 ∧
    (can (.mbxpop 3 4 0) 16 0 g 0 ∧ g.mbx = [] ∧ can (.mbxpop 3 4 0) 16 0 mail 0 ∧ (s (.mbxpop 3 4 0) 16 0 mail 0).access tHart.ctx 16 .store = .ok (pg tHart 16) ∧
      Quiet (s (.mbxpop 3 4 0) 16 0 mail 0) 0x4000000010 ∧ Claims.Inv (s (.mbxpop 3 4 0) 16 0 mail 0) ∧
      (s (.mbxpop 3 4 0) 16 0 mail 0).interlocked (engaged (.mbxpop 3 4 0) 16 0 mail) 16 16 = false ∧
      (s (.mbxpop 3 4 0) 16 0 mail 0).behind (engaged (.mbxpop 3 4 0) 16 0 mail) 16 16 true = false) ∧
    (can (.waitmsg 0) 0 0 g 0 ∧ can (.waitmsg 0) 0 0 mail 0) ∧
    (can (.msgsend 3 4 5 0) 1 0 g 0 ∧ (∃ x, Readable (s (.msgsend 3 4 5 0) 1 0 g 0) (engaged (.msgsend 3 4 5 0) 1 0 g) 0 8 0 x) ∧
      ((s (.msgsend 3 4 5 0) 9 0 g 0).hart? { part := 0, id := 9 }).isNone = true ∧
      (s (.msgsend 3 4 5 0) 1 0 g 0).hart? { part := 0, id := 1 } = some (engaged (.msgsend 3 4 5 0) 1 0 g) ∧ (engaged (.msgsend 3 4 5 0) 1 0 g).mailFull = false ∧
      (engaged (.msgsend 3 4 5 0) 1 0 full).mailFull = true) ∧
    (can (.rxopen 3 4 0 0) 0 0 g 0 ∧ can (.rxopen 3 4 0 0) 0 0 { g with rx := g.rx.set 0 (some (rxq 10 0 0)) } 0 ∧
      (let d := fun b : Nat => b + 12 * 2 ^ 64
       let f := fun b : Nat => { engineWorld (engaged (.rxopen 3 4 0 0) 64 0 g) 0 0 with mem := ((world tHart).writeNat 0x4000000040 64 (d b)).mem }
       let h := engaged (.rxopen 3 4 0 0) 64 0 g
       let tr := fun b : Nat => translateAll ((f b).fillTlb (pg tHart 64)) h.ctx .store (chunksOf (RxQueue.ofDesc (d b)).base (RxQueue.ofDesc (d b)).size)
       Readable (f 0) h 64 64 0 (pg tHart 64) ∧ leNat ((f 0).view (h.via (pg tHart 64)) (pg tHart 64).pa 64) = d 0 ∧
         ((tr 0).toOption.map fun p => p.any fun y => inHost y.1.pa) = some false ∧ ((tr 0x1000).toOption.map fun p => p.any fun y => inHost y.1.pa) = some true ∧
         (tr 0x2000).toOption.isNone = true)) ∧
    (let i : Instr := .rxpop 3 4 0 0
     let q := fun r : RxQueue => { g with rx := g.rx.set 0 (some r) }
     let h := engaged i 64 0 (q (rxq 10 0 32))
     can i 64 0 g 0 ∧ can i 64 0 (q (rxq 10 0 0)) 0 ∧ (mailed h).hart? h.key = some h ∧ (rxq 10 0 32).head < (rxq 10 0 32).tail ∧
       pops (mailed h) { hart := h, slot := slot16, entry := entryOf tHart i 64 0 0 } (rxq 10 0 32) = true) ∧
    (let i : Instr := .coll ⟨3, 4, 5, 6, 2, .i32, .package, .sum, 0⟩
     let h := engaged i 64 0 g
     let t := fun l : List Group => { world h with parts := (world h).parts.set 0 { (world h).part 0 with groups := l } }
     can i 64 0 { g with colls := List.replicate 16 (1, none) } 0 ∧ can i 64 0 g 0 ∧ h.path = [] ∧ (world h).copies = [] ∧ (entryOf tHart i 64 0 0).marks = false ∧
       (world h).unsettled h .package = false ∧ (release (world h) h .package fun _ => true).isNone = true ∧ ((world h).part 0).group? 2 = none ∧
       ((t [{ id := 2, span := 1, members := [7], record := 9 }]).part 0).group? 2 = some { id := 2, span := 1, members := [7], record := 9 } ∧
       (t []).rankOf { id := 2, span := 1, members := [7], record := 9 } h.key = none ∧ (t []).rankOf { id := 2, span := 1, members := [1], record := 9 } h.key = some 0 ∧
       (t []).coll? 0 2 0 = none) ∧
    (let i : Instr := .collwait 3 4 0
     can i 4 0 g 0 ∧ can i 4 0 { g with colls := [(4, none)] } 0 ∧ can i 4 0 { g with colls := [(4, some 0)] } 0) := by
  refine ⟨⟨engine_turn (by decide +kernel), engine_turn (by decide +kernel), by decide +kernel, by decide +kernel, rfl, rfl⟩,
    ⟨engine_turn (by decide +kernel), engine_turn (by decide +kernel)⟩,
    ⟨engine_turn (by decide +kernel), ⟨pg tHart 0, readable (by decide +kernel) rfl (by decide +kernel) (by decide +kernel), by decide +kernel⟩,
      ⟨pg tHart 0, readable (by decide +kernel) rfl (by decide +kernel) (by decide +kernel), by decide +kernel⟩,
      ⟨pg tHart 0, readable (by decide +kernel) rfl (by decide +kernel) (by decide +kernel), by decide +kernel⟩, by decide +kernel⟩, engine_turn (by decide +kernel),
    ⟨engine_turn (by decide +kernel), rfl, engine_turn (by decide +kernel), ok_of (by decide +kernel), quiet_hbm (m := 1) (o := 1) (by decide +kernel) (by decide +kernel) (by decide +kernel),
      by unfold Claims.Inv; decide +kernel, by decide +kernel, by decide +kernel⟩, ⟨engine_turn (by decide +kernel), engine_turn (by decide +kernel)⟩,
    ⟨engine_turn (by decide +kernel), ⟨pg tHart 0, readable (by decide +kernel) rfl (by decide +kernel) (by decide +kernel)⟩, by decide +kernel, by decide +kernel, by decide +kernel, by decide +kernel⟩,
    ⟨engine_turn (by decide +kernel), engine_turn (by decide +kernel), readable (by decide +kernel) rfl (by decide +kernel) (by decide +kernel), by decide +kernel, by decide +kernel,
      by decide +kernel, by decide +kernel⟩,
    ⟨engine_turn (by decide +kernel), engine_turn (by decide +kernel), mailed_hart _, by decide, by decide +kernel⟩,
    ⟨engine_turn (by decide +kernel), engine_turn (by decide +kernel), by decide +kernel⟩,
    engine_turn (by decide +kernel), engine_turn (by decide +kernel), engine_turn (by decide +kernel)⟩

/-- A group of one member, the hart, and an operation of it. -/
def group : Group := { id := 2, span := 1, members := [1], record := 9 }
def member (n : Word) : CollMember :=
  { rank := 0, hart := some tHart.key, handle := 4, fmt := .i32, op := .sum, scope := .package, count := n, dst := 64, src := 0, asid := 0, root := 0, level := .t, core := 16,
    home := 0, hint := 0, slots := 0, put := [(0x4000000040, 255, 4)] }
def operation (n : Word) (st : Bool) (v : List (Nat × Nat × Nat × List Word)) : CollOpState :=
  { CollOpState.fresh 0 2 0 with members := [member n], values := v, started := st }
def collHart : Hart := { tHart with eng := { Engine.start with colls := [(4, none)] } }
def collWorld (c : CollOpState) : State :=
  { partWorld collHart (fun p => { p with groups := [group] }) with colls := [c] }

/-- Sources that no sector has to be asked for are at hand. -/
theorem sources_at_hand {c : CollOpState} {s : State} {m : CollMember} {x : Xlat} {n : Nat} (h : c.sources s = [(m, x, n)]) (i : s.inCxl x.pa = false)
    (r : s.readNeeds ((m.ctx c.part).via x.vault) x.pa n (engineAlloc m.hint) = [])
    (w : s.readWaits x.pa (s.cacheDie ((m.ctx c.part).via x.vault) x.pa) = false) : c.wantSources s = (s, false, []) := by
  unfold CollOpState.wantSources State.askReads
  rw [h]
  have e : List.filter (fun _ : Ask => true) s.asked = s.asked := List.filter_eq_self.mpr fun _ _ => rfl
  simp [i, r, w, e, dedup, State.wantAll, State.wantEach]

/-- The group of that member with another of another package. -/
def wide : Group := { id := 2, span := 2, members := [1, 2 ^ 48], record := 9 }

theorem witness_Collectives :
    let e := operation 0x1000001 false []
    let b := operation 1 false []
    let d := operation 1 true [(0, 0, 0, [7])]
    let w := { d with written := true }
    let s := collWorld d
    let far := ({ collWorld b with parts := (collWorld b).parts.set 0 { (collWorld b).part 0 with groups := [wide] } } : State)
    (e ∈ (collWorld e).colls ∧ (∀ x, x ∈ (collWorld e).colls → x.part = e.part → x.group = e.group → x.k = e.k → x = e) ∧ ((collWorld e).part 0).group? 2 = some group ∧
      e.settled = none ∧ e.started = false ∧ (collWorld e).collAll e group = true ∧ e.older (collWorld e) = false ∧ e.early group = some 5) ∧
    (b.early group = none ∧ b.older (collWorld b) = false ∧ group.span ≠ 2 ∧ b.failures (collWorld b) [] = [] ∧ b.faulted = false ∧
      ({ b with faulted := true } : CollOpState).faulted = true ∧ b.wantSources (collWorld b) = (collWorld b, false, [])) ∧
    (b.older { collWorld b with harts := [{ tHart with eng := { Engine.start with colls := [(3, none), (4, none)] } }] } = true ∧
      (collWorld b).collAll b wide = false) ∧
    b.complete group.members.length = false ∧
    (d.complete group.members.length = true ∧ d.written = false ∧ d.members.filter (fun y => y.hart.isSome) = [member 1] ∧ d.members.head? = some (member 1) ∧
      (member 1).hart = some tHart.key ∧ (member 1).count = 1 ∧ (member 1).put = [(0x4000000040, 255, bitsW (member 1).fmt / 8)] ∧
      0x4000000040 % (bitsW .i32 / 8) = 0 ∧ s.hostWrites = [] ∧ s.hostHeld = [] ∧ placeOf 0x4000000040 = .hbm 1 ∧ s.deadAt 0x4000000040 = none ∧
      s.silentAt 0x4000000040 = false ∧ (s.region (regionOf 0x4000000040)).state = .p 1 ∧ (s.region (regionOf 0x4000000040)).closing = none ∧
      Mem.wf s.mem = true ∧ d.result? group.members.length 0 = some 7) ∧
    (s.hart? tHart.key = some collHart ∧ collHart.outst = [] ∧ ((member 1).handle, none) ∈ collHart.eng.colls) ∧
    (w.complete group.members.length = true ∧ w.written = true ∧ (w.settling (collWorld w)).isNone = true ∧ d.allLocal 1 = true ∧ d.elem? 0 0 0 = some 7) ∧
    ((far.part 0).group? 2 = some wide ∧ b ∈ far.colls ∧ wide.span = 2 ∧ b.isLocal 1 = false ∧ (1 : BitVec 16) ≠ far.pkg ∧ (2 ^ 48 : Nat) / 2 ^ 48 = (1 : BitVec 16).toNat ∧
      (2 ^ 48 : Word) ∈ wide.members) := by
  refine ⟨⟨List.mem_singleton_self _, fun x m _ _ _ => List.mem_singleton.mp m, by decide +kernel, rfl, rfl, by decide +kernel, by decide +kernel, by decide +kernel⟩,
    ⟨by decide +kernel, by decide +kernel, by decide, by decide +kernel, rfl, rfl,
      sources_at_hand (m := member 1) (x := pg tHart 0) (n := 4) (by decide +kernel) (by decide +kernel) (by decide +kernel) (by decide +kernel)⟩,
    ⟨by decide +kernel, by decide +kernel⟩, by decide +kernel, by decide +kernel, ⟨world_hart collHart, rfl, List.mem_singleton_self _⟩, by decide +kernel, ?_⟩
  exact ⟨by decide +kernel, List.mem_singleton_self _, by decide, by decide +kernel, by decide +kernel, by decide, by decide⟩

/-- A partition of the host in a state, with queue 0 in a state. -/
def queue (en : Bool) (tail prog : Half) : HostQueue := { HostQueue.reset with en := en, sizeLog := 4, tail := tail, prog := prog }
def hostPart (st : PartState) (q : HostQueue) : State :=
  partWorld tHart fun p => { p with state := st, queues := p.queues.set 0 q }

/-- A state whose host ports are dead. -/
def portless (s : State) : State := { s with agents := s.agents.map fun a => if a.1 == .port 0 || a.1 == .port 1 then (a.1, { a.2 with alive := false }) else a }

theorem witness_HostRegisters :
    ((hostPart .running (queue true 0 0)).alive (.port 0) = true ∧ (portless (hostPart .running (queue true 0 0))).alive (.port 0) = false ∧
      (portless (hostPart .running (queue true 0 0))).alive (.port 1) = false) ∧
    (((hostPart .running (queue true 0 0)).part (partNo 0)).state = .running ∧ (((hostPart .running (queue true 0 0)).part (partNo 0)).queues[(0 : Fin 4)]).en = true) ∧
    (queue false 0 0).en = false ∧ (0x9 : Word).getLsbD 0 = true ∧ 4 ≤ ((0x9 : Word).extractLsb' 1 4).toNat ∧ ((0x7 : Word).extractLsb' 1 4).toNat < 4 ∧
    12 < ((0x1B : Word).extractLsb' 1 4).toNat ∧ (0x8 : Word).getLsbD 0 = false ∧ 2 ^ 4 < ((17 : Word).setWidth 32 - (0 : Half)).toNat ∧
    ((16 : Word).setWidth 32 - (0 : Half)).toNat ≤ 2 ^ 4 ∧ ((hostPart .swapped (queue false 0 0)).part (partNo 0)).state = .swapped ∧
    ((hostPart .created (queue false 0 0)).part (partNo 0)).state = .created ∧ (world tHart).hostUp = true ∧
    ({ world tHart with fw := { State.reset.fw with recovery := true } } : State).hostUp = false ∧
    ((world tHart).pcmd.getLsbD 63 = false ∧ ({ world tHart with pcmd := busyBit } : State).pcmd.getLsbD 63 = true) ∧
    ((world tHart).featClosed = false ∧ ({ world tHart with featClosed := true } : State).featClosed = true) ∧
    ((world tHart).hart? { part := partNo 0, id := (1 : Word).toNat % 2 ^ 32 } = some tHart ∧ tHart.sched.status ≠ .parked) ∧
    ((world tHart).hart? { part := partNo 0, id := (2 : Word).toNat % 2 ^ 32 }).isNone = true := by
  refine ⟨by decide +kernel, by decide +kernel, by decide, by decide, by decide, by decide, by decide, by decide, by decide, by decide, by decide +kernel, by decide +kernel, by decide +kernel,
    by decide +kernel, by decide +kernel, by decide +kernel, ⟨world_hart tHart, by decide⟩, by decide +kernel⟩

/-- The queue's first command in host memory, with an entry, a descriptor table and a live task limit. -/
def commandWorld (n : Nat) (f : Part → Part) : State :=
  (partWorld tHart fun p => { f p with state := .running, queues := p.queues.set 0 (queue true 1 0) }).writeNat 0x80000000000000 64 n
/-- A command: OP at bits 87:80, INDEX at 79:64, ARG at 63:0. -/
def cmd (op index arg : Nat) : Nat := op * 2 ^ 80 + index * 2 ^ 64 + arg
def remoteEntries (w : Nat) (p : Part) : Part :=
  { p with entries := [(0, { code := 0x400, word := BitVec.ofNat 64 (0x100030001 + w), rsv0 := 0, rsv1 := 0 })], ctl := { clusters := 0x7FFF, weight := 1, quantum := 1 } }

theorem witness_HostCommands :
    let s := fun op index arg => commandWorld (cmd op index arg) id
    Claims.Inv (s 0 0 0) ∧ (s 0 0 0).hostWrites = [] ∧ (s 0 0 0).queueRuns 0 0 = true ∧ (s 0 0 0).command 0 0 = some { op := 0, index := 0, arg := 0, good := true } ∧
    ((s 2 4096 0).command 0 0 = some { op := 2, index := 4096, arg := 0, good := true } ∧ (s 2 4095 64).command 0 0 = some { op := 2, index := 4095, arg := 64, good := true } ∧
      (s 2 4095 64).hostRead 0 64 32 = some 0) ∧
    ((s 3 0 64).command 0 0 = some { op := 3, index := 0, arg := 64, good := true } ∧ (s 3 0 64).hostRead 0 64 64 = some 0 ∧
      failure (((s 3 0 64).part (partNo 0)).tdCheck 0 0 0) = some 4 ∧ (((commandWorld (cmd 3 0 64) tablePart).part (partNo 0)).tdCheck 0 0 0).toOption = some 0x4000200000) ∧
    (s 9 0 0).command 0 0 = some { op := 9, index := 0, arg := 0, good := false } ∧ (world tHart).queueRuns 0 0 = false ∧ (State.reset.part (partNo 0)).state = .absent ∧
    (let e := fun w => ((partWorld tHart (remoteEntries w)).part (partNo 0)).entry? 0
     ((world tHart).part (partNo 0)).state ≠ .absent ∧ ((world tHart).part (partNo 0)).state ≠ .terminated ∧ ([] : List Byte).length ≠ 16 ∧ (List.replicate 16 (0 : Byte)).length = 16 ∧
     leNat (List.replicate 16 (0 : Byte)) / 4096 % 2 ^ 52 = 0 ∧ ((world tHart).part (partNo 0)).entry? 0 = none ∧ (e 0).map (·.remote) = some false ∧
     (e 0x200000000).map (fun x => (x.remote, x.depth)) = some (true, 0) ∧
     (e 0x201000000).map (fun x => (x.remote, x.depth != 0, ((partWorld tHart (remoteEntries 0x201000000)).part (partNo 0)).ctl.holdsClass x.cls)) = some (true, true, true) ∧
     ((partWorld tHart (remoteEntries 0x201000000)).part (partNo 0)).tasks.length < 8192) := by
  unfold Claims.Inv; decide +kernel

/-- A hart without a slot, in a status. -/
def offHart (st : Status) (irqs : List Nat) : Hart := { tHart with irqs := irqs, sched := { tHart.sched with status := st, slot := none, readySince := 0 } }
def windowHart (core m v : Nat) : Hart := { hart core .t with sched := { (hart core .t).sched with win := { count := 65536, v := v, m := m, missH := 1, missW := 2, streak := 3 } } }
def idle (p : Part) : Part := { p with state := .swapped }

theorem witness_SchedulerEvents :
    let w := { tHart with sched := { tHart.sched with status := .waiting } }
    let m := offHart .moving []
    let mt := { m with sched := { m.sched with target := some slot16, cause := .hint } }
    let s : State := { world tHart with time := 1000000000 }
    (tHart.sched.slot = some slot16 ∧ tHart.sched.status = .running ∧ tHart.rtc = false ∧ tHart.sent = false ∧ tHart.missing = false ∧
      (world tHart).time < ((world tHart).slot slot16).quantum + ((world tHart).part tHart.key.part).ctl.quantum.toNat * 1000 ∧
      (s.slot slot16).quantum + (s.part tHart.key.part).ctl.quantum.toNat * 1000 ≤ s.time ∧ ∀ p : Fin 16, s.candidates (partNo p) 16 = []) ∧
    (w.sched.status = .waiting ∧ w.rtc = false ∧ (world w).time < w.sched.waitSince + 2000 ∧ (world w).wanted 16 = false ∧
      (let t : State := { world w with harts := [w, { offHart .ready [] with key := { part := 0, id := 2 }, area := some 0x4000001000 }], time := 2000 }
       w.sched.waitSince + 2000 ≤ t.time ∧ t.wanted 16 = true)) ∧
    ((offHart .ready []).sched.status = .ready ∧ (world (offHart .ready [])).effPrio (offHart .ready []) < 7 ∧ (999999 : Nat) - 0 < 1000000 * (0 + 1) ∧
      1000000 * (0 + 1) ≤ (1000000 : Nat) - 0 ∧ ((partWorld (offHart .ready []) idle).part 0).state ≠ .running) ∧
    ((offHart .parked [2]).sched.status = .parked ∧ (offHart .parked [2]).irqs ≠ [] ∧ ((partWorld (offHart .parked [2]) idle).part 0).state ≠ .running) ∧
    (tHart.sched.status ≠ .parked ∧ tHart.sched.status ≠ .moving) ∧ (mt.sched.status = .moving ∧ mt.sched.target = some slot16 ∧ (world mt).hart? mt.key = some mt) ∧
    tHart.sched.win.count < 65536 ∧ (65536 ≤ (windowHart 16 1310 3277).sched.win.count ∧ (windowHart 16 1310 3277).cls = .hound ∧ (windowHart 16 1310 3277).sched.win.m < 1311 ∧
      3276 < (windowHart 16 1310 3277).sched.win.v) ∧
    ((windowHart 16 1310 3276).sched.win.v ≤ 3276 ∧ 3 ≤ (windowHart 16 1310 3276).sched.win.streak ∧ (windowHart 16 1310 3276).mixBlocked = false) ∧
    ((windowHart 0 1311 0).cls = .mastiff ∧ 1311 ≤ (windowHart 0 1311 0).sched.win.m ∧ (windowHart 0 1311 0).mixBlocked = false) := by
  refine ⟨by decide +kernel, by decide +kernel, by decide +kernel, by decide +kernel, by decide +kernel, ⟨rfl, rfl, world_hart _⟩, by decide +kernel, by decide +kernel, by decide +kernel,
    by decide +kernel⟩

/-- The part after reset, with a partition descriptor at host address 0: 2 MiB of HBM of die 1 at `base`, cluster 0, weight and quantum 1, one asid,
one hart. -/
def descriptor (base : Nat) : Nat :=
  base + 0x200000 * 2 ^ 64 + 2 ^ 512 + 2 ^ 528 + 2 ^ 544 + 2 ^ 576 + 2 ^ 592 + 2 ^ 608 + 2 ^ 624 + 2 ^ 640 + 2 ^ 672
def createWorld (n : Nat) : State := State.reset.writeNat 0x80000000000000 128 n

def inState (st : PartState) : State := partWorld tHart fun p => { p with state := st }

theorem asid_found (s : State) (h : s.present = []) (seed : Nat) : ∃ a, s.freeAsids seed 1 = some a := by
  have k : (s.freeAsids seed 1).isSome = true := by
    rw [State.freeAsids, List.find?_isSome]
    refine ⟨(seed + 0) % 1024, List.mem_map.mpr ⟨0, List.mem_range.mpr (Nat.zero_lt_succ 1023), rfl⟩, ?_⟩
    have : (seed + 0) % 1024 < 1024 := Nat.mod_lt _ (by decide)
    simp [h]; omega
  exact Option.isSome_iff_exists.mp k

theorem create_asid : ∃ a, ((createWorld (descriptor 0x4000000000)).draw.1).freeAsids (Config.handleSeed (createWorld (descriptor 0x4000000000)).fresh).toNat 1 = some a :=
  asid_found _ (by decide +kernel) _

theorem witness_PartitionCommands :
    let s := createWorld (descriptor 0x4000000000)
    let n := descriptor 0x4000000000
    let x := fun t : State => t.part (partNo 0)
    (({ s with fw := { s.fw with recovery := true } } : State).hostUp = false) ∧
    (let b : State := { s with pcmd := 0x100 ||| busyBit }; b.commandBusy = true ∧ ∀ op, b.pcmd ≠ commandWord op 0 ||| busyBit) ∧
    (s.hostUp = true ∧ s.commandBusy = false ∧ (x s).state = .absent ∧ s.parg.toNat % 64 = 0 ∧ s.hostRead 0 s.parg.toNat 128 = some n ∧ descBad n = false ∧ descBad 0 = true ∧
      (createWorld 0).hostRead 0 0 128 = some 0 ∧ ({ s with parg := 1 } : State).parg.toNat % 64 ≠ 0 ∧ (portless s).hostRead 0 0 128 = none ∧
      descRanges n = [(0x4000000000, 0x200000)] ∧ (s.draw.1).present = [] ∧
      ((List.range 6).flatMap fun d => (s.draw.1).freeWays d (descWays n d)).length = (List.range 6).foldl (fun z d => z + descWays n d) 0 ∧
      n / 2 ^ 672 % 2 ^ 16 * areaBytes ≤ 0x200000 ∧ (s.draw.1).trustKeys n = some []) ∧
    (∃ a, (s.draw.1).freeAsids (Config.handleSeed s.fresh).toNat 1 = some a) ∧ n / 2 ^ 640 % 2 ^ 11 = 1 ∧
    ((inState .created).hostUp = true ∧ (x (inState .created)).state = .created ∧ (x (inState .created)).tasks.any (·.pending) = false ∧ (inState .created).hostWrites = []) ∧
    ((inState .running).hostUp = true ∧ (x (inState .running)).state = .running ∧ (x (inState .running)).swapping = false ∧
      ((inState .running).harts.map (·.key)).Nodup ∧ ∀ h, h ∈ (inState .running).harts → h.key.part = partNo 0 → h.rtc = false) ∧
    (let g := { tHart with rtc := true }
     let t := partWorld g fun p => { p with state := .running }
     t.hostUp = true ∧ (x t).state = .running ∧ (x t).swapping = false ∧ (t.harts.map (·.key)).Nodup ∧ g ∈ t.harts ∧ g.key.part = partNo 0 ∧ g.rtc = true ∧ g.sched.slot.isSome = true) ∧ ((inState .swapped).hostUp = true ∧ (x (inState .swapped)).state = .swapped) ∧
    ((inState .terminated).hostUp = true ∧ (x (inState .terminated)).state = .terminated ∧ (x (inState .terminated)).desc.sealed = false) ∧
    (x (partWorld tHart fun p => { p with state := .terminated, desc := { p.desc with sealed := true, ranges := [(0x4000000000, 0x200000)] } })).desc.sealed = true := by
  refine ⟨by decide +kernel, by decide +kernel, by decide +kernel, create_asid, by decide +kernel, by decide +kernel, by decide +kernel, by decide +kernel, by decide +kernel, by decide +kernel, by decide +kernel⟩
/-- What a call reads, where it reads all. -/
def wordsRead : Called → Option (List Nat)
  | .words _ l => some l
  | .fails _ => none
  | .waits _ => none

/-- A hart that waits for firmware with call `n`, and arguments in x9 and x10. -/
def caller (n : Nat) (a b : Word) : Hart := { (tHart.setX 9 a).setX 10 b with fwcall := some n }
/-- A partition that admits cluster 0 with weight and quantum 1, and owns 2 MiB of HBM and one asid. -/
def owning (p : Part) : Part :=
  { p with desc := { p.desc with ranges := [(0x4000000000, 0x200000)], clmax := 1, wmax := 1, qmin := 1, qmax := 1 } }

theorem witness_FirmwareCalls :
    let p := fun h : Hart => (partWorld h owning).part h.key.part
    let c : PartCtl := { clusters := 1, weight := 1, quantum := 1 }
    ((∀ h, (world h).hart? h.key = some h) ∧ tHart.inSlot = true ∧ tHart.fwcall = none) ∧
    ((caller 0x100 191 15).inSlot = true ∧ (caller 0x100 191 15).fwcall = some 0x100 ∧ ((caller 0x100 191 15).getX 9).toNat ≤ 191 ∧
      ((caller 0x100 191 15).getX 10).toNat ≤ 15 ∧ 191 < ((caller 0x100 192 0).getX 9).toNat ∧ 15 < ((caller 0x100 0 16).getX 10).toNat) ∧
    ((caller 0x101 64 0).fwcall = some 0x101 ∧ (world (caller 0x101 64 0)).groupStatus (caller 0x101 64 0) 64 0 = (world (caller 0x101 64 0), some (2, none)) ∧
      ((world (caller 0x101 63 0)).groupStatus (caller 0x101 63 0) 63 64).2 = some (0, none)) ∧
    (caller 0x102 0 0).fwcall = some 0x102 ∧
    ((caller 0x103 2 0).fwcall = some 0x103 ∧ ((world (caller 0x103 2 0)).hart? { part := 0, id := (2 : Word).toNat }).isNone = true ∧
      (let y := { caller 0x103 1 0 with area := some 0x4000001000 }
       (world y).hart? { part := y.key.part, id := (y.getX 9).toNat } = some y ∧ y.area = some 0x4000001000)) ∧
    ((caller 0x104 0 0x1000).fwcall = some 0x104 ∧ (p (caller 0x104 0 0x1000)).marks = [] ∧ ([] : List Nat).length < 4096 ∧
      (let l := List.replicate 4096 ((0 : BitVec 10), (0 : Nat), (0 : Nat))
       (l.any fun e => e.1 == 0 && e.2.1 == 1) = false ∧ 4096 ≤ l.length)) ∧
    ((caller 0x105 0x100010001 0).fwcall = some 0x105 ∧ (0x100010001 : Word).extractLsb' 48 16 = 0 ∧ (0x100010001 : Word).extractLsb' 24 8 = 0 ∧
      (0x100010001 : Word).getLsbD 15 = false ∧ (p (caller 0x105 0x100010001 0)).desc.admits c = true ∧ (0x18000 : Word).getLsbD 15 = true ∧
      (p (caller 0x105 0 0)).desc.admits { clusters := 0, weight := 0, quantum := 0 } = false) ∧
    ((caller 0x106 (2 ^ 48 : Nat) 0x4000000000).fwcall = some 0x106 ∧ (p tHart).ownsAsid 0 = true ∧ (p tHart).ownsAsid 1 = false ∧ (2 ^ 48 : Nat) / 2 ^ 32 % 2 ^ 17 = 65536 ∧
      (2 ^ 48 + 2 ^ 32 : Nat) / 2 ^ 32 % 2 ^ 17 = 65537 ∧ (2 ^ 32 : Nat) / 2 ^ 10 % 2 ^ 22 = 0 ∧ (2 ^ 32 : Nat) / 2 ^ 49 = 0) ∧
    ((caller 0x107 0 0).fwcall = some 0x107 ∧ (1024 : Nat) / 2 ^ 10 ≠ 0 ∧
      wordsRead ((memWorld (caller 0x107 0 0) 64 0x1000).callWords (caller 0x107 0 0) 8 0) = some [0x1000, 0, 0, 0, 0, 0, 0, 0] ∧ (0x1000 : Nat) / 2 ^ 56 = 0 ∧ (0x1000 : Nat) % 2 ^ 12 = 0) := by
  refine ⟨⟨world_hart, rfl, rfl⟩, by decide +kernel, ⟨by decide +kernel, if_pos rfl, by decide +kernel⟩, by decide +kernel, ⟨by decide +kernel, by decide +kernel, world_hart _, rfl⟩, by decide +kernel, by decide +kernel,
    by decide +kernel, by decide +kernel⟩
/-- The part with port 0 in CXL mode, the hart waiting with a request, and host sector 0 in a state. -/
def portWorld (r : Req) (c : Cxl) : State :=
  let s := world { tHart with req := r }
  { s with ports := s.ports.set 0 { cxl := true, atomicEnable := false }, cxl := [(0x80000000000000, c)],
           hostHeld := [{ sector := 0x4000000000, port := 0, invalidating := true }],
           regions := [{ index := 0x20001, state := .r [(2, 5)], lastWrite := 0, decayFrom := 0, askers := [], closing := none, recalled := [], waiting := [], covered := [] }] }

theorem witness_HostPorts :
    let a := 0x80000000000000
    let k := tHart.key
    (∀ r, (portWorld r .s).hart? k = some { tHart with req := r }) ∧
    ((portWorld .none .s).current (.port 0) 0 = true ∧ (portWorld .none .s).current (.port 0) 1 = false) ∧
    (let r : Req := .atomicOp a 0 8 .fetchAdd 1 0
     { tHart with req := r }.req = r ∧ Claims.Inv (portWorld r .s) ∧ (portWorld r .s).current (.port 0) 0 = true ∧
       { tHart with req := .read a 0 }.req = .read a 0 ∧
       (let o : Outstanding := { region := none, port := some 0, sector := none, wrCur := none, slots := 0, flushing := true }
        { tHart with req := .flush 0, outst := [o, { o with flushing := false }] }.req = .flush 0 ∧ ({ o with flushing := false } : Outstanding).port = some 0)) ∧
    ((portWorld (.cxl a true) .i).cxlState a = .i ∧ a % 64 = 0 ∧ (portWorld (.cxl a true) .i).onCxl a 0 = true ∧ (List.replicate 64 (0 : Byte)).length = 64 ∧
      ([] : List Byte).length ≠ 64 ∧ Claims.Inv (portWorld (.cxl a true) .i)) ∧
    ((portWorld .none .s).cxlState a = .s ∧ (portWorld .none .e).cxlState a = .e ∧ (portWorld .none .m).cxlState a = .m ∧ (portWorld .none .o).cxlState a = .o ∧
      (portWorld .none .z).cxlState a = .z ∧ (portWorld .none .z).onCxl a 0 = true ∧ (portWorld .none .s).onCxl a 1 = false) ∧
    ((portWorld .none .s).memReachable 0 0 0x4000000000 = true ∧ (portWorld .none .s).corrupted 0x4000000000 = false ∧ (portWorld .none .s).hostWrites = [] ∧
      Claims.Inv (portWorld .none .s) ∧ ((portWorld .none .s).region (regionOf 0x4000000000)).state = .p 1) ∧
    ((portWorld .none .s).memReachable 0 0 0x4000200000 = true ∧ ((portWorld .none .s).region (regionOf 0x4000200000)).state = .r [(2, 5)] ∧ (portWorld .none .s).time < 5) ∧
    (0x4000000000 % 64 = 0 ∧ (∃ y, y ∈ (portWorld .none .s).hostHeld ∧ y.sector = 0x4000000000 ∧ y.port = 0 ∧ y.invalidating = true) ∧
      ∀ z, z ∈ (portWorld .none .s).hostHeld → z.sector = 0x4000000000 → z.invalidating = true → z.port = 0) := by
  refine ⟨fun r => world_hart { tHart with req := r }, by decide +kernel, by unfold Claims.Inv; decide +kernel, by unfold Claims.Inv; decide +kernel, by decide +kernel, by unfold Claims.Inv; decide +kernel,
    by decide +kernel, by decide, ⟨_, List.mem_singleton_self _, rfl, rfl, rfl⟩, by decide +kernel⟩

/-- The part at a time, with one link that last beat at 0. -/
def silent (alive : Bool) (time : Nat) : State :=
  { world tHart with time := time, agents := [(.link 0, { alive := alive, incarnation := 3, lastBeat := 0, mute := false })] }

theorem witness_AgentsAndLinks :
    (silent true 9999).agents.lookup (.link 0) = some { alive := true, incarnation := 3, lastBeat := 0, mute := false } ∧ (silent true 9999).time < 0 + 10000 ∧ 0 + 1000 ≤ (silent true 9999).time ∧
    0 + 10000 ≤ (silent true 10000).time ∧ (silent false 0).agents.lookup (.link 0) = some { alive := false, incarnation := 3, lastBeat := 0, mute := false } ∧ (4 : Nat) ≠ 3 ∧
    (let d := (silent true 0).linkDir 0 true
     let l := [LinkWord.raw 5, .same, .zero, .zero, .raw 6, .same, .same, .zero]
     let ws : List Word := [5, 5, 0, 0, 6, 6, 6, 0]
     let crc := Config.sectorCrc (ws.map fun w => leBytes 8 w.toNat).flatten
     d.stopped = [] ∧ l.length = 8 ∧ decodeSector d.rx none l = some ws ∧ d.tx = d.rx ∧ d.waiting = [] ∧ crc = crc ∧ crc ≠ crc + 1 ∧
       decodeSector d.rx none (.slot 0 :: l.drop 1) = none ∧ (d.rx.filled ≤ (0 : Fin 256).val)) ∧
    (let d : LinkDir := { LinkDir.reset with waiting := [[5]], stopped := [dataClass], free := Vector.replicate 3 0 }
     let s : State := { silent true 0 with links := (silent true 0).links.set 0 (Vector.replicate 2 d) }
     s.linkDir 0 true = d ∧ d.waiting = [5] :: [] ∧ [LinkWord.zero] ≠ [(5 : Word)].map LinkWord.raw ∧ dataClass ∈ d.stopped ∧ d.free[dataClass] < sectorFlits [.zero] 0) := by
  refine ⟨by decide +kernel, by decide, by decide, by decide, by decide +kernel, by decide, ⟨by decide +kernel, by decide, by decide +kernel, rfl, by decide +kernel, rfl, ?_,
    by decide +kernel, by decide +kernel⟩, by decide +kernel⟩
  intro e
  have h := congrArg (fun x : BitVec 16 => x - Config.sectorCrc (([5, 5, 0, 0, 6, 6, 6, 0] : List Word).map fun w => leBytes 8 w.toNat).flatten) e
  simp [BitVec.add_comm, BitVec.add_sub_cancel] at h

/-- A core at the floor of its budgets. -/
def floorCore (c : Nat) : Core := { core := c, lanes := (laneRange (clsOf c)).1, matrix := (matrixRange (clsOf c)).1, fenced := false }

theorem floor_found (l : List Nat) (c : Nat) (h : c ∈ l) : (l.map floorCore).find? (fun x => x.core == c) = some (floorCore c) := by
  induction l with
  | nil => cases h
  | cons a l ih =>
    by_cases k : a = c
    · simp [floorCore, k]
    · have m : c ∈ l := (List.mem_cons.mp h).resolve_left fun e => k e.symm
      simp [floorCore, k] at ih ⊢
      exact ih m

def lowWorld (l : List Core) : State := { world tHart with cores := l }

theorem low_cores (l : List Core) : (lowWorld l).cores = l := rfl

theorem low_floor : (lowWorld (budgetCores.map floorCore)).atFloor = true := by
  refine List.all_eq_true.mpr fun c m => ?_
  have e : (lowWorld (budgetCores.map floorCore)).core c = floorCore c := by rw [State.core, low_cores, floor_found budgetCores c m, Option.getD_some]
  rw [e]; simp [floorCore]

theorem witness_PowerAndClamps :
    (lowWorld (budgetCores.map floorCore)).atFloor = true ∧ (world tHart).atFloor = false ∧ (world tHart).lowCount < 9 ∧ ({ world tHart with lowCount := 9 } : State).lowCount = 9 ∧
    (∀ n : Fin 24, (world tHart).targetMhz ≤ ((world tHart).islands[n]).mhz) := by
  refine ⟨low_floor, by decide +kernel, by decide, by decide, by decide +kernel⟩

/-- The first byte of the digest of "abc" that FIPS 180-4 works out. -/
theorem test_sha256 : (sha256 [0x61, 0x62, 0x63]).head? = some 0xBA := by decide +kernel

/-- A signature of the right form, with leaf 0, and the first 24 bytes of a key. -/
def formal : Image :=
  { version := 1, bytes := [7],
    signature := List.replicate 7 0 ++ 3 :: List.replicate 2179 0 ++ 6 :: List.replicate 320 0 }
def keyHead : List Byte := beBytes 4 6 ++ beBytes 4 3 ++ List.replicate 16 0

/-- A key under which it is good: that of the root that it yields. -/
theorem formal_verifies : ∃ key, lmsVerifies key formal.signature (imageMessage formal) = true := by
  have r : ∃ x, lmsRoot keyHead formal.signature (imageMessage formal) = some x := by
    unfold lmsRoot
    exact ⟨_, if_neg (by decide +kernel)⟩
  obtain ⟨x, h⟩ := r
  refine ⟨keyHead ++ x, ?_⟩
  have n : keyHead.length = 24 := by decide
  simp only [lmsVerifies, ← n, List.take_left, List.drop_left, h, beq_self_eq_true]

/-- The part whose fuses name the digest of a key, after a boot of version 64. -/
def ownedBy (k : List Byte) : State :=
  { world tHart with fw := { State.reset.fw with step := 6, rincaVersion := 64, mVersion := 64, mainPower := true }, limit := { State.reset.limit with owner := sha256 k } }

theorem owner_of (k : List Byte) : sha256 k = (ownedBy k).limit.owner := rfl

theorem witness_PlatformEvents :
    let s := world tHart
    let u := fun f : Firmware => ({ s with fw := f } : State)
    let a : Authority := { session := true, chain := true, key := [7] }
    let owned := ownedBy [7]
    (s.hart? { part := partNo 0, id := (1 : Half).toNat } = some tHart ∧ tHart.sched.status ≠ .parked) ∧
    (a.session = true ∧ a.chain = true ∧ sha256 a.key = owned.limit.owner ∧ owned.fw.recovery = false ∧ owned.fw.mainPower = true ∧ 6 ≤ owned.fw.step ∧
      owned.limit.fuses < min owned.fw.rincaVersion owned.fw.mVersion ∧ min owned.fw.rincaVersion owned.fw.mVersion ≤ 64) ∧
    (s.fw.step < 6 ∧ ({ a with session := false } : Authority).session = false) ∧
    s.limit.leaf < 2 ^ 20 ∧ s.featClosed = false ∧ s.hostUp = true ∧ ({ s with featClosed := true } : State).featClosed = true ∧
    (s.fw.staged = [] ∧ (∃ key, (u { s.fw with key := key }).verifies formal = true) ∧ lmsVerifies (u { s.fw with key := [] }).fw.key formal.signature (imageMessage formal) = false ∧
      ({ formal with version := 0 } : Image).version < ({ s with limit := { s.limit with fuses := 1 } } : State).limit.fuses) ∧
    (storeBytes (clsOf 300) ≠ 0 ∧ s.fenced 300 = false ∧ (∀ j, j ∈ slotIds 300 → (s.slot j).occupant = none) ∧ clusterOf 300 ∉ s.spares ∧ s.corrupt = [] ∧
      clusterOf 300 ∈ ({ s with spares := [clusterOf 300] } : State).spares ∧ ∀ h, h ∈ s.harts → h.sched.status ≠ .moving) := by
  refine ⟨⟨world_hart tHart, by decide⟩, ⟨rfl, rfl, owner_of _, by decide +kernel, by decide +kernel, by decide +kernel, by decide +kernel, by decide +kernel⟩, by decide +kernel,
    by decide +kernel, by decide +kernel, by decide +kernel, by decide +kernel, ⟨by decide +kernel, ?_, by decide +kernel, by decide +kernel⟩, by decide +kernel⟩
  obtain ⟨key, h⟩ := formal_verifies
  have f : (world tHart).limit.fuses ≤ formal.version := by decide +kernel
  exact ⟨key, by simp only [State.verifies, h, Bool.true_and]; exact decide_eq_true f⟩

/-- What step looks at before it fetches: no event from outside, a hart's turn, and nothing to do at its boundary. -/
def turnOf (s : State) (h : Hart) : Prop :=
  let b : State := { s with inputs := s.inputs.drop 1 }
  s.input? = none ∧ s.eventTurn = false ∧ b.nextHart = some h ∧ ({ b with cur := some h.key, eventTurn := true, issued := b.issuedBy h } : State).boundary h = none
/-- What a fetch of an instruction gives: its words (and 0), a trap (1) or a wait (2). -/
def fetchKind : FetchedInsn → Nat × Half × Half
  | .insn _ a b => (0, a, b)
  | .trap _ _ => (1, 0, 0)
  | .wait _ => (2, 0, 0)
/-- The fetch of a step. -/
def fetched (s : State) (h : Hart) : Nat × Half × Half :=
  let b : State := { s with inputs := s.inputs.drop 1 }
  fetchKind (({ b with cur := some h.key, eventTurn := true, issued := b.issuedBy h } : State).fetchInsn h)
def lost : Hart := { hart 16 .t with pc := 0x10000 }
/-- The page in host memory whose port is in CXL mode: the fetch has to ask for its sector. -/
def cxlWorld (h : Hart) : State := { hostWorld h with ports := Vector.replicate 2 { cxl := true, atomicEnable := false } }

theorem turn_idle {s : State} {h : Hart} (a : s.input? = none) (b : s.eventTurn = false) (c : decide (({ s with inputs := s.inputs.drop 1 } : State).nextHart = some h) = true)
    (d : (({ s with inputs := s.inputs.drop 1, cur := some h.key, eventTurn := true, issued := ({ s with inputs := s.inputs.drop 1 } : State).issuedBy h } : State).boundary h).isNone
      = true) : turnOf s h :=
  ⟨a, b, of_decide_eq_true c, Option.isNone_iff_eq_none.mp d⟩

theorem witness_StepRunsDecoded :
    (turnOf (world tHart) tHart ∧ (fetched (world tHart) tHart).1 = 0 ∧ (decodeWords 0x04640000 0).toOption.isSome = true ∧
      fetched ((world tHart).writeNat 0x4000000100 4 0x04642800) tHart = (0, 0x04642800, 0)) ∧
    (fetched ((world tHart).writeNat 0x4000000100 4 0x90000105) tHart = (0, 0x90000105, 0) ∧ (decodeWords 0x90000105 0).toOption = none) ∧
    (turnOf (world lost) lost ∧ (fetched (world lost) lost).1 = 1 ∧ lost.level = .t) ∧
    (turnOf (cxlWorld tHart) tHart ∧ (fetched (cxlWorld tHart) tHart).1 = 2) ∧
    ((world tHart).codeFailed tHart tHart.pc = none ∧ (world tHart).access tHart.ctx tHart.pc .fetch = .ok (pg tHart 0x100) ∧
      FetchReady (world tHart) tHart tHart.pc (pg tHart 0x100) ∧ ∃ e, (world lost).access lost.ctx lost.pc .fetch = .error e) ∧
    (let c := { tHart with checked := [(0x100, 0x34000003)] }
     c.checked.lookup c.pc = some 0x34000003 ∧ tHart.checked.lookup lost.pc = none) ∧
    (let s := (world tHart).writeNat 0x4000000100 8 0xE0000000
     fetched s tHart = (0, 0xE0000000, 0) ∧ 0x38 * 2 ^ 26 ≤ (0xE0000000 : Half).toNat ∧ (0xE0000000 : Half).toNat < 0x3F * 2 ^ 26) ∧
    (let e := { tHart with pc := 0xFFC }
     let s := (world e).writeNat 0x4000000FFC 4 0xE0000000
     (fetched s e).1 = 1 ∧ fetchedWord (s.fetchGet e 0xFFC) = some 0xE0000000 ∧ s.codeFailed e 0x1000 = none ∧ (s.access e.ctx 0x1000 .fetch).toOption.isSome = false) ∧
    ({ world tHart with inputs := [some (.doorbell 0 1)] } : State).input? = some (.doorbell 0 1) := by
  refine ⟨⟨turn_idle (by decide +kernel) rfl (by decide +kernel) (by decide +kernel), by decide +kernel, by decide +kernel, by decide +kernel⟩, by decide +kernel,
    ⟨turn_idle (by decide +kernel) rfl (by decide +kernel) (by decide +kernel), by decide +kernel, rfl⟩,
    ⟨turn_idle (by decide +kernel) rfl (by decide +kernel) (by decide +kernel), by decide +kernel⟩,
    ⟨by decide +kernel, ok_of (by decide +kernel), ⟨by decide +kernel, by decide +kernel, read_ready (by decide +kernel) (by decide +kernel)⟩, _, rfl⟩,
    by decide +kernel, by decide +kernel, by decide +kernel, by decide +kernel⟩

theorem witness_StepKeepsMemory : Claims.Inv State.reset ∧ Claims.Inv (world tHart) := by
  unfold Claims.Inv; decide +kernel

theorem witness_EncodeDecode :
    (wf (.add 3 4 5) = true ∧ encode (.add 3 4 5) = [0x04642800]) ∧
    (wf (.vfadd ⟨3, 1, .vec 2, 2, .f32, .rtz, false, 0⟩) = true ∧ encode (.vfadd ⟨3, 1, .vec 2, 2, .f32, .rtz, false, 0⟩) = [0xE4611012, 0x00000090]) ∧
    (decodeWords 0x04642800 7).toOption = some (.add 3 4 5) := by
  decide +kernel

/-! ### Witnesses of single clauses -/

theorem witness_PcieAtomics_sent :
    let i : Instr := .amoadd_d 5 0 6 .relaxed .system
    let g := { tHart with req := .atomicOp 0x80000000000000 0 8 .fetchAdd 0 0 }
    let gone : State := { hostWorld g with agents := (hostWorld g).agents.map fun a => if a.1 == .port 0 then (a.1, { a.2 with alive := false }) else a }
    tHart.sent = false ∧ (Ready (hostWorld g) g i ∧ g.req = .atomicOp 0x80000000000000 0 8 .fetchAdd 0 0 ∧ (hostWorld g).deadAt 0x80000000000000 = none) ∧
    (Ready gone g i ∧ gone.deadAt 0x80000000000000 = some (.port 0, 0) ∧ g.level = .t) ∧
    (∀ r, r ∈ [PcieReply.unsupported, .abort, .poisoned] → let z := { tHart with req := .atomicDone 0x80000000000000 r }
      Ready (hostWorld z) z i ∧ z.req = .atomicDone 0x80000000000000 r ∧ z.level = .t) := by
  refine ⟨rfl, ⟨host_ready (by decide +kernel), rfl, by decide +kernel⟩, ⟨any_ready (by decide +kernel), by decide +kernel, rfl⟩, fun r m => ?_⟩
  simp only [List.mem_cons, List.not_mem_nil, or_false] at m
  rcases m with rfl | rfl | rfl <;> exact ⟨host_ready (by decide +kernel), rfl, rfl⟩

/-- The page with other permissions, of a vault, or to another place. -/
def pageWorld (perm : BitVec 8) (vault : BitVec 8) (pa : Nat) (l : List Vault) : State :=
  { (partWorld tHart fun p => { p with vaults := l }) with
    tlb := [{ core := 16, part := 0, asid := 0, global := false, vpage := 0, ppage := pa, size := 4096, perm := perm, vault := vault }] }

theorem witness_AccessTraps_translation :
    let i : Instr := .ldd 5 0 0x100
    let j : Instr := .std 5 0 0x100
    let far := (tHart.setX 4 (BitVec.ofNat 64 (2 ^ 60)))
    let out := { tHart with csr := { tHart.csr with asid := 7 } }
    let w := world tHart
    let v := fun (st : VaultState) (n : Nat) => ({ vault st with write := n } : Vault)
    let reaches := fun (s : State) (i : Instr) (x : Xlat) => Ready s tHart i ∧ s.translate tHart.ctx 0x100 = .ok x ∧ s.cached x.pa = true ∧ x.vault ≠ 255
    (addrOf far (.ldd 5 4 0) = some (BitVec.ofNat 64 (2 ^ 60), 8) ∧ Ready (world far) far (.ldd 5 4 0) ∧ (BitVec.ofNat 64 (2 ^ 60)).extractLsb' 56 8 ≠ 0#8 ∧
      (BitVec.ofNat 64 (2 ^ 60)).extractLsb' 56 8 ≠ 0xFF#8) ∧
    (Ready (world out) out i ∧ ((world out).part out.key.part).ownsAsid out.csr.asid = false ∧ out.level ≠ .m ∧ canonical 0x100 = true) ∧
    (Ready w tHart (.ldd 5 0 0x1000) ∧ (w.part tHart.key.part).ownsAsid tHart.csr.asid = true ∧ w.tlbHit tHart.ctx 0x1000 = none ∧
      ∃ lv, w.walk tHart.ctx 0x1000 4 (tHart.csr.root.toNat * 4096) = .error lv) ∧
    (let s := pageWorld 0x3F 255 (2 ^ 50) []
     Ready s tHart i ∧ ∃ e, s.tlbHit tHart.ctx 0x100 = some e ∧ s.resolve tHart.ctx.home (e.ppage + (0x100 - e.vpage)) = none) ∧
    (let s := pageWorld 0x3B 255 0x4000000000 []
     Ready s tHart i ∧ ∃ x, s.translate tHart.ctx 0x100 = .ok x ∧ x.entry.perm.getLsbD 2 = false) ∧
    ((∃ x, reaches (pageWorld 0x3F 3 0x4000000000 []) i x) ∧ ((pageWorld 0x3F 3 0x4000000000 []).part 0).vault? 3 = none) ∧
    ((∃ x, reaches (pageWorld 0x3F 3 0x4000000000 [v .dropping 0]) i x) ∧ ((pageWorld 0x3F 3 0x4000000000 [v .dropping 0]).part 0).vault? 3 = some (v .dropping 0)) ∧
    ((∃ x, reaches (pageWorld 0x3F 3 0x4000000000 [v .active 3]) j x) ∧ ((pageWorld 0x3F 3 0x4000000000 [v .active 3]).part 0).vault? 3 = some (v .active 3) ∧
      needOf tHart j = .store) ∧
    (∃ r lv, w.access tHart.ctx 0x1000 .fetch = .error (.page r lv)) ∧ tHart.checked.lookup 0x1000 = none ∧ w.codeFailed tHart 0x1000 = none := by
  refine ⟨⟨rfl, world_ready (by decide +kernel), by decide, by decide⟩, ⟨world_ready (by decide +kernel), by decide +kernel, by decide, by decide⟩,
    ⟨world_ready (by decide +kernel), by decide +kernel, by decide +kernel, _, rfl⟩, ⟨any_ready (by decide +kernel), _, rfl, by decide +kernel⟩,
    ⟨any_ready (by decide +kernel), _, rfl, by decide +kernel⟩, ⟨⟨_, any_ready (by decide +kernel), rfl, by decide +kernel, by decide +kernel⟩, by decide +kernel⟩,
    ⟨⟨_, any_ready (by decide +kernel), rfl, by decide +kernel, by decide +kernel⟩, by decide +kernel⟩,
    ⟨⟨_, any_ready (by decide +kernel), rfl, by decide +kernel, by decide +kernel⟩, by decide +kernel, rfl⟩, ⟨_, _, rfl⟩, rfl, by decide +kernel⟩

/-- What a fetch gives where it fails. -/
def fetchTraps : Fetched → Bool
  | .word _ _ => false
  | .trap _ _ => true
  | .wait _ => false

theorem trap_of {f : Fetched} (h : fetchTraps f = true) : ∃ u t, f = .trap u t := by
  cases f with
  | word _ _ => cases h
  | trap u t => exact ⟨u, t, rfl⟩
  | wait _ => cases h

theorem witness_IndirectJumps_traps :
    let g := tHart.setX 5 0x101
    let c := { (tHart.setX 5 0x2000) with csr := { tHart.csr with cfien := true } }
    (Ready (world g) g (.ret 5) ∧ g.getX 5 &&& 3 ≠ 0 ∧ g.level = .t) ∧
    (Ready (world c) c (.jx 5) ∧ c.getX 5 &&& 3 = 0 ∧ ∃ u t, (world c).fetchGet c (c.getX 5) = .trap u t) :=
  ⟨⟨world_ready (by decide +kernel), by decide +kernel, rfl⟩, ⟨world_ready (by decide +kernel), by decide +kernel, trap_of (by decide +kernel)⟩⟩

theorem witness_CsrInstructions_owner :
    let own : Word := 0x100010000
    (∃ i, tHart.sched.slot = some i) ∧ tHart.core < 848 ∧ tHart.eng.mbx.length ≤ 64 ∧ tHart.eng.spill.length ≤ 1024 ∧ (∃ d : Fin 6, dieOf tHart.core = d.val) ∧
    (∃ n : Fin 24, (world tHart).misland.toNat = n.val) ∧ own.getLsbD 16 = true ∧ (own.extractLsb' 32 32).toNat = tHart.key.id ∧ own.extractLsb' 0 10 = tHart.csr.asid ∧
    (0x200010000 : Word).getLsbD 16 = true ∧ ((0x200010000 : Word).extractLsb' 32 32).toNat ≠ tHart.key.id ∧ (0 : Word).getLsbD 16 = false :=
  ⟨⟨_, rfl⟩, by decide, by decide, by decide, ⟨1, by decide⟩, ⟨0, by decide⟩, by decide, by decide, by decide, by decide, by decide, by decide⟩

theorem witness_ChecksInOrder_waits :
    let q := { sHart with queue := [entryOf sHart (.kand 1 2 3 0) 0 0 0] }
    let w := { wHart with queue := [entryOf wHart (.kand 1 2 3 0) 0 0 0] }
    let off := fun h : Hart => ({ world h with featReq := 0 } : State)
    (q.level ≠ .t ∧ q.queue ≠ [] ∧ (world q).curHart? = some q ∧ (off q).featureOn (.fadd 1 2 3 false .dyn) = false ∧ (off q).curHart? = some q ∧
      encode (.fadd 1 2 3 false .dyn) ≠ []) ∧
    ((world q).featureOn (.csrwr 0 1 0x011) = true ∧ minLevel (.csrwr 0 1 0x011) ≤ q.level.code.toNat ∧ writesReadOnly (.csrwr 0 1 0x011) = true) ∧
    ((world q).featureOn (.csrrd 1 0x200) = true ∧ q.level.code.toNat < minLevel (.csrrd 1 0x200)) ∧
    (w.queue ≠ [] ∧ (world w).curHart? = some w ∧ implements w.cls (.fdiv 1 2 3 true .dyn) = false ∧ (world w).featureOn (.fdiv 1 2 3 true .dyn) = true ∧
      writesReadOnly (.fdiv 1 2 3 true .dyn) = false) ∧
    (tHart.queue = [] ∧ tHart.csr.pin = false ∧ implements tHart.cls (.mexit 0) = false) :=
  ⟨⟨by decide, by decide, world_cur _, by decide +kernel, by decide +kernel, by decide⟩, ⟨by decide +kernel, by decide +kernel, by decide⟩, ⟨by decide +kernel, by decide +kernel⟩,
    ⟨by decide, world_cur _, by decide +kernel, by decide +kernel, by decide⟩, by decide +kernel⟩

/-- The image that the handler finds, with a COUNT of 33, and as one of another class, of a hart under PIN. -/
def longImage : State := saved.writeNat 0x4000001800 1 33
def movedHart : Hart := { savedHart with csr := { savedHart.csr with pin := true } }
def movedImage : State := (saved.writeNat 0x4000001801 1 2).modHart savedHart.key fun _ => movedHart

theorem witness_ImageReissue_eret :
    let other : State := { saved with slots := saved.slots.map fun x => { x with hart := 7 } }
    let a := 0x4000001000
    (Ready saved savedHart .eret ∧ savedHart.level ≠ .t ∧ savedHart.csr.pp = 0 ∧ savedHart.queue = [] ∧ savedHart.area = some a ∧ 0 < saved.imageCount a ∧
      saved.imageCls a = savedHart.cls.code ∧ saved.imageCount a ≤ 32 ∧ saved.owns savedHart = true) ∧
    (Ready other savedHart .eret ∧ other.owns savedHart = false ∧ firstVector (other.imageEntries a) = some 0 ∧ 0 < other.imageCount a ∧ savedHart.csr.evec ≠ 0) ∧
    (Ready longImage savedHart .eret ∧ longImage.hart? savedHart.key = some savedHart ∧ longImage.imageCls a = savedHart.cls.code ∧ longImage.imageCount a = 33) ∧
    (Ready movedImage movedHart .eret ∧ movedImage.hart? movedHart.key = some movedHart ∧ 0 < movedImage.imageCount a ∧ movedImage.imageCls a ≠ movedHart.cls.code ∧
      movedHart.csr.pin = true ∧ movedHart.csr.pp = 0 ∧ movedHart.level ≠ .t ∧ movedHart.queue = [] ∧ movedHart.area = some a) := by
  exact ⟨⟨any_ready (by decide +kernel), by decide +kernel⟩, ⟨any_ready (by decide +kernel), by decide +kernel⟩, ⟨any_ready (by decide +kernel), by decide +kernel⟩,
    any_ready (by decide +kernel), by decide +kernel⟩

/-- A hart under single step whose STEP is due, and the same with an entry in its queue. -/
def stepHart (q : List Entry) : Hart :=
  { aHart with csr := { aHart.csr with step := true }, sched := { aHart.sched with stepDue := some 0x100 }, queue := q }

theorem witness_BoundaryTraps_step :
    let h := stepHart []
    let q := stepHart [entryOf tHart (.kand 1 2 3 0) 0 0 0]
    let b : State := { world h with inputs := (world h).inputs.drop 1 }
    ((world h).hart? h.key = some h ∧ h.level = .t ∧ h.csr.step = true ∧ h.sched.stepDue = some 0x100 ∧ h.sched.resume = false ∧ h.sched.rotate = false ∧ h.sent = false ∧
      h.queue = [] ∧ h.csr.evec ≠ 0 ∧ (world h).input? = none ∧ (world h).eventTurn = false ∧ b.nextHart = some h) ∧
    (q.sched.stepDue = some 0x100 ∧ q.sched.resume = false ∧ q.sched.rotate = false ∧ q.sent = false ∧ q.level = .t ∧ q.csr.step = true ∧ q.queue ≠ [] ∧
      q.sched.status ≠ .waiting) := by
  refine ⟨⟨world_hart _, ?_⟩, ?_⟩ <;> decide +kernel

/-- An entry of one hart of any class with DEPTH 1, and a partition that has it as entry 0. -/
def entryRec : EntryRec := { code := 0x400, word := 0x101030001, rsv0 := 0, rsv1 := 0 }
def entryPart (l : List Task) (p : Part) : Part := { p with entries := [(0, entryRec)], tasks := l }

/-- The checks of R313 of entry 0 at depth 0 and 1. -/
theorem witness_launches :
    let p := fun l => (partWorld tHart (entryPart l)).part 0
    (∀ d, LaunchRefused ((world tHart).part 0) 0 d (-3)) ∧ Launches (p []) 0 1 entryRec ∧ Launches (p []) 0 0 entryRec ∧ LaunchRefused (p []) 0 2 (-2) ∧
    LaunchRefused { p [] with ctl := { (p []).ctl with clusters := 0 } } 0 1 (-4) ∧ LaunchRefused (p (List.replicate 8192 (task 0 9 (.hart 0)))) 0 1 (-1) := by
  have n : ((world tHart).part 0).entries.lookup 0 = none := by decide +kernel
  have k : Launchable ((partWorld tHart (entryPart [])).part 0) 0 entryRec := by unfold Launchable; decide +kernel
  have m : Launchable ((partWorld tHart (entryPart (List.replicate 8192 (task 0 9 (.hart 0))))).part 0) 0 entryRec := by unfold Launchable; decide +kernel
  have c : ClassHeld ((partWorld tHart (entryPart [])).part 0) entryRec := ⟨0, by decide, by decide +kernel, .inl (by decide +kernel)⟩
  have d : ClassHeld ((partWorld tHart (entryPart (List.replicate 8192 (task 0 9 (.hart 0))))).part 0) entryRec := ⟨0, by decide, by decide +kernel, .inl (by decide +kernel)⟩
  refine ⟨fun d => .inl ⟨fun e h => ?_, rfl⟩, ⟨k, by decide +kernel, c, by decide +kernel⟩, ⟨k, by decide +kernel, c, by decide +kernel⟩, .inr ⟨_, k, .inl ⟨by decide +kernel, rfl⟩⟩,
    .inr ⟨_, k, .inr (.inl ⟨by decide +kernel, ?_, rfl⟩)⟩, .inr ⟨_, m, .inr (.inr ⟨by decide +kernel, d, by decide +kernel, rfl⟩)⟩⟩
  · have l : ((world tHart).part 0).entries.lookup 0 = some e := h.2.1
    rw [n] at l; cases l
  · rintro ⟨c, _, h, _⟩; simp at h

theorem witness_Tasks_launch :
    Ready (world tHart) tHart (.launch 3 4 5) ∧ (tHart.getX 4).toNat = 0 ∧ (world tHart).taskOf tHart = none ∧
    Ready (partWorld tHart (entryPart [])) tHart (.launch 3 4 5) ∧ ordRelease (partWorld tHart (entryPart [])) tHart .package = none :=
  ⟨world_ready (by decide +kernel), rfl, by decide +kernel, part_ready (by decide +kernel), by decide +kernel⟩

theorem witness_HostCommands_launch :
    let s := commandWorld (cmd 1 0 0) (entryPart [])
    (s.queueRuns 0 0 = true ∧ s.command 0 0 = some { op := 1, index := 0, arg := 0, good := true } ∧ Launches (s.part (partNo 0)) 0 0 entryRec) ∧
    (let t := commandWorld (cmd 1 7 0) id
     t.queueRuns 0 0 = true ∧ t.command 0 0 = some { op := 1, index := 7, arg := 0, good := true } ∧ LaunchRefused (t.part (partNo 0)) 7 0 (-3)) := by
  refine ⟨⟨by decide +kernel, by decide +kernel, by unfold Launchable; decide +kernel, by decide +kernel, ⟨0, by decide, by decide +kernel, .inl (by decide +kernel)⟩, by decide +kernel⟩,
    by decide +kernel, by decide +kernel, .inl ⟨fun e h => ?_, rfl⟩⟩
  have n : ((commandWorld (cmd 1 7 0) id).part (partNo 0)).entries.lookup 7 = none := by decide +kernel
  have l : ((commandWorld (cmd 1 7 0) id).part (partNo 0)).entries.lookup 7 = some e := h.2.1
  rw [n] at l; cases l

theorem witness_VectorLoads_progress :
    let e := { memOut (.vld memOp) 1 with paddrs := [(0, 255, 0x80000000000000)] }
    let h := holding tHart e none
    let s : State := { cxlWorld h with time := 1000 }
    Turn s h.key h slot16 0 e (.vld memOp) ∧ e.issued = true ∧ e.limit ≠ 0 ∧ e.limit.toNat ≤ (s.time - e.since) * s.mhzOf h.core / 1000 ∧
    (e.paddrs.find? fun x => s.awaits { hart := h, slot := slot16, entry := e } (.load 1 0 0) x) = some (0, 255, 0x80000000000000) ∧
    Present ((world h).slot slot16) [1] [0] :=
  ⟨turn_of (by decide +kernel) (by decide +kernel), rfl, by decide, by decide +kernel, by decide +kernel, by unfold Present; decide +kernel⟩

/-- A hart that waits with an instruction, and one that waits at the head of its queue. -/
def waiter (h : Hart) (i : Option Instr) : Hart := { h with sched := { h.sched with status := .waiting }, waitFor := i }

theorem witness_WaitsEnd_each :
    let c := fun i => waiter ((tHart.setX 4 0x20001).setX 5 9) (some i)
    let s := fun h f => ({ partWorld h f with cur := some h.key } : State)
    let kids := fun (p : Part) => { p with tasks := [task 0 9 (.hart 0)] }
    let can := fun h f i => h.sched.status = .waiting ∧ h.waitFor = some i ∧ Ready (s h f) h i
    (can (c (.join 3 5)) id (.join 3 5) ∧ ((s (c (.join 3 5)) id).part 0).tasks = []) ∧
    (can (c (.join 3 5)) kids (.join 3 5) ∧ (((s (c (.join 3 5)) kids).part 0).tasks.find? fun t => zext64 t.handle == 9 && t.source == .hart (0 : Half) && t.handle != 0) =
      some (task 0 9 (.hart 0)) ∧ (task 0 9 (.hart 0)).pending = false ∧ (task 0 9 (.hart 0)).live = 0) ∧
    (can (c (.fclaim 3 4)) id (.fclaim 3 4) ∧ ((s (c (.fclaim 3 4)) id).part 0).farm? 0x20001 = none) ∧
    (can (c (.fclaim 3 4)) (farmPart (aFarm 3 0 0)) (.fclaim 3 4) ∧ ((s (c (.fclaim 3 4)) (farmPart (aFarm 3 0 0))).part 0).farm? 0x20001 = some (aFarm 3 0 0) ∧
      (aFarm 3 0 0).total ≤ (aFarm 3 0 0).claim * (aFarm 3 0 0).strip) ∧
    (can (c (.fclaim 3 4)) (farmPart (aFarm 2 0 0)) (.fclaim 3 4) ∧ ((s (c (.fclaim 3 4)) (farmPart (aFarm 2 0 0))).part 0).farm? 0x20001 = some (aFarm 2 0 0) ∧
      (aFarm 2 0 0).claim * (aFarm 2 0 0).strip < (aFarm 2 0 0).total ∧ (aFarm 2 0 0).claim < (aFarm 2 0 0).mark / (aFarm 2 0 0).strip + 4096 ∧
      ((s (c (.fclaim 3 4)) (farmPart (aFarm 2 0 0))).part 0).upstreamReady (aFarm 2 0 0) = true) ∧
    (let h := waiter (arrived 4) (some (.barWait 4 .system))
     let t := { memWorld h 16 block with cur := some h.key }
     h.sched.status = .waiting ∧ h.waitFor = some (.barWait 4 .system) ∧ Ready t h (.barWait 4 .system) ∧ (h.getX 4).toNat % 64 = 0 ∧
       t.access h.ctx (h.getX 4) .atomic = .ok (pg h 0) ∧ Plain (pg h 0).pa ∧ t.deadAt (pg h 0).pa = none ∧ t.silentAt (pg h 0).pa = false ∧
       t.corrupted (pg h 0).pa = false ∧ h.arriving (h.getX 4) = false ∧ t.scalarLocked h (h.getX 4) 64 = false ∧ h.pathHolds (pg h 0).pa 64 = false ∧
       h.eng.arrivals.lookup (h.getX 4) ≠ some (t.phase (pg h 0).pa)) := by
  refine ⟨⟨⟨rfl, rfl, any_ready (by decide +kernel)⟩, by decide +kernel⟩, ⟨⟨rfl, rfl, any_ready (by decide +kernel)⟩, by decide +kernel⟩,
    ⟨⟨rfl, rfl, any_ready (by decide +kernel)⟩, by decide +kernel⟩, ⟨⟨rfl, rfl, any_ready (by decide +kernel)⟩, by decide +kernel⟩,
    ⟨⟨rfl, rfl, any_ready (by decide +kernel)⟩, by decide +kernel⟩,
    rfl, rfl, any_ready (by decide +kernel), by decide +kernel, ok_of (by decide +kernel), trivial, by decide +kernel⟩

theorem witness_WaitsEnd_queue :
    let g := Engine.start
    let w := fun i n => waiter { engaged i 4 0 n with eng := n } none
    let can := fun i n => (w i n).waitFor = none ∧ (w i n).sched.status = .waiting ∧ Turn (world (w i n)) (w i n).key (w i n) slot16 0 (entryOf tHart i 4 0 0) i
    (can (.cbinit 4 9 0) g ∧ (g.cb[(9 : Fin 64)]).infl = 0) ∧ can (.cbwait 3 9 0) { g with cb := g.cb.set 9 ⟨1, 1, 1⟩ } ∧
    can (.waitmsg 0) { g with mbx := [{ lo := 1, hi := 2 }] } ∧ (can (.collwait 3 4 0) g ∧ g.colls = []) ∧ can (.collwait 3 4 0) { g with colls := [(4, some 0)] } := by
  refine ⟨⟨⟨rfl, rfl, turn_of (world_hart _) (by decide +kernel)⟩, by decide +kernel⟩, ⟨rfl, rfl, turn_of (world_hart _) (by decide +kernel)⟩,
    ⟨rfl, rfl, turn_of (world_hart _) (by decide +kernel)⟩, ⟨⟨rfl, rfl, turn_of (world_hart _) (by decide +kernel)⟩, rfl⟩, rfl, rfl, turn_of (world_hart _) (by decide +kernel)⟩

/-- The record in HBM, of which no sector is asked of a host, and in host memory, where the port has granted it. -/
theorem witness_VaultInstructions_hint :
    (∀ y, y ∈ (world sHart).readNeeds (sHart.via (pg sHart 0)) (pg sHart 0).pa 256 (some true) → Granted ((world sHart).cxlState y) false) := by
  intro y m
  have e : (world sHart).readNeeds (sHart.via (pg sHart 0)) (pg sHart 0).pa 256 (some true) = [] := by decide +kernel
  rw [e] at m; cases m

/-- A dirty line of the page's vault that saves other bytes. -/
def dirtyLine : Line := { line with slice := 0, sectors := [.dirty (List.replicate 64 9)] }
def lineWorld : State := { pageWorld 0x3F 3 0x4000000000 [vault .active] with lines := [dirtyLine] }

theorem witness_CacheMaintenance_cinv :
    let h := tHart.setX 5 64
    let s : State := { lineWorld with harts := [h] }
    Claims.Inv s ∧ s.hart? h.key = some h ∧ Ready s h (.cinv 4 5) ∧ h.getX 5 ≠ 0 ∧
    (∃ x, rangeCheck s h (h.getX 4) (h.getX 5).toNat (some .store) true = .ok [(x, 64)] ∧ dirtyLine.inPiece h.key.part (x, 64) = true ∧ dirtyLine.within (x, 64) = true ∧
      s.writeBackWaits h.key.part (x, 64) = false) ∧
    s.rangeBusy h (h.getX 4) (h.getX 5).toNat = false ∧ (release s h .package fun _ => true) = none ∧ s.corrupt = [] ∧
    s.lines = [dirtyLine] ∧ dirtyLine.sectors[0]? = some (.dirty (List.replicate 64 9)) ∧ (List.replicate 64 (9 : Byte)).length = 64 ∧ dirtyLine.holds 0x4000000000 = true := by
  refine ⟨by unfold Claims.Inv; decide +kernel, by decide +kernel, any_ready (by decide +kernel), by decide, ?_, by decide +kernel, by decide +kernel, rfl, rfl, rfl, rfl, by decide⟩
  exact ⟨_, rfl, by decide +kernel, by decide +kernel, by decide +kernel⟩

/-- A region of die 1 in R that closes, with a reader of die 3 waiting. -/
def closingRegion (l : List (Nat × Nat)) (w : List (Nat × Nat)) : State :=
  { State.reset with regions := [{ index := 0x20000, state := .r l, lastWrite := 0, decayFrom := 0, askers := [], closing := some [], recalled := [2], waiting := w, covered := [] }] }

theorem witness_RegionEvents_closing :
    (((closingRegion [(2, 5)] []).region (regionOf 0x4000000000)).leased 0 3 = false ∧ (3 : Nat) ≠ 1 ∧
      ((closingRegion [(2, 5)] []).region (regionOf 0x4000000000)).closing.isSome = true ∧ (closingRegion [(2, 5)] []).hostWrites = []) ∧
    (∀ x, x ∈ [(2, 0)] → x.2 ≤ (closingRegion [(2, 0)] [(0x4000000000, 3)]).time) ∧
    ((closingRegion [(2, 0)] [(0x4000000000, 3)]).region (regionOf 0x4000000000)).waiting = [(0x4000000000, 3)] := by decide +kernel

theorem witness_StreamsAndMessages_delivered :
    let h := rxHart (rxq 10 0 0)
    let s := world h
    let q := rxq 10 0 0
    Claims.Inv s ∧ s.hostWrites = [] ∧ h.key.part ≠ 16 ∧
    (∀ i, i < 20 → (∃ x, s.access h.ctx (q.base + BitVec.ofNat 64 ((q.tail + i) % q.size)) .store = .ok x ∧ x.pa = 0x4000000100 + i ∧ x.entry ∈ s.tlb) ∧
      ∃ m, placeOf (0x4000000100 + i) = .hbm m) ∧
    (∀ i j, i < 20 → j < 20 → (0x4000000100 + i = 0x4000000100 + j → i = j) ∧
      ((q.base + BitVec.ofNat 64 ((q.tail + i) % q.size)).toNat / 4096 = (q.base + BitVec.ofNat 64 ((q.tail + j) % q.size)).toNat / 4096 →
        0x4000000100 + i + (q.base + BitVec.ofNat 64 ((q.tail + j) % q.size)).toNat = 0x4000000100 + j + (q.base + BitVec.ofNat 64 ((q.tail + i) % q.size)).toNat)) := by
  refine ⟨by unfold Claims.Inv; decide +kernel, rfl, by decide, ?_, fun i j m n => ?_⟩
  · have a : ∀ i, i < 20 → ((world (rxHart (rxq 10 0 0))).access (rxHart (rxq 10 0 0)).ctx ((rxq 10 0 0).base + BitVec.ofNat 64 (((rxq 10 0 0).tail + i) % (rxq 10 0 0).size)) .store).toOption =
        some (pg tHart (256 + i)) ∧ (pg tHart (256 + i)).entry ∈ (world (rxHart (rxq 10 0 0))).tlb ∧ placeOf (0x4000000100 + i) = .hbm 1 := by decide +kernel
    intro i m
    exact ⟨⟨_, ok_of (a i m).1, by simp only [pg]; omega, (a i m).2.1⟩, 1, (a i m).2.2⟩
  · have a : ∀ i, i < 20 → ((rxq 10 0 0).base + BitVec.ofNat 64 (((rxq 10 0 0).tail + i) % (rxq 10 0 0).size)).toNat = 256 + i := by decide +kernel
    rw [a i m, a j n]; omega

/-- The queue's buffer at an address without a page, and behind a vault that is not there. -/
theorem witness_StreamsAndMessages_fault :
    let h := rxHart { rxq 10 0 0 with base := 0x2000 }
    let g := rxHart (rxq 10 0 0)
    let s : State := { pageWorld 0x3F 3 0x4000000000 [] with harts := [g] }
    let pieces := fun (b : Word) (q : RxQueue) => ({ q with base := b } : RxQueue).pieces 0 16 ++ ({ q with base := b } : RxQueue).pieces 16 4
    32 ≤ (rxq 10 0 0).size - (0 - 0) ∧
    (∃ r l va, translateAll (world h) h.ctx .store (pieces 0x2000 (rxq 10 0 0)) = .error (.page r l, va)) ∧
    (∃ r v va, translateAll s g.ctx .store (pieces 256 (rxq 10 0 0)) = .error (.vault r v, va)) :=
  ⟨by decide, ⟨_, _, _, rfl⟩, _, _, _, rfl⟩

theorem witness_EngineEntries_settled :
    let i : Instr := .coll ⟨3, 4, 5, 6, 2, .i32, .package, .sum, 0⟩
    let h := engaged i 64 0 Engine.start
    let past := { operation 1 true [] with settled := some (4, 1) }
    let s : State := { (partWorld h fun p => { p with groups := [group] }) with colls := [past] }
    Turn s h.key h slot16 0 (entryOf tHart i 64 0 0) i ∧ h.eng.colls.length < 16 ∧ h.path = [] ∧ s.copies = [] ∧ s.unsettled h .package = false ∧
    (release s h .package fun _ => true) = none ∧ (s.part h.key.part).group? 2 = some group ∧ s.rankOf group h.key = some 0 ∧
    s.coll? h.key.part 2 h.eng.collK[(2 : Fin 64)] = some past ∧ past.settled.map (·.1) = some 4 := by
  refine ⟨turn_of (world_hart _) (by decide +kernel), by decide +kernel⟩

theorem witness_Collectives_over :
    let b := operation 1 false []
    let far := ({ collWorld b with parts := (collWorld b).parts.set 0 { (collWorld b).part 0 with groups := [wide] }, collsOver := [(0, 2, 7)] } : State)
    let past := { operation 1 true [] with settled := some (4, 1), k := 1 }
    (b.part, (2 : Fin 64).val, 7) ∈ far.collsOver ∧ (b.part, (2 : Fin 64).val, b.k) ∉ far.collsOver ∧ (far.part b.part).group? 2 = some wide ∧ b ∈ far.colls ∧ b.settled = none ∧
    (({ far with colls := [b, past] } : State).coll? b.part 2 1 = some past ∧ past.settled.isSome = true) ∧
    ((member 1).handle, none) ∈ collHart.eng.colls ∧ far.hart? tHart.key = some collHart := by decide +kernel

/-- A hart that has no slot, of a partition whose other harts run in slots of core 16. -/
def second (st : Status) (irqs : List Nat) (w : Option Instr) : Hart :=
  { (offHart st irqs) with key := { part := 0, id := 2 }, area := some 0x4000001000, waitFor := w }
def runner (n : Nat) : Hart := { tHart with key := { part := 0, id := 3 + n }, sched := { tHart.sched with slot := some { core := 16, slot := n } } }
/-- It with `n` of those; the partition may use the clusters given, and of the Hounds of cluster 1 only core 16 is not fenced where `shut` holds. -/
def crowd (g : Hart) (n : Nat) (clusters : BitVec 15) (shut : Bool) (time : Nat) : State :=
  let s := partWorld g fun p => { p with ctl := { clusters := clusters, weight := 1, quantum := 1 } }
  { s with harts := g :: (List.range n).map runner, time := time,
           slots := (List.range n).map fun i => { Slot.empty { core := 16, slot := i } with occupant := some (runner i).key },
           cores := if shut then (List.range 31).map fun c => { core := 17 + c, lanes := 0, matrix := 0, fenced := true } else [] }

theorem witness_SchedulerEvents_seats :
    let a := second .ready [] none
    let w := second .parked [2] none
    let aged := fun s : State => s.modHart a.key fun g => { g with sched := { g.sched with aged := g.sched.aged + 1 } }
    let old := { a with sched := { a.sched with aged := a.sched.aged + 1 } }
    let up := fun s : State => { w with sched := { w.sched with status := .ready, readySince := s.time, aged := 0 }, waitFor := none }
    let t := 1000000
    ((crowd a 4 2 true t).hart? a.key = some a ∧ a.sched.status = .ready ∧ (crowd a 4 2 true t).effPrio a < 7 ∧ 1000000 * (a.sched.aged + 1) ≤ t - a.sched.readySince ∧
      ((crowd a 4 2 true t).part a.key.part).state = .running) ∧
    ((aged (crowd a 4 2 false t)).freeFor old).isSome = true ∧ ((aged (crowd a 4 0 false t)).freeFor old = none ∧ (aged (crowd a 4 0 false t)).preemptee old = none) ∧
    ((aged (crowd a 4 2 true t)).freeFor old = none ∧ ((aged (crowd a 4 2 true t)).preemptee old).isSome = true) ∧
    ((crowd w 4 2 true 0).hart? w.key = some w ∧ w.sched.status = .parked ∧ w.irqs ≠ [] ∧ ((crowd w 4 2 true 0).part w.key.part).state = .running) ∧
    (((crowd w 4 2 false 0).setReady w.key).freeFor (up (crowd w 4 2 false 0))).isSome = true ∧
    (((crowd w 4 2 true 0).setReady w.key).freeFor (up (crowd w 4 2 true 0)) = none ∧
      (((crowd w 4 2 true 0).setReady w.key).preemptee (up (crowd w 4 2 true 0))).isSome = true) ∧
    (let z := second .parked [] (some (.wmwait 4 5))
     let y := second .parked [] (some (.join 3 4))
     let kids := fun (p : Part) => { p with tasks := [task 1 9 (.hart 0)] }
     z.irqs = [] ∧ (crowd z 4 2 true 0).waitOver z = true ∧
       ({ partWorld (y.setX 4 9) kids with harts := [y.setX 4 9] } : State).waitOver (y.setX 4 9) = false) := by
  decide +kernel

/-- The partition in a state, with PCMD naming an operation and BUSY 1. -/
def toldState (op : BitVec 8) (st : PartState) : State := { inState st with pcmd := commandWord op 0 ||| busyBit }

theorem witness_PartitionCommands_told :
    (∀ op, op ∈ [1#8, 2#8, 3#8, 4#8, 5#8, 6#8, 7#8] → (toldState op .running).pcmd = commandWord op 0 ||| busyBit ∧ (toldState op .running).hostUp = true) ∧
    (let s := toldState 3 .running
     (s.harts.map (·.key)).Nodup ∧ (s.part 0).state = .running ∧ (s.part 0).swapping = false ∧ s.harts = [tHart] ∧ tHart.rtc = false ∧ tHart.sched.slot.isSome = true) ∧
    (let s := (toldState 3 .swapped).modPart 0 fun p => { p with swapping := true }
     (s.part 0).swapping = true ∧ tHart ∈ s.harts ∧ tHart.key.part = 0 ∧ tHart.sched.status = .running) ∧
    (let h := { (second .ready [] none) with sched := { (second .ready [] none).sched with swapSlot := some slot16 } }
     let s : State := { (toldState 4 .swapped) with harts := [h], slots := [] }
     (s.harts.map (·.key)).Nodup ∧ (s.part 0).state = .swapped ∧ h ∈ s.harts ∧ h.key.part = 0 ∧ (s.part 0).tasks.any (·.pending) = false ∧ h.sched.status = .ready ∧
       h.sched.slot = none ∧ h.sched.swapSlot = some slot16 ∧ s.slotFree slot16 = true ∧ h.area.isSome = true ∧ s.usable slot16.core = true ∧
       inClusters ((s.part 0).partreq.getD (s.part 0).ctl).clusters slot16.core = true ∧ h.sched.newHart = false ∧ clsOf slot16.core = clsOf h.sched.lastCore) ∧
    (let s := (toldState 6 .terminated).modPart 0 fun p => { p with desc := { p.desc with sealed := true, ranges := [(0x4000000000, 0x200000)] } }
     (s.part 0).state = .terminated ∧ (s.part 0).desc.sealed = true ∧ storeBytes (clsOf 16) ≠ 0 ∧ inClusters (s.part 0).ctl.clusters 16 = true ∧ s.hostUp = true) := by
  decide +kernel

theorem witness_FirmwareCalls_table :
    let p := fun h : Hart => (partWorld h owning).part h.key.part
    let c := fun (v : Nat) (b : Word) => caller 0x106 (BitVec.ofNat 64 v) b
    -- one descriptor from the page's start, none, one at an address that is no multiple of 64, and one outside the ranges
    ((c (2 ^ 32) 0x4000000000).fwcall = some 0x106 ∧ ((c (2 ^ 32) 0x4000000000).getX 9).toNat / 2 ^ 32 % 2 ^ 17 = 1 ∧
      (∀ b, ((c (2 ^ 32) 0x4000000000).getX 10).toNat ≤ b → b < ((c (2 ^ 32) 0x4000000000).getX 10).toNat + 64 * 1 →
        ∃ r, r ∈ (p (c (2 ^ 32) 0x4000000000)).desc.ranges ∧ r.1 ≤ b ∧ b < r.1 + r.2)) ∧
    (((c 0 0).getX 9).toNat / 2 ^ 32 % 2 ^ 17 = 0 ∧ (p (c 0 0)).ownsAsid 0 = true) ∧
    (((c (2 ^ 32) 0x4000000001).getX 10).toNat % 64 ≠ 0) ∧
    (∃ b, ((c (2 ^ 32) 0x5000000000).getX 10).toNat ≤ b ∧ b < ((c (2 ^ 32) 0x5000000000).getX 10).toNat + 64 ∧
      ∀ r, r ∈ (p (c (2 ^ 32) 0x5000000000)).desc.ranges → b < r.1 ∨ r.1 + r.2 ≤ b) := by
  refine ⟨⟨rfl, by decide, fun b l m => ⟨(0x4000000000, 0x200000), ?_, ?_, ?_⟩⟩, ⟨by decide, by decide +kernel⟩, by decide, 0x5000000000, ?_, ?_, ?_⟩
  · exact of_decide_eq_true (by decide +kernel : decide ((0x4000000000, 0x200000) ∈ ((partWorld (caller 0x106 (BitVec.ofNat 64 (2 ^ 32)) 0x4000000000) owning).part 0).desc.ranges) = true)
  · exact l
  · have e : ((caller 0x106 (BitVec.ofNat 64 (2 ^ 32)) 0x4000000000).getX 10).toNat = 0x4000000000 := by decide
    rw [e] at m; omega
  · decide
  · decide
  · decide +kernel

theorem witness_HostPorts_atomics :
    let a := 0x80000000000000
    let r : Req := .atomicOp a 0 8 .fetchAdd 1 0
    let left := atomicResult .fetchAdd 8 1 0
    -- no batch of those bytes; one that began with 5 and of which the other has read 5; and one of which the other has read what this one left
    (portWorld r .s).atomics = [] ∧ Claims.Inv (portWorld r .s) ∧
    (∀ o l, (({ portWorld r .s with atomics := [{ pa := a, n := 8, start := 5, done := [(o, l)] }] } : State).atomics.find? fun y => y.pa == a && y.n == 8) =
      some { pa := a, n := 8, start := 5, done := [(o, l)] }) ∧
    ((6 : Word).toNat % 256 ^ 8 = left 5) ∧ left 5 = 6 := by
  refine ⟨rfl, by unfold Claims.Inv; decide +kernel, fun o l => by simp, by decide +kernel, by decide +kernel⟩

theorem witness_AgentsAndLinks_links :
    let s := silent true 0
    let d := s.linkDir 0 true
    let l := [LinkWord.raw 5, .same, .zero, .zero, .raw 6, .same, .same, .zero]
    let full : LinkDir := { LinkDir.reset with flits := 4095, due := none }
    let out : LinkDir := { LinkDir.reset with due := some (1, 2) }
    let same : LinkDir := { LinkDir.reset with due := some (1, 1) }
    let with_ := fun d : LinkDir => ({ s with links := s.links.set 0 (Vector.replicate 2 d) } : State)
    let dead : State := { s with agents := s.agents ++ [(.die 0, { alive := false, incarnation := 0, lastBeat := 0, mute := false })] }
    d.due = none ∧ sectorFlits l 0 ≤ d.free[dataClass] ∧ 4096 ≤ full.flits + sectorFlits l 0 ∧ (with_ full).linkDir 0 true = full ∧
    (with_ out).linkDir 0 true = out ∧ out.due = some (1, 2) ∧ (with_ same).linkDir 0 true = same ∧ same.due = some (1, 1) ∧
    dead.stopped = true ∧ ({ s with agents := s.agents ++ [(.die 0, { alive := true, incarnation := 0, lastBeat := 0, mute := false })] } : State).stopped = false ∧
    (let w : LinkDir := { LinkDir.reset with waiting := [List.replicate 8 5] }
     (with_ w).linkDir 0 true = w ∧ w.due = none ∧ sectorFlits ((List.replicate 8 5).map LinkWord.raw) 0 ≤ w.free[dataClass] ∧ (List.replicate 8 (5 : Word)).length = 8) := by
  decide +kernel

theorem witness_PlatformEvents_retire :
    let s : State := { world tHart with bankErrors := [(300, 0, 0), (300, 0, 1), (300, 0, 2)] }
    s.bankFails 300 = true ∧ (world tHart).bankFails 300 = false ∧ storeBytes (clsOf 300) ≠ 0 ∧ s.fenced 300 = false ∧ (∀ j, j ∈ slotIds 300 → (s.slot j).occupant = none) ∧
    clusterOf 300 ∉ s.spares ∧ s.corrupt = [] ∧ clusterOf 300 ∈ ({ s with spares := [clusterOf 300] } : State).spares ∧ ∀ h, h ∈ s.harts → h.sched.status ≠ .moving := by
  decide +kernel

end Sys2Proof.Tests
end

/-! PROOFS. Every step keeps the canonical form of memory (O4).

The invariant reads the field `mem` alone. Two operations of the model make a memory that is not there already: `Mem.putBytes`
(through `State.writeBytes`) and `List.filter` (`State.zeroRange`, `State.kept`), and Laws/Mem.lean says that both keep the form.
Every other function of the step either leaves `mem` as it is, so that its lemma is the hypothesis itself, or calls functions that
keep the form, so that its lemma composes theirs. The lemmas stand in the order of the model's files, one for each function that
takes a state to a state; `foo_inv` says that `foo` keeps the form, under each result it can answer. -/

namespace Sys2Proof.Claims.InvLaws
open Sys2Proof.Machine Sys2Proof.Laws

/-! ### The invariant under the results of the model's functions -/

theorem foldl_inv {α : Type} {f : State → α → State} {l : List α} {s : State} (h : Inv s) (k : ∀ u a, Inv u → Inv (f u a)) :
    Inv (l.foldl f s) := by
  induction l generalizing s with
  | nil => exact h
  | cons a l ih => exact ih (k s a h)

theorem foldl_fst_inv {α β : Type} {f : State × β → α → State × β} {l : List α} {s : State × β} (h : Inv s.1)
    (k : ∀ u a, Inv u.1 → Inv (f u a).1) : Inv (l.foldl f s).1 := by
  induction l generalizing s with
  | nil => exact h
  | cons a l ih => exact ih (k s a h)

theorem ite_inv {c : Prop} [Decidable c] {a b : State} (ha : Inv a) (hb : Inv b) : Inv (if c then a else b) := by
  split <;> assumption

/-- What a step or an event answers: where it goes on, the state it leaves. -/
def OutcomeInv : Host.Outcome State Fault Refusal → Prop
  | .next s => Inv s
  | .fault _ => True
  | .refused _ => True

/-- What an operation that may find nothing answers. -/
def OptionInv {α : Type} (p : α → Prop) : Option α → Prop
  | none => True
  | some a => p a

/-- What an operation that may trap answers. -/
def ExceptInv : Except Trap State → Prop
  | .error _ => True
  | .ok s => Inv s

/-- The effect of a scalar instruction (Machine/Ops.lean). -/
def EffectInv : Effect → Prop
  | .ok s => Inv s
  | .jump s _ => Inv s
  | .trap s _ => Inv s
  | .stall s => Inv s
  | .waiting s => Inv s
  | .gone s => Inv s

/-- What an entry of the vector queue does when it issues (Machine/Vector.lean). -/
def IssueInv : Issue → Prop
  | .done s _ => Inv s
  | .stay s _ => Inv s
  | .wait s => Inv s
  | .trap s _ => Inv s

/-- What a scalar load answers (Machine/Access.lean). -/
def GotInv : Got → Prop
  | .value s _ _ => Inv s
  | .trap _ => True
  | .stall s => Inv s

/-- What asking for a sector of host memory answers (Machine/Access.lean). -/
def WantInv : Want → Prop
  | .granted s => Inv s
  | .waits s => Inv s
  | .failed s => Inv s

/-- What fetching one instruction word answers (Machine/Access.lean). -/
def FetchedInv : Fetched → Prop
  | .word s _ => Inv s
  | .trap s _ => Inv s
  | .wait s => Inv s

/-- What the check at the target of a jump answers (Machine/Control.lean). -/
def LandingInv : Landing → Prop
  | .pass s => Inv s
  | .trap s _ => Inv s
  | .wait s => Inv s

/-- What a consumer meets in a receive buffer: only bytes come with a state. -/
def TakeInv : Take → Prop
  | .got s _ => Inv s
  | .waits _ _ => True
  | .denied _ _ => True
  | .bad _ _ _ => True

/-- Where the next element of a queue lies. -/
def NextInv : Next → Prop
  | .at_ s _ _ => Inv s
  | .waits s _ _ => Inv s
  | .empty s => Inv s
  | .denied _ _ => True

/-- What an operand access meets (Machine/Engine.lean). -/
def OperandInv : Operand → Prop
  | .ready s _ _ => Inv s
  | .stay s => Inv s
  | .trap i => IssueInv i

/-- What becomes of the fetch of an element of a stream. -/
def FetchInv : Fetch → Prop
  | .got s _ _ => Inv s
  | .waits s => Inv s
  | .fails s _ _ _ _ _ _ => Inv s

/-- What the words that firmware reads for a hart come to. -/
def CalledInv : Called → Prop
  | .words s _ => Inv s
  | .fails s => Inv s
  | .waits s => Inv s

/-- What fetching an instruction meets (Machine/Turn.lean). -/
def FetchedInsnInv : FetchedInsn → Prop
  | .insn s _ _ => Inv s
  | .trap s _ => Inv s
  | .wait s => Inv s

theorem optionInv_map {f : State → State} {o} (h : OptionInv Inv o) (k : ∀ u, Inv u → Inv (f u)) : OptionInv Inv (o.map f) := by
  cases o with
  | none => trivial
  | some t => exact k t h

theorem optionInv_findSome? {α β : Type} {p : β → Prop} {f : α → Option β} {l : List α} (k : ∀ a, OptionInv p (f a)) :
    OptionInv p (l.findSome? f) := by
  induction l with
  | nil => trivial
  | cons a l ih =>
    have first := k a
    rw [List.findSome?_cons]
    split
    · next e => rwa [e] at first
    · exact ih

section
variable {s : State}

/-! ### What Machine/Mem.lean does to memory -/

theorem writeBytes_inv {pa bs} (inv : Inv s) : Inv (s.writeBytes pa bs) := wf_putBytes pa bs inv

theorem writeNat_inv {pa n v} (inv : Inv s) : Inv (s.writeNat pa n v) := writeBytes_inv inv

/-! ### What Machine/Harts.lean does to memory -/

theorem modHart_inv {k f} (inv : Inv s) : Inv (s.modHart k f) := inv

theorem modPart_inv {p f} (inv : Inv s) : Inv (s.modPart p f) := inv

theorem putSlot_inv {a1} (inv : Inv s) : Inv (s.putSlot a1) := inv

theorem putCore_inv {c} (inv : Inv s) : Inv (s.putCore c) := inv

theorem draw_inv (inv : Inv s) : Inv s.draw.1 := inv

theorem emit_inv {o} (inv : Inv s) : Inv (s.emit o) := inv

/-! ### What Machine/Coherence.lean does to memory -/

theorem setLines_inv {l} (inv : Inv s) : Inv (s.setLines l) := inv

theorem modSector_inv {pa sel f} (inv : Inv s) : Inv (s.modSector pa sel f) := setLines_inv inv

theorem setCxl_inv {pa c} (inv : Inv s) : Inv (s.setCxl pa c) := inv

theorem setL1d_inv {l} (inv : Inv s) : Inv (s.setL1d l) := inv

theorem dropL1_inv {sel} (inv : Inv s) : Inv (s.dropL1 sel) := by
  unfold State.dropL1
  grind [Inv, setL1d_inv]

theorem sendWrCur_inv {pa} (inv : Inv s) : Inv (s.sendWrCur pa) := by
  unfold State.sendWrCur
  grind [Inv, emit_inv]

theorem dropSector_inv {sec} (inv : Inv s) : Inv (s.dropSector sec) := dropL1_inv (modSector_inv inv)

theorem hostEvict_inv {pa} (inv : Inv s) : Inv (s.hostEvict pa) := by
  unfold State.hostEvict
  grind [setCxl_inv, emit_inv, dropSector_inv]

theorem dropLines_inv {sel} (inv : Inv s) : Inv (s.dropLines sel) := by
  unfold State.dropLines
  grind [foldl_inv, Inv, hostEvict_inv]

theorem install_inv {p v pa high states} (inv : Inv s) : Inv (s.install p v pa high states) := by
  unfold State.install
  grind [Inv, dropLines_inv, setLines_inv]

theorem hitLine_inv {v l} (inv : Inv s) : Inv (s.hitLine v l) := by
  unfold State.hitLine
  split
  · exact inv
  · split <;> exact inv

theorem dropAstray_inv {p v pa} (inv : Inv s) : Inv (s.dropAstray p v pa) := by
  unfold State.dropAstray
  split
  · exact inv
  · split
    · exact inv
    · split
      · exact ite_inv inv (dropLines_inv inv)
      · exact inv

theorem lookup_inv {p v pa alloc again write} (inv : Inv s) : Inv (s.lookup p v pa alloc again write) := by
  unfold State.lookup
  grind [Inv, setLines_inv, install_inv, hitLine_inv, dropLines_inv]

theorem addL1d_inv {core pa} (inv : Inv s) : Inv (s.addL1d core pa) := setL1d_inv inv

theorem dropL1d_inv {pa keep} (inv : Inv s) : Inv (s.dropL1d pa keep) := setL1d_inv inv

theorem endReservations_inv {pa n} (inv : Inv s) : Inv (s.endReservations pa n) := inv

theorem answerSnoop_inv {sec k} (inv : Inv s) : Inv (s.answerSnoop sec k) := by
  unfold State.answerSnoop
  split
  · exact endReservations_inv (dropSector_inv (setCxl_inv (emit_inv inv)))
  all_goals exact setCxl_inv (emit_inv inv)

theorem answerWaiting_inv {sec} (inv : Inv s) : Inv (s.answerWaiting sec) := by
  unfold State.answerWaiting
  grind [foldl_inv, Inv, answerSnoop_inv]

theorem landed_inv {sec} (inv : Inv s) : Inv (s.landed sec) := answerWaiting_inv (setCxl_inv inv)

theorem giveUpZ_inv (inv : Inv s) : Inv s.giveUpZ := by
  unfold State.giveUpZ
  grind [foldl_inv, answerWaiting_inv, setCxl_inv]

theorem putRegion_inv {e} (inv : Inv s) : Inv (s.putRegion e) := inv

theorem invalidateElsewhere_inv {pa dies} (inv : Inv s) : Inv (s.invalidateElsewhere pa dies) := modSector_inv inv

theorem regionRead_inv {pa die} (inv : Inv s) : Inv (s.regionRead pa die) := by
  unfold State.regionRead
  grind [putRegion_inv]

theorem dropLapsed_inv {die core pa} (inv : Inv s) : Inv (s.dropLapsed die core pa) := ite_inv (dropL1_inv (modSector_inv inv)) inv

theorem backInvalidate_inv {sec} (inv : Inv s) : Inv (s.backInvalidate sec) := by
  unfold State.backInvalidate
  grind [Inv, emit_inv]

theorem writeOwn_inv {pa bs} (inv : Inv s) : Inv (s.writeOwn pa bs) := by
  unfold State.writeOwn
  grind [foldl_inv, Inv, setLines_inv, dropL1_inv, endReservations_inv, writeBytes_inv, backInvalidate_inv]

theorem hostWrite_inv {w} (inv : Inv s) : Inv (s.hostWrite w) := by
  unfold State.hostWrite
  grind [emit_inv, endReservations_inv, writeBytes_inv, dropSector_inv, putRegion_inv]

theorem formF_inv {r hs} (inv : Inv s) : Inv (s.formF r hs) := by
  unfold State.formF
  grind [foldl_inv, Inv, putRegion_inv, hostWrite_inv]

theorem dropLeased_inv {r die} (inv : Inv s) : Inv (s.dropLeased r die) := by
  unfold State.dropLeased
  grind [Inv, setLines_inv, dropL1_inv]

theorem close_inv {r hs all} (inv : Inv s) : Inv (s.close r hs all) := by
  unfold State.close
  grind [foldl_inv, putRegion_inv, formF_inv, dropLeased_inv]

theorem regionWrite_inv {pa die see} (inv : Inv s) : Inv (s.regionWrite pa die see) := by
  unfold State.regionWrite
  grind [Inv, putRegion_inv, invalidateElsewhere_inv, close_inv]

theorem endLease_inv {r die} (inv : Inv s) : Inv (s.endLease r die) := by
  unfold State.endLease
  grind [dropLeased_inv, putRegion_inv, formF_inv]

theorem dropStale_inv {die pa} (inv : Inv s) : Inv (s.dropStale die pa) := inv

theorem renew_inv {v pa} (inv : Inv s) : Inv (s.renew v pa) := dropStale_inv (dropStale_inv inv)

theorem violation_inv (inv : Inv s) : Inv s.violation := inv

theorem readKeep_inv {v pa alloc l1 again} (inv : Inv s) : Inv (s.readKeep v pa alloc l1 again) := by
  unfold State.readKeep
  grind [violation_inv, dropStale_inv, dropLapsed_inv, regionRead_inv, lookup_inv, addL1d_inv]

theorem readLine_inv {v pa alloc l1 again} (inv : Inv s) : Inv (s.readLine v pa alloc l1 again) :=
  ite_inv (hostEvict_inv (readKeep_inv inv)) (readKeep_inv inv)

theorem readTouch_inv {v pa alloc l1} (inv : Inv s) : Inv (s.readTouch v pa alloc l1) := readLine_inv inv

theorem settleOthers_inv {v pa} (inv : Inv s) : Inv (s.settleOthers v pa) := by
  unfold State.settleOthers
  split
  · exact ite_inv (setCxl_inv (emit_inv (modSector_inv inv))) (modSector_inv inv)
  all_goals exact modSector_inv inv

theorem writeTouch_inv {v pa alloc scalar again} (inv : Inv s) : Inv (s.writeTouch v pa alloc scalar again) := by
  unfold State.writeTouch
  grind [Inv, settleOthers_inv, regionWrite_inv, dropL1d_inv, lookup_inv, modSector_inv]

theorem storeSector_inv {v pa bs alloc scalar again} (inv : Inv s) : Inv (s.storeSector v pa bs alloc scalar again) :=
  backInvalidate_inv (endReservations_inv (writeBytes_inv (writeTouch_inv inv)))

theorem storePlain_inv {pa bs} (inv : Inv s) : Inv (s.storePlain pa bs) := endReservations_inv (writeBytes_inv inv)

theorem lastStore_inv {p a2} (inv : Inv s) : Inv (s.lastStore p a2) := by
  unfold State.lastStore
  split
  · exact storeSector_inv inv
  · exact storePlain_inv inv
  · exact ite_inv (sendWrCur_inv (storeSector_inv inv)) (storePlain_inv inv)
  all_goals exact inv

theorem correct_inv {pa} (inv : Inv s) : Inv (s.correct pa) := ite_inv inv inv

theorem bankError_inv {pa} (inv : Inv s) : Inv (s.bankError pa) := by
  unfold State.bankError
  split
  · exact ite_inv inv inv
  all_goals exact inv

/-! ### What Machine/Slots.lean does to memory -/

theorem loseHome_inv {h} (inv : Inv s) : Inv (s.loseHome h) := inv

theorem homeAccess_inv {h pa n} (inv : Inv s) : Inv (s.homeAccess h pa n) := ite_inv (loseHome_inv inv) inv

theorem writeBack_inv {i} (inv : Inv s) : Inv (s.writeBack i) := by
  unfold State.writeBack
  grind [foldl_inv, putSlot_inv, writeOwn_inv, homeAccess_inv, modHart_inv]

theorem pullV_inv {i h n} (inv : Inv s) : Inv (s.pullV i h n) := by
  unfold State.pullV
  grind [putSlot_inv, homeAccess_inv]

theorem pullK_inv {i h n} (inv : Inv s) : Inv (s.pullK i h n) := by
  unfold State.pullK
  grind [putSlot_inv, homeAccess_inv]

theorem pullM_inv {i h n} (inv : Inv s) : Inv (s.pullM i h n) := by
  unfold State.pullM
  grind [homeAccess_inv, putSlot_inv]

theorem disown_inv {i} (inv : Inv s) : Inv (s.disown i) := putSlot_inv inv

theorem claim_inv {i h} (inv : Inv s) : Inv (s.claim i h) := putSlot_inv inv

theorem claimFresh_inv {i h} (inv : Inv s) : Inv (s.claimFresh i h) := putSlot_inv inv

theorem recallState_inv {h i} (inv : Inv s) : Inv (s.recallState h i) := by
  unfold State.recallState
  grind [foldl_inv, disown_inv, writeBack_inv]

theorem regrant_inv {core} (inv : Inv s) : Inv (s.regrant core) := by
  unfold State.regrant
  grind [foldl_inv, putSlot_inv]

/-! ### What Machine/Image.lean does to memory -/

theorem putImage_inv {area cls es xpend fpend} (inv : Inv s) : Inv (s.putImage area cls es xpend fpend) := writeOwn_inv inv

theorem clearImage_inv {area} (inv : Inv s) : Inv (s.clearImage area) := writeOwn_inv inv

theorem saveImage_inv {k} (inv : Inv s) : Inv (s.saveImage k) := by
  unfold State.saveImage
  split
  · exact inv
  · split
    · exact inv
    · exact modHart_inv (writeOwn_inv inv)

theorem saveContext_inv {k} (inv : Inv s) : Inv (s.saveContext k) := by
  unfold State.saveContext
  grind [foldl_inv, writeOwn_inv]

/-! ### What Machine/Collie.lean does to memory -/

theorem pullLive_inv {k i} (inv : Inv s) : Inv (s.pullLive k i) := by
  unfold State.pullLive
  grind [foldl_inv, pullV_inv]

theorem vectorArrival_inv {h i moving} (inv : Inv s) : Inv (s.vectorArrival h i moving) := by
  unfold State.vectorArrival
  grind [recallState_inv, claimFresh_inv, disown_inv, writeBack_inv, claim_inv, pullLive_inv]

theorem takeSlot_inv {k i} (inv : Inv s) : Inv (s.takeSlot k i) := by
  unfold State.takeSlot
  split
  · exact inv
  · exact regrant_inv (modHart_inv (putSlot_inv (vectorArrival_inv inv)))

theorem resetDeficits_inv (inv : Inv s) : Inv s.resetDeficits := by
  unfold State.resetDeficits
  grind [foldl_inv, modPart_inv]

theorem grantChoice_inv {core extra sel} (inv : Inv s) : Inv (s.grantChoice core extra sel).1 := by
  unfold State.grantChoice
  grind [resetDeficits_inv, Inv]

theorem grant_inv {i} (inv : Inv s) : Inv (s.grant i) := by
  unfold State.grant
  grind [grantChoice_inv, resetDeficits_inv, takeSlot_inv]

theorem leaveSlot_inv {k} (inv : Inv s) : Inv (s.leaveSlot k) := by
  unfold State.leaveSlot
  split
  · exact inv
  · exact regrant_inv (modHart_inv (putSlot_inv inv))

theorem releaseSlot_inv {k} (inv : Inv s) : Inv (s.releaseSlot k) := by
  unfold State.releaseSlot
  split
  · exact inv
  · exact grant_inv (leaveSlot_inv inv)

theorem saveOwnImage_inv {h} (inv : Inv s) : Inv (s.saveOwnImage h) := by
  unfold State.saveOwnImage
  split
  · exact ite_inv (modHart_inv inv) (modHart_inv (writeOwn_inv (writeOwn_inv inv)))
  all_goals exact modHart_inv inv

theorem stopHart_inv {k} (inv : Inv s) : Inv (s.stopHart k) := by
  unfold State.stopHart
  grind [Inv, saveImage_inv, saveOwnImage_inv, modHart_inv, saveContext_inv]

theorem setReady_inv {k} (inv : Inv s) : Inv (s.setReady k) := modHart_inv inv

theorem placeReady_inv {k} (inv : Inv s) : Inv (s.placeReady k) := by
  unfold State.placeReady
  grind [takeSlot_inv, modHart_inv, setReady_inv, leaveSlot_inv, stopHart_inv]

theorem retryPreempts_inv (inv : Inv s) : Inv s.retryPreempts := by
  unfold State.retryPreempts
  grind [foldl_inv, placeReady_inv, modHart_inv]

theorem makeReady_inv {k} (inv : Inv s) : Inv (s.makeReady k) := placeReady_inv (setReady_inv inv)

theorem wake_inv {k} (inv : Inv s) : Inv (s.wake k) := by
  unfold State.wake
  split
  · exact inv
  · exact ite_inv (makeReady_inv inv) inv

theorem endQuantum_inv {k sel} (inv : Inv s) : Inv (s.endQuantum k sel) := by
  unfold State.endQuantum
  grind [grantChoice_inv, putSlot_inv, placeReady_inv, resetDeficits_inv, takeSlot_inv, setReady_inv, leaveSlot_inv, stopHart_inv]

theorem assignAreas_inv {p} (inv : Inv s) : Inv (s.assignAreas p) := by
  unfold State.assignAreas
  grind [foldl_inv, makeReady_inv, modHart_inv, modPart_inv]

theorem parkHeld_inv {h} (inv : Inv s) : Inv (s.parkHeld h) := by
  unfold State.parkHeld
  split
  · exact ite_inv inv (modHart_inv (putImage_inv inv))
  all_goals exact inv

theorem emptyImage_inv {k} (inv : Inv s) : Inv (s.emptyImage k) := by
  unfold State.emptyImage
  split
  · exact inv
  · split
    · exact ite_inv (putImage_inv inv) inv
    all_goals exact inv

theorem depart_inv {k target cause} (inv : Inv s) : Inv (s.depart k target cause) := by
  unfold State.depart
  grind [putSlot_inv, parkHeld_inv, disown_inv, writeBack_inv, releaseSlot_inv, modHart_inv]

theorem arrive_inv {k} (inv : Inv s) : Inv (s.arrive k) := by
  unfold State.arrive
  split
  · exact inv
  · split
    · exact ite_inv (modHart_inv (takeSlot_inv inv)) (takeSlot_inv inv)
    all_goals exact inv

theorem missMove_inv {k sel missed cause} (inv : Inv s) : Inv (s.missMove k sel missed cause) := by
  unfold State.missMove
  split
  · exact inv
  · dsimp only
    split
    · exact depart_inv (modHart_inv inv)
    · exact releaseSlot_inv (saveContext_inv (ite_inv (parkHeld_inv inv) (emptyImage_inv (parkHeld_inv inv))))

theorem unreserve_inv {k} (inv : Inv s) : Inv (s.unreserve k) := by
  unfold State.unreserve
  grind [foldl_inv, Inv, grant_inv]

theorem unshadow_inv {sel} (inv : Inv s) : Inv (s.unshadow sel) := by
  unfold State.unshadow
  grind [foldl_inv, Inv, writeOwn_inv]

theorem toShadow_inv {t h} (inv : Inv s) : Inv (s.toShadow t h) := by
  unfold State.toShadow
  grind [foldl_inv, Inv, unshadow_inv, writeOwn_inv]

theorem haltTransit_inv {h} (inv : Inv s) : Inv (s.haltTransit h) :=
  unreserve_inv (modHart_inv (saveContext_inv (ite_inv inv (emptyImage_inv inv))))

theorem haltHart_inv {k} (inv : Inv s) : Inv (s.haltHart k) := modHart_inv inv

theorem shadowHart_inv {k} (inv : Inv s) : Inv (s.shadowHart k) := by
  unfold State.shadowHart
  grind [toShadow_inv, stopHart_inv, haltTransit_inv]

/-! ### What Machine/Notify.lean does to memory -/

theorem raise_inv {k src} (inv : Inv s) : Inv (s.raise k src) := by
  unfold State.raise
  split
  · exact inv
  · exact wake_inv (modHart_inv inv)

theorem faultRecord_inv {p r} (inv : Inv s) : Inv (s.faultRecord p r) :=
  ite_inv (modPart_inv inv) (ite_inv (raise_inv (writeOwn_inv (writeOwn_inv inv))) (writeOwn_inv (writeOwn_inv inv)))

theorem removeHart_inv {k} (inv : Inv s) : Inv (s.removeHart k) := by
  unfold State.removeHart
  grind [Inv, modPart_inv, putSlot_inv, grant_inv, regrant_inv, assignAreas_inv, unreserve_inv]

theorem endPart_inv {p} (inv : Inv s) : Inv (s.endPart p) := by
  unfold State.endPart
  grind [foldl_inv, Inv, faultRecord_inv, lastStore_inv, modPart_inv, dropLines_inv, giveUpZ_inv, removeHart_inv]

theorem terminatePart_inv {p cause epc} (inv : Inv s) : Inv (s.terminatePart p cause epc) := emit_inv (endPart_inv inv)

theorem endLost_inv (inv : Inv s) : Inv s.endLost := by
  unfold State.endLost
  grind [foldl_inv, Inv, terminatePart_inv]

theorem lostWrite_inv {p addr sectors vault agent inc} (inv : Inv s) : Inv (s.lostWrite p addr sectors vault agent inc) :=
  terminatePart_inv (faultRecord_inv inv)

theorem writeSpill_inv {h m} (inv : Inv s) : Inv (s.writeSpill h m) := by
  unfold State.writeSpill
  split
  · exact inv
  · exact writeOwn_inv inv

theorem mirrorMail_inv {h m} (inv : Inv s) : Inv (s.mirrorMail h m) := by
  unfold State.mirrorMail
  split
  · exact writeSpill_inv inv
  · split
    · exact writeOwn_inv inv
    all_goals exact inv

theorem deliver_inv {k m} (inv : Inv s) : Inv (s.deliver k m) := by
  unfold State.deliver
  grind [mirrorMail_inv, modHart_inv]

theorem post_inv {k m} (inv : Inv s) : Inv (s.post k m) := inv

theorem deliverPosts_inv (inv : Inv s) : Inv s.deliverPosts := by
  unfold State.deliverPosts
  grind [foldl_inv, Inv, post_inv, deliver_inv]

theorem unstall_inv (inv : Inv s) : Inv s.unstall := inv

/-! ### What Machine/Translate.lean does to memory -/

theorem fillTlb_inv {a1} (inv : Inv s) : Inv (s.fillTlb a1) := ite_inv inv inv

/-! ### What Machine/Ops.lean does to memory -/

theorem endInvalidations_inv {k} (inv : Inv s) : Inv (s.endInvalidations k) := inv

theorem trapS_inv {k t'} (inv : Inv s) : Inv (s.trapS k t') := by
  unfold State.trapS
  split
  · exact inv
  · exact ite_inv (terminatePart_inv inv) (endInvalidations_inv (modHart_inv (ite_inv (saveImage_inv inv) inv)))

theorem trap_inv {k t'} (inv : Inv s) : Inv (s.trap k t') := by
  unfold State.trap
  split
  · exact inv
  · exact ite_inv (modHart_inv inv) (trapS_inv inv)

theorem noteBank_inv {c va} (inv : Inv s) : Inv (s.noteBank c va) := by
  unfold State.noteBank
  split
  · exact bankError_inv inv
  · exact inv

theorem noteError_inv {c cause va} (inv : Inv s) : Inv (s.noteError c cause va) := ite_inv (noteBank_inv inv) inv

theorem finish_inv {i h a} (inv : Inv s) (hk : EffectInv a) : Inv (finish i s h a) := by
  unfold finish
  grind [EffectInv, modHart_inv, trap_inv, noteError_inv]

theorem classMiss_inv {h i} (inv : Inv s) : EffectInv (classMiss s h i) := by
  unfold classMiss
  split
  · exact modHart_inv inv
  · split
    · exact modHart_inv inv
    · exact missMove_inv (modHart_inv inv)

theorem guard_inv {i h} (inv : Inv s) : OptionInv EffectInv (guard i s h) := by
  unfold Machine.guard
  grind [OptionInv, EffectInv, classMiss_inv]

theorem runOn_inv {i h body} (inv : Inv s) (hk : ∀ u b, Inv u → EffectInv (body u b)) : Inv (runOn i s h body) := by
  unfold runOn
  grind [OptionInv, guard_inv, finish_inv]

theorem run_inv {i body} (inv : Inv s) (hk : ∀ u b, Inv u → EffectInv (body u b)) : OutcomeInv (run i s body) := by
  unfold run
  grind [OutcomeInv, runOn_inv]

theorem onHart_inv {f h} (inv : Inv s) : EffectInv (onHart f s h) := modHart_inv inv

theorem commit_inv {i a b c status h} (inv : Inv s) : EffectInv (commit i a b c status s h) := by
  unfold commit
  split
  · exact inv
  · split
    · exact inv
    · exact modHart_inv inv

theorem commitVec_inv {i a b c h} (inv : Inv s) : EffectInv (commitVec i a b c s h) := by
  unfold commitVec
  split
  · exact inv
  · exact commit_inv inv

/-! ### What Machine/Operands.lean does to memory -/

theorem intResult_inv {i d r h} (inv : Inv s) : EffectInv (intResult i d r s h) := by
  unfold intResult
  split
  · exact inv
  · exact modHart_inv inv

theorem branch_inv {off taken h} (inv : Inv s) : EffectInv (branch off taken s h) := by
  unfold branch
  split <;> exact inv

/-! ### What Machine/Access.lean does to memory -/

theorem addOutst_inv {k o} (inv : Inv s) : Inv (s.addOutst k o) := ite_inv inv (modHart_inv inv)

theorem noteRead_inv {k slots pa} (inv : Inv s) : Inv (s.noteRead k slots pa) := by
  unfold State.noteRead
  split
  · exact addOutst_inv inv
  · exact addOutst_inv inv
  all_goals exact inv

theorem want_inv {pa code} (inv : Inv s) : WantInv (s.want pa code) := by
  unfold State.want
  grind [WantInv, Inv, emit_inv]

theorem wantEach_inv {α : Type} {l : List α} {at' f} (inv : Inv s) (want : ∀ u a, Inv u → WantInv (f u a)) :
    Inv (s.wantEach l at' f).1 := by
  unfold State.wantEach
  grind [foldl_fst_inv, WantInv, Inv]

theorem wantAll_inv {l} (inv : Inv s) : Inv (s.wantAll l).1 := wantEach_inv inv fun _ _ h => want_inv h

theorem askReads_inv {l} (inv : Inv s) : Inv (s.askReads l).1 := by
  unfold State.askReads
  grind [foldl_inv, dropAstray_inv, wantAll_inv]

theorem wantWrite_inv {v pa n alloc} (inv : Inv s) : WantInv (s.wantWrite v pa n alloc) := by
  unfold State.wantWrite
  grind [WantInv, settleOthers_inv, dropAstray_inv, want_inv, wantAll_inv]

theorem writeOne_inv {k v slots pa bs alloc scalar again} (inv : Inv s) : Inv (s.writeOne k v slots pa bs alloc scalar again) := by
  unfold State.writeOne
  grind [violation_inv, lostWrite_inv, addOutst_inv, sendWrCur_inv, storeSector_inv, landed_inv, dropLines_inv, storePlain_inv, correct_inv]

theorem landAll_inv {l} (inv : Inv s) : Inv (s.landAll l) := by
  unfold State.landAll
  grind [foldl_inv, landed_inv]

theorem refused_inv {k vault pa} (inv : Inv s) : Inv (s.refused k vault pa) := by
  unfold State.refused
  split
  · exact lostWrite_inv inv
  all_goals exact inv

theorem writeSpan_inv {k v slots alloc scalar bad pa bs} (inv : Inv s) : Inv (s.writeSpan k v slots alloc scalar bad pa bs) := by
  unfold State.writeSpan
  grind [foldl_inv, refused_inv, writeOne_inv]

theorem endReq_inv {k} (inv : Inv s) : Inv (s.endReq k) := modHart_inv inv

theorem sendReq_inv {k r o} (inv : Inv s) : Inv (s.sendReq k r o) := emit_inv (modHart_inv inv)

theorem bringPcie_inv {i h va pa n port} (inv : Inv s) : GotInv (bringPcie i s h va pa n port) := by
  unfold bringPcie
  grind [GotInv, sendReq_inv, writeNat_inv, endReq_inv]

theorem bringCxl_inv {i h va pa n own others} (inv : Inv s) : GotInv (bringCxl i s h va pa n own others) := by
  unfold bringCxl
  dsimp only
  split
  · exact endReq_inv inv
  · split <;> grind [GotInv, sendReq_inv, endReq_inv, Inv]

theorem bring_inv {i h v va pa n own alloc} (inv : Inv s) : GotInv (bring i s h v va pa n own alloc) := by
  unfold bring
  grind [GotInv, foldl_inv, dropAstray_inv, settleOthers_inv, bringCxl_inv, bringPcie_inv, correct_inv]

theorem loadHinted_inv {i hint h va n} (inv : Inv s) : GotInv (loadHinted i hint s h va n) := by
  unfold loadHinted
  grind [GotInv, bring_inv, fillTlb_inv, noteRead_inv, readTouch_inv]

theorem loadScalar_inv {i h va n} (inv : Inv s) : GotInv (loadScalar i s h va n) := loadHinted_inv inv

theorem fetchGet_inv {h va} (inv : Inv s) : FetchedInv (s.fetchGet h va) := by
  unfold State.fetchGet
  split
  · exact inv
  · split
    · exact inv
    · next w x _ =>
      dsimp only
      have filled : Inv (s.fillTlb x) := fillTlb_inv inv
      generalize s.fillTlb x = u at filled
      iterate 5 split; · exact filled
      grind [FetchedInv, askReads_inv, correct_inv, readKeep_inv, hostEvict_inv, modHart_inv, Inv]

theorem cover_inv {h sc sel} (inv : Inv s) : Inv (s.cover h sc sel) := ite_inv inv inv

theorem release_inv {h sc sel} (inv : Inv s) : OptionInv Inv (release s h sc sel) := by
  unfold release
  grind [OptionInv, sendReq_inv, modHart_inv]

theorem ordRelease_inv {h sc} (inv : Inv s) : OptionInv Inv (ordRelease s h sc) := by
  unfold ordRelease
  split
  · exact inv
  · exact release_inv inv

/-! ### What Machine/ScalarFp.lean does to memory -/

theorem fpResult_inv {d f r h} (inv : Inv s) : EffectInv (fpResult d f r s h) := modHart_inv inv

theorem fxResult_inv {d r h} (inv : Inv s) : EffectInv (fxResult d r s h) := modHart_inv inv

theorem execFcvt_inv {d a dst src rm} (inv : Inv s) : OutcomeInv (execFcvt d a dst src rm s) := by
  unfold execFcvt
  grind [run_inv, fxResult_inv, fpResult_inv]

/-! ### What Machine/Vector.lean does to memory -/

theorem pull_inv {i h vs ks} (inv : Inv s) : Inv (s.pull i h vs ks) := by
  unfold State.pull
  grind [foldl_inv, pullK_inv, pullV_inv]

theorem setV_inv {i r v} (inv : Inv s) : Inv (s.setV i r v) := putSlot_inv inv

theorem setK_inv {i r v} (inv : Inv s) : Inv (s.setK i r v) := ite_inv inv (putSlot_inv inv)

theorem orVflags_inv {k fl} (inv : Inv s) : Inv (s.orVflags k fl) := modHart_inv inv

theorem passed_inv {j stop n} (inv : Inv s) : IssueInv (passed s j stop n) := by
  unfold passed
  split <;> exact inv

theorem elementwise_inv {j vd srcs k f wide g} (inv : Inv s) : IssueInv (elementwise s j vd srcs k f wide g) :=
  passed_inv (orVflags_inv (setV_inv (pull_inv inv)))

theorem moveWhole_inv {j vd srcs k f g} (inv : Inv s) : IssueInv (moveWhole s j vd srcs k f g) := setV_inv (pull_inv inv)

theorem movement_inv {j vd srcs k f g} (inv : Inv s) : IssueInv (movement s j vd srcs k f g) := passed_inv (setV_inv (pull_inv inv))

theorem compareInto_inv {j kd srcs k f g} (inv : Inv s) : IssueInv (compareInto s j kd srcs k f g) :=
  passed_inv (orVflags_inv (setK_inv (pull_inv inv)))

theorem queueTrap_inv {k pos q} (inv : Inv s) : Inv (s.queueTrap k pos q) := by
  unfold State.queueTrap
  split
  · exact inv
  · exact ite_inv (modHart_inv inv) (ite_inv (modHart_inv (modHart_inv (noteError_inv inv))) (ite_inv (trapS_inv (modHart_inv
    (noteError_inv inv))) (trapS_inv (modHart_inv (noteError_inv inv)))))

theorem completeEntry_inv {k pos d r} (inv : Inv s) : Inv (s.completeEntry k pos d r) := modHart_inv inv

theorem queueWait_inv {k on} (inv : Inv s) : Inv (s.queueWait k on) := modHart_inv inv

theorem settleEntry_inv {k pos i a} (hk : IssueInv a) : Inv (settleEntry k pos i a) := by
  unfold settleEntry
  grind [IssueInv, queueWait_inv, completeEntry_inv, modHart_inv, queueTrap_inv]

/-! ### What Machine/VecMem.lean does to memory -/

theorem pageTrap_inv {j fs} (inv : Inv s) : IssueInv (pageTrap s j fs) := by
  unfold pageTrap
  split
  · exact inv
  · split
    · exact writeOwn_inv inv
    · exact inv

theorem runAhead_inv {j tile l n need} (inv : Inv s) : IssueInv (runAhead s j tile l n need) := by
  unfold runAhead
  grind [IssueInv, foldl_inv, pageTrap_inv, fillTlb_inv]

theorem how_wants_inv {w j l} (inv : Inv s) : Inv (How.wants w s j l).1 := by
  cases w with
  | load => exact askReads_inv inv
  | store => exact wantEach_inv inv fun _ _ h => wantWrite_inv h

theorem respond_inv {j r size n w va perform} (inv : Inv s) (hk : ∀ u b c, Inv u → Inv (perform u b c)) : IssueInv (respond s j r size n w
  va perform) := by
  unfold respond
  grind [IssueInv, how_wants_inv, landAll_inv]

theorem readVector_inv {j a2 va n hint footprint} (inv : Inv s) : Inv (s.readVector j a2 va n hint footprint).1 :=
  noteRead_inv (readTouch_inv (correct_inv inv))

theorem writeVector_inv {j bad a3 va n hint v} (inv : Inv s) : Inv (s.writeVector j bad a3 va n hint v) := writeSpan_inv inv

theorem issueAccess_inv {j v more k f need addr} (inv : Inv s) : IssueInv (issueAccess s j v more k f need addr) := by
  unfold issueAccess
  split
  · exact inv
  · exact runAhead_inv (pull_inv inv)

theorem loadCluster_inv {j v f unit hint footprint va l} (inv : Inv s) : Inv (loadCluster s j v f unit hint footprint va l) := by
  unfold loadCluster
  grind [foldl_fst_inv, readVector_inv, setV_inv]

theorem storeCluster_inv {j v f unit hint va bad l} (inv : Inv s) : Inv (storeCluster s j v f unit hint va bad l) := by
  unfold storeCluster
  grind [foldl_inv, writeVector_inv]

theorem loadReply_inv {j v f unit hint footprint va r} (inv : Inv s) : IssueInv (loadReply s j v f unit hint footprint va r) :=
  respond_inv inv (fun _ _ _ h1 => loadCluster_inv h1)

theorem storeReply_inv {j v f unit hint va r} (inv : Inv s) : IssueInv (storeReply s j v f unit hint va r) :=
  respond_inv inv (fun _ _ _ h1 => storeCluster_inv h1)

theorem notePops_inv {j t' l} (inv : Inv s) : Inv (s.notePops j t' l) := by
  unfold State.notePops
  grind [foldl_inv, noteRead_inv]

theorem popCluster_inv {o t' base size n j} (inv : Inv s) : IssueInv (popCluster o t' base size n s j) := by
  unfold popCluster
  grind [IssueInv, modHart_inv, setV_inv, notePops_inv]

theorem issueVldSt_inv {o j} (inv : Inv s) : IssueInv (issueVldSt o s j) := by
  unfold issueVldSt
  split
  · exact inv
  · split
    · exact inv
    · exact popCluster_inv (ite_inv (ite_inv (modHart_inv (pull_inv inv)) (pull_inv inv)) (modHart_inv (ite_inv (modHart_inv (pull_inv
      inv)) (pull_inv inv))))

/-! ### What Machine/Engine.lean does to memory -/

theorem commitEngine_inv {i a b c h} (inv : Inv s) : EffectInv (commitEngine i a b c s h) := commit_inv inv

theorem deniedTrap_inv {j need d va} (inv : Inv s) : IssueInv (deniedTrap s j need d va) := pageTrap_inv inv

theorem wantPieces_inv {c alloc l} (inv : Inv s) : Inv (s.wantPieces c alloc l).1 := wantEach_inv inv (fun _ _ h1 => wantWrite_inv h1)

theorem wantReads_inv {c alloc l} (inv : Inv s) : Inv (s.wantReads c alloc l).1 := askReads_inv inv

theorem operand_inv {j va n align need hint} (inv : Inv s) : OperandInv (operand s j va n align need hint) := by
  unfold operand
  split
  · exact inv
  · split
    · exact deniedTrap_inv inv
    · next l _ =>
      dsimp only
      have filled : Inv (l.foldl (fun s x => s.fillTlb x.1) s) := foldl_inv inv fun _ _ h => fillTlb_inv h
      generalize l.foldl (fun s x => s.fillTlb x.1) s = u at filled
      split
      · exact inv
      · split
        · repeat' split
          all_goals first | exact inv | skip
          all_goals grind [OperandInv, IssueInv, wantReads_inv]
        · grind [OperandInv, wantPieces_inv]

theorem readSpan_inv {k v slots pa n alloc} (inv : Inv s) : Inv (s.readSpan k v slots pa n alloc) := by
  unfold State.readSpan
  grind [foldl_inv, noteRead_inv, readTouch_inv, correct_inv]

theorem readPieces_inv {j slots hint l} (inv : Inv s) : Inv (s.readPieces j slots hint l).1 := by
  unfold State.readPieces
  grind [foldl_fst_inv, readSpan_inv]

theorem putPieces_inv {k c slots alloc bad l bs} (inv : Inv s) : Inv (s.putPieces k c slots alloc bad l bs) := by
  unfold State.putPieces
  grind [foldl_fst_inv, writeSpan_inv]

theorem writePieces_inv {j slots hint bad l bs} (inv : Inv s) : Inv (s.writePieces j slots hint bad l bs) := putPieces_inv inv

theorem acceptCopy_inv {j dlv hint a todo finished slots f} (inv : Inv s) : IssueInv (acceptCopy s j dlv hint a todo finished slots f) := by
  unfold acceptCopy
  grind [IssueInv, Inv, modHart_inv]

theorem startCopy_inv {j dlv hint a handle} (inv : Inv s) : IssueInv (startCopy s j dlv hint a handle) := acceptCopy_inv inv

theorem issueCpyt_inv {o j} (inv : Inv s) : IssueInv (issueCpyt o s j) := by
  unfold issueCpyt
  split
  · exact inv
  · exact startCopy_inv inv

theorem writeReplay_inv {h r} (inv : Inv s) : Inv (s.writeReplay h r) := by
  unfold State.writeReplay
  grind [foldl_inv, writeOwn_inv]

theorem issueCpyr_inv {dest hint j} (inv : Inv s) : IssueInv (issueCpyr dest hint s j) := by
  unfold issueCpyr
  split <;> exact acceptCopy_inv inv

theorem issueCbinit_inv {b j} (inv : Inv s) : IssueInv (issueCbinit b s j) := by
  unfold issueCbinit
  split
  · exact inv
  · exact modHart_inv inv

theorem issueCbwait_inv {b j} (inv : Inv s) : IssueInv (issueCbwait b s j) := by
  unfold issueCbwait
  grind [IssueInv]

theorem issueSopen_inv {st j hint} (inv : Inv s) : IssueInv (issueSopen st s j hint) := by
  unfold issueSopen
  grind [IssueInv, OperandInv, operand_inv, readPieces_inv, modHart_inv]

theorem issueMbxpop_inv {j hint} (inv : Inv s) : IssueInv (issueMbxpop s j hint) := by
  unfold issueMbxpop
  grind [IssueInv, OperandInv, operand_inv, modHart_inv, writePieces_inv]

theorem issueWaitmsg_inv {j} (inv : Inv s) : IssueInv (issueWaitmsg s j) := by
  unfold issueWaitmsg
  split <;> exact inv

theorem issueMsgsend_inv {j hint} (inv : Inv s) : IssueInv (issueMsgsend s j hint) := by
  unfold issueMsgsend
  grind [IssueInv, OperandInv, operand_inv, readPieces_inv, deliver_inv]

/-! ### What Machine/VecFp.lean does to memory -/

theorem fpBinary_inv {o g j} (inv : Inv s) : IssueInv (fpBinary o g s j) := elementwise_inv inv

theorem fpTernary_inv {o g j} (inv : Inv s) : IssueInv (fpTernary o g s j) := elementwise_inv inv

theorem fpSelect_inv {mx o j} (inv : Inv s) : IssueInv (fpSelect mx o s j) := elementwise_inv inv

theorem special_inv {o g j} (inv : Inv s) : IssueInv (special o g s j) := elementwise_inv inv

/-! ### What Machine/VecMisc.lean does to memory -/

theorem maskOp_inv {kd ka kb g j} (inv : Inv s) : IssueInv (maskOp kd ka kb g s j) := setK_inv (pull_inv inv)

theorem maskCount_inv {ka g j} (inv : Inv s) : IssueInv (maskCount ka g s j) := pull_inv inv

theorem reduction_inv {o j g} (inv : Inv s) : IssueInv (reduction o s j g) := by
  unfold reduction
  grind [IssueInv, pull_inv, orVflags_inv, setV_inv]

theorem issueVredosum_inv {o j} (inv : Inv s) : IssueInv (issueVredosum o s j) := by
  unfold issueVredosum
  grind [IssueInv, reduction_inv, passed_inv]

/-! ### What Machine/Rx.lean does to memory -/

theorem issueRxopen_inv {q j hint} (inv : Inv s) : IssueInv (issueRxopen q s j hint) := by
  unfold issueRxopen
  grind [IssueInv, OperandInv, modHart_inv, operand_inv, readPieces_inv]

theorem rxRead_inv {j hint q pos n} (inv : Inv s) : TakeInv (rxRead s j hint q pos n) := by
  unfold rxRead
  split
  · exact trivial
  · split
    · exact trivial
    · split
      · exact trivial
      · exact readPieces_inv inv

theorem retireMsg_inv {j hint n q len} (inv : Inv s) : Inv (retireMsg s j hint n q len) := by
  unfold retireMsg
  grind [putPieces_inv, modHart_inv]

theorem bufferTrap_inv {j d va} (inv : Inv s) : IssueInv (bufferTrap s j d va) := deniedTrap_inv inv

theorem popTake_inv {j t' k} (inv : Inv s) (hk : TakeInv t') (hk2 : ∀ u b, Inv u → IssueInv (k u b)) : IssueInv (popTake s j t' k) := by
  unfold popTake
  grind [IssueInv, TakeInv, bufferTrap_inv]

theorem issueRxpop_inv {n j hint} (inv : Inv s) : IssueInv (issueRxpop n s j hint) := by
  unfold issueRxpop
  grind [IssueInv, OperandInv, popTake_inv, rxRead_inv, operand_inv, retireMsg_inv, writePieces_inv]

theorem nextElem_inv {n size hint j fuel} (inv : Inv s) : NextInv (nextElem n size hint j fuel s) := by
  induction fuel generalizing s with
  | zero => exact inv
  | succ fuel ih =>
    unfold nextElem
    grind [NextInv, TakeInv, rxRead_inv, retireMsg_inv]

theorem takeElem_inv {n size hint j} (inv : Inv s) : OptionInv (Inv ·.1) (takeElem n size hint j s) := by
  unfold takeElem
  grind [OptionInv, TakeInv, rxRead_inv, retireMsg_inv, modHart_inv]

theorem redqLoop_inv {o n j todo acc i fl} (inv : Inv s) : Inv (redqLoop o n j todo s acc i fl).1 := by
  induction todo generalizing s acc i fl with
  | zero => exact inv
  | succ todo ih =>
    unfold redqLoop
    grind [NextInv, OptionInv, nextElem_inv, takeElem_inv]

theorem issueVredq_inv {o j} (inv : Inv s) : IssueInv (issueVredq o s j) := by
  unfold issueVredq
  grind [IssueInv, NextInv, fillTlb_inv, nextElem_inv, bufferTrap_inv]

theorem redqTrap_inv {o j dead} (inv : Inv s) : IssueInv (redqTrap o s j dead) := inv

theorem replyVredq_inv {o j r} (inv : Inv s) : IssueInv (replyVredq o s j r) := by
  unfold replyVredq
  grind [IssueInv, NextInv, redqTrap_inv, pull_inv, redqLoop_inv, nextElem_inv, orVflags_inv, setV_inv]

/-! ### What Machine/Coll.lean does to memory -/

theorem newHandle_inv {used} (inv : Inv s) : Inv (s.newHandle used).1 := by
  unfold State.newHandle
  grind [draw_inv]

theorem modColl_inv {p g k f} (inv : Inv s) : Inv (s.modColl p g k f) := inv

theorem openColl_inv {p g k} (inv : Inv s) : Inv (s.openColl p g k) := ite_inv inv inv

theorem addMember_inv {p g k m} (inv : Inv s) : Inv (s.addMember p g k m) := modColl_inv (openColl_inv inv)

theorem closeColl_inv {c} (inv : Inv s) : Inv (s.closeColl c) := inv

theorem lateMember_inv {g c n} (inv : Inv s) : Inv (s.lateMember g c n) := ite_inv (closeColl_inv inv) (modColl_inv inv)

theorem issueColl_inv {o j} (inv : Inv s) : IssueInv (issueColl o s j) := by
  unfold issueColl
  grind [OptionInv, IssueInv, release_inv, newHandle_inv, cover_inv, modHart_inv, emit_inv, lateMember_inv, addMember_inv]

theorem issueCollwait_inv {j} (inv : Inv s) : IssueInv (issueCollwait s j) := by
  unfold issueCollwait
  split
  · exact inv
  · exact inv
  · exact modHart_inv inv

theorem collMember_learns_inv {m status} (inv : Inv s) : Inv (CollMember.learns s m status) := by
  unfold CollMember.learns
  split
  · exact inv
  · exact modHart_inv inv

theorem endColl_inv {c status} (inv : Inv s) : Inv (s.endColl c status) := by
  unfold State.endColl
  grind [foldl_inv, collMember_learns_inv, modColl_inv, closeColl_inv]

theorem readSource_inv {a p m} (hk : Inv a.1) : Inv (readSource a p m).1 := by
  unfold readSource
  grind [foldl_fst_inv, readSpan_inv, fillTlb_inv]

theorem collOpState_wantSources_inv {c} (inv : Inv s) : Inv (CollOpState.wantSources c s).1 := askReads_inv inv

theorem sendColl_inv {p g k n} (inv : Inv s) : Inv (s.sendColl p g k n) := by
  unfold State.sendColl
  grind [foldl_inv, emit_inv, modColl_inv]

theorem noteBanks_inv {k va} (inv : Inv s) : Inv (s.noteBanks k va) := by
  unfold State.noteBanks
  grind [foldl_inv, noteBank_inv]

theorem faultColl_inv {c span bad} (inv : Inv s) : Inv (s.faultColl c span bad) := by
  unfold State.faultColl
  grind [foldl_inv, faultRecord_inv, noteBanks_inv, endColl_inv, emit_inv]

theorem execCollOperationStart_inv {p g k} (inv : Inv s) : OutcomeInv (execCollOperationStart p g k s) := by
  unfold execCollOperationStart
  grind [OutcomeInv, foldl_fst_inv, endColl_inv, faultColl_inv, collOpState_wantSources_inv, readSource_inv, sendColl_inv, modColl_inv]

theorem execCollPartialTransfer_inv {p g k news} (inv : Inv s) : OutcomeInv (execCollPartialTransfer p g k news s) := by
  unfold execCollPartialTransfer
  grind [OutcomeInv, modColl_inv, openColl_inv, sendColl_inv, endColl_inv]

theorem collMember_write_inv {m p bad out} (inv : Inv s) : Inv (CollMember.write m p bad out s) := by
  unfold CollMember.write
  grind [foldl_fst_inv, writeSpan_inv]

theorem collOpState_settling_inv {c} (inv : Inv s) : OptionInv Inv (CollOpState.settling c s) := by
  refine optionInv_findSome? fun m => ?_
  split
  · exact release_inv inv
  · trivial

theorem collOpState_coverAll_inv {c} (inv : Inv s) : Inv (CollOpState.coverAll c s) := by
  unfold CollOpState.coverAll
  grind [foldl_inv, cover_inv]

theorem finishColl_inv {c} (inv : Inv s) : Inv (s.finishColl c) := by
  unfold State.finishColl
  grind [OptionInv, collOpState_settling_inv, endColl_inv, collOpState_coverAll_inv]

theorem execCollOperationEnd_inv {p g k} (inv : Inv s) : OutcomeInv (execCollOperationEnd p g k s) := by
  unfold execCollOperationEnd
  grind [OutcomeInv, foldl_inv, finishColl_inv, wantEach_inv, wantWrite_inv, modColl_inv, collMember_write_inv]

theorem execCollPackageUnreachable_inv {pkg} (inv : Inv s) : OutcomeInv (execCollPackageUnreachable pkg s) := by
  unfold execCollPackageUnreachable
  grind [OutcomeInv, foldl_inv, endColl_inv, faultRecord_inv]

/-! ### What Machine/CopyEv.lean does to memory -/

theorem readCopyByte_inv {bad refused a i} (hk : Inv a.1) : Inv (readCopyByte bad refused a i).1 := by
  unfold readCopyByte
  grind [noteRead_inv, readTouch_inv, correct_inv, fillTlb_inv]

theorem writeCopyPiece_inv {a} (hk : Inv a.1) : Inv (writeCopyPiece a).1 := by
  unfold writeCopyPiece
  grind [writeOne_inv]

theorem writeCopyByte_inv {bad refused a i} (hk : Inv a.1) : Inv (writeCopyByte bad refused a i).1 := by
  unfold writeCopyByte
  grind [fillTlb_inv, writeCopyPiece_inv]

theorem copy_wantSource_inv {c l} (inv : Inv s) : Inv (Copy.wantSource c s l).1 := askReads_inv inv

theorem copy_wantDest_inv {c l} (inv : Inv s) : Inv (Copy.wantDest c s l).1 := wantEach_inv inv (fun _ _ h1 => wantWrite_inv h1)

theorem putCopy_inv {c} (inv : Inv s) : Inv (s.putCopy c) := inv

theorem endTransfer_inv {c} (inv : Inv s) : Inv (endTransfer s c) := by
  unfold endTransfer
  grind [foldl_inv, noteBank_inv, faultRecord_inv, putCopy_inv]

theorem execCopyTransfer_inv {k id bad} (inv : Inv s) : OutcomeInv (execCopyTransfer k id bad s) := by
  unfold execCopyTransfer
  grind [OutcomeInv, foldl_fst_inv, copy_wantSource_inv, readCopyByte_inv, putCopy_inv, copy_wantDest_inv, writeCopyPiece_inv,
    writeCopyByte_inv, landAll_inv, endTransfer_inv]

theorem keepReplay_inv {h c} (inv : Inv s) : Inv (s.keepReplay h c) := ite_inv (writeReplay_inv (modHart_inv inv)) inv

theorem execCopyCompletion_inv {k id} (inv : Inv s) : OutcomeInv (execCopyCompletion k id s) := by
  unfold execCopyCompletion
  grind [OutcomeInv, Inv, modHart_inv, keepReplay_inv, deliver_inv]

theorem fetchElem_inv {h t' p bad} (inv : Inv s) : FetchInv (fetchElem s h t' p bad) := by
  unfold fetchElem
  grind [FetchInv, askReads_inv, readSpan_inv, fillTlb_inv]

theorem execStreamFetch_inv {k st count bad} (inv : Inv s) : OutcomeInv (execStreamFetch k st count bad s) := by
  unfold execStreamFetch
  grind [OutcomeInv, FetchInv, foldl_fst_inv, fetchElem_inv, faultRecord_inv, modHart_inv]

theorem rxWrite_inv {h q pos bs} (inv : Inv s) : Inv (rxWrite s h q pos bs) := by
  unfold rxWrite
  split
  · exact inv
  · exact putPieces_inv inv

theorem execRxMessageArrival_inv {k n srcHart srcPkg tag payload} (inv : Inv s) : OutcomeInv (execRxMessageArrival k n srcHart srcPkg tag
  payload s) := by
  unfold execRxMessageArrival
  grind [OutcomeInv, emit_inv, faultRecord_inv, rxWrite_inv, modHart_inv, post_inv]

/-! ### What Machine/Tensor.lean does to memory -/

theorem execMexit_inv {hint} (inv : Inv s) : OutcomeInv (execMexit hint s) := by
  unfold execMexit
  grind [EffectInv, run_inv, putSlot_inv, modHart_inv]

theorem commitTensor_inv {i pairs a b c h} (inv : Inv s) : EffectInv (commitTensor i pairs a b c s h) := by
  unfold commitTensor
  split
  · exact inv
  · exact commitVec_inv inv

theorem setM_inv {j t' v} (inv : Inv s) : Inv (s.setM j t' v) := ite_inv (putSlot_inv inv) (putSlot_inv inv)

theorem accumulate_inv {j md vs g} (inv : Inv s) : IssueInv (accumulate s j md vs g) := orVflags_inv (setM_inv (pullM_inv (pull_inv inv)))

theorem issueMld_inv {o j} (inv : Inv s) : IssueInv (issueMld o s j) := by
  unfold issueMld
  split
  · exact inv
  · exact runAhead_inv (pullM_inv inv)

theorem replyMld_inv {o j r} (inv : Inv s) : IssueInv (replyMld o s j r) := by
  unfold replyMld
  grind [foldl_fst_inv, respond_inv, readVector_inv, setM_inv]

theorem issueMst_inv {o j} (inv : Inv s) : IssueInv (issueMst o s j) := by
  unfold issueMst
  split
  · exact inv
  · exact runAhead_inv (pullM_inv inv)

theorem replyMst_inv {o j r} (inv : Inv s) : IssueInv (replyMst o s j r) := by
  unfold replyMst
  grind [foldl_inv, respond_inv, writeVector_inv]

theorem moveLine_inv {o at' j} (inv : Inv s) : IssueInv (moveLine o at' s j) := by
  unfold moveLine
  split
  · exact setM_inv (pullM_inv (pull_inv inv))
  · exact setV_inv (pullM_inv (pull_inv inv))

/-! ### What Machine/Path.lean does to memory -/

theorem performStore_inv {k a2} (inv : Inv s) : Inv (s.performStore k a2) := by
  unfold State.performStore
  grind [WantInv, modHart_inv, wantWrite_inv, refused_inv, writeOne_inv]

theorem drainPaths_inv (inv : Inv s) : Inv s.drainPaths := by
  unfold State.drainPaths
  grind [foldl_inv, Inv, unstall_inv, performStore_inv]

theorem storeScalar_inv {h va n v} (inv : Inv s) : EffectInv (storeScalar s h va n v) := by
  unfold storeScalar
  split
  · exact inv
  · split
    · exact inv
    · split
      · exact inv
      · exact performStore_inv (modHart_inv (fillTlb_inv inv))

/-! ### What Machine/Atomics.lean does to memory -/

theorem rmwPcie_inv {i h a3 va n port op} (inv : Inv s) : GotInv (rmwPcie i s h a3 va n port op) := by
  unfold rmwPcie
  grind [GotInv, modHart_inv, sendReq_inv]

theorem takeAtomic_inv {i h va n} (inv : Inv s) : OptionInv GotInv (takeAtomic i s h va n) := by
  unfold takeAtomic
  grind [OptionInv, GotInv, endReq_inv]

theorem rmwInside_inv {i h a3 va n f} (inv : Inv s) : GotInv (rmwInside i s h a3 va n f) := by
  unfold rmwInside
  grind [GotInv, bring_inv, renew_inv, writeOne_inv, noteRead_inv, readTouch_inv]

theorem rmw_inv {i h a3 va n op f} (inv : Inv s) : GotInv (rmw i s h a3 va n op f) := by
  unfold rmw
  split
  · split
    · exact rmwInside_inv inv
    · exact rmwPcie_inv inv
  all_goals exact rmwInside_inv inv

theorem covered_inv {o h sc} (inv : Inv s) : Inv (s.covered o h sc) := ite_inv (cover_inv inv) inv

theorem atomic_inv {i h va n o sc op f} (inv : Inv s) : GotInv (atomic i s h va n o sc op f) := by
  unfold atomic
  grind [OptionInv, GotInv, takeAtomic_inv, ordRelease_inv, rmw_inv, fillTlb_inv, covered_inv]

theorem amoBody_inv {i d a n o sc op f h} (inv : Inv s) : EffectInv (amoBody i d a n o sc op f s h) := by
  unfold amoBody
  grind [EffectInv, GotInv, atomic_inv, modHart_inv]

theorem ldresBody_inv {i d a n h} (inv : Inv s) : EffectInv (ldresBody i d a n s h) := by
  unfold ldresBody
  grind [EffectInv, GotInv, bring_inv, fillTlb_inv, renew_inv, modHart_inv, noteRead_inv, readTouch_inv]

theorem stcondBody_inv {i d a b n o sc h} (inv : Inv s) : EffectInv (stcondBody i d a b n o sc s h) := by
  unfold stcondBody
  grind [OptionInv, EffectInv, GotInv, ordRelease_inv, covered_inv, bring_inv, fillTlb_inv, modHart_inv, writeOne_inv, renew_inv]

/-! ### What Machine/Control.lean does to memory -/

theorem jumpChecks_inv {t' h} (inv : Inv s) : LandingInv (jumpChecks t' s h) := by
  unfold jumpChecks
  grind [FetchedInv, LandingInv, fetchGet_inv, modHart_inv]

theorem execJx_inv {a} (inv : Inv s) : OutcomeInv (execJx a s) := by
  unfold execJx
  grind [EffectInv, LandingInv, run_inv, jumpChecks_inv]

theorem execCallx_inv {d a} (inv : Inv s) : OutcomeInv (execCallx d a s) := by
  unfold execCallx
  grind [EffectInv, LandingInv, run_inv, jumpChecks_inv, modHart_inv]

theorem execRet_inv {a} (inv : Inv s) : OutcomeInv (execRet a s) := by
  unfold execRet
  grind [EffectInv, run_inv, missMove_inv, clearImage_inv, modHart_inv]

/-! ### What Machine/Sync.lean does to memory -/

theorem execFence_inv {o sc} (inv : Inv s) : OutcomeInv (execFence o sc s) := by
  unfold execFence
  grind [OptionInv, EffectInv, run_inv, ordRelease_inv, cover_inv]

theorem execXfence_inv (inv : Inv s) : OutcomeInv (execXfence s) := by
  unfold execXfence
  grind [EffectInv, run_inv]

theorem execRfence_inv {o sc mask} (inv : Inv s) : OutcomeInv (execRfence o sc mask s) := by
  unfold execRfence
  grind [OptionInv, EffectInv, run_inv, release_inv, cover_inv]

theorem clearSlot_inv {k n} (inv : Inv s) : Inv (s.clearSlot k n) := modHart_inv inv

theorem setSlot_inv {k n r} (inv : Inv s) : Inv (s.setSlot k n r) := modHart_inv (clearSlot_inv inv)

theorem execRslot_inv {n a b} (inv : Inv s) : OutcomeInv (execRslot n a b s) := by
  unfold execRslot
  grind [EffectInv, run_inv, setSlot_inv]

theorem execRslott_inv {n a} (inv : Inv s) : OutcomeInv (execRslott n a s) := by
  unfold execRslott
  grind [EffectInv, run_inv, setSlot_inv]

theorem blockReady_inv {i va pa} (inv : Inv s) : ExceptInv (blockReady i s va pa) := by
  unfold blockReady
  split
  · exact trivial
  · split
    · exact trivial
    · exact correct_inv inv

theorem writeWaits_inv {pa sc} (inv : Inv s) : OptionInv Inv (s.writeWaits pa sc) := by
  unfold State.writeWaits
  grind [OptionInv, close_inv, backInvalidate_inv]

theorem execBarInit_inv {a b sc} (inv : Inv s) : OutcomeInv (execBarInit a b sc s) := by
  unfold execBarInit
  grind [OptionInv, ExceptInv, EffectInv, run_inv, blockReady_inv, fillTlb_inv, writeWaits_inv, writeOne_inv]

theorem arriveTrap_inv {j e} (inv : Inv s) : IssueInv (arriveTrap s j e) := by
  unfold arriveTrap
  split
  · exact inv
  · exact deniedTrap_inv inv
  · exact inv

theorem issueBarArrive_inv {j} (inv : Inv s) : IssueInv (issueBarArrive s j) := by
  unfold issueBarArrive
  split
  · exact arriveTrap_inv inv
  · split
    · exact inv
    · exact fillTlb_inv inv

theorem fireMarker_inv {j vault pa} (inv : Inv s) : IssueInv (fireMarker s j vault pa) := by
  unfold fireMarker
  split
  · exact inv
  · exact modHart_inv (writeOne_inv (noteRead_inv inv))

theorem fireTurn_inv {i j} (inv : Inv s) : IssueInv (fireTurn i s j) := by
  unfold fireTurn
  grind [ExceptInv, IssueInv, arriveTrap_inv, blockReady_inv, fireMarker_inv]

theorem execBarArriveFire_inv {k pos} (inv : Inv s) : OutcomeInv (execBarArriveFire k pos s) := by
  unfold execBarArriveFire
  split
  · exact inv
  · split
    · split
      · grind [OutcomeInv, OptionInv, release_inv, settleEntry_inv, fireTurn_inv, cover_inv]
      · exact inv
    · exact inv

theorem execBarWait_inv {a sc} (inv : Inv s) : OutcomeInv (execBarWait a sc s) := by
  unfold execBarWait
  grind [ExceptInv, EffectInv, run_inv, blockReady_inv, fillTlb_inv, modHart_inv, noteRead_inv, renew_inv]

/-! ### What Machine/Tasks.lean does to memory -/

theorem createHart_inv {p t' index} (inv : Inv s) : Inv (s.createHart p t' index) := by
  unfold State.createHart
  grind [Inv, modPart_inv, assignAreas_inv]

theorem createHarts_inv {p t'} (inv : Inv s) : Inv (s.createHarts p t') := by
  unfold State.createHarts
  grind [foldl_inv, createHart_inv, modPart_inv]

theorem newTask_inv {p src i e depth arg core} (inv : Inv s) : Inv (s.newTask p src i e depth arg core).1 := by
  unfold State.newTask
  grind [newHandle_inv, modPart_inv, createHarts_inv]

theorem endTask_inv {p hd} (inv : Inv s) : Inv (s.endTask p hd) := modPart_inv inv

theorem endHart_inv {k} (inv : Inv s) : Inv (s.endHart k) := by
  unfold State.endHart
  split
  · exact inv
  · exact removeHart_inv (ite_inv (endTask_inv (modPart_inv inv)) (modPart_inv inv))

theorem execLaunch_inv {d a b} (inv : Inv s) : OutcomeInv (execLaunch d a b s) := by
  unfold execLaunch
  grind [OptionInv, EffectInv, run_inv, modHart_inv, ordRelease_inv, newTask_inv]

theorem execJoin_inv {d a} (inv : Inv s) : OutcomeInv (execJoin d a s) := by
  unfold execJoin
  grind [EffectInv, run_inv, modHart_inv, modPart_inv]

theorem execExit_inv (inv : Inv s) : OutcomeInv (execExit s) := by
  unfold execExit
  grind [OptionInv, EffectInv, run_inv, ordRelease_inv, endHart_inv]

theorem openFarm_inv {p task total strip up} (inv : Inv s) : Inv (s.openFarm p task total strip up).1 := by
  unfold State.openFarm
  grind [draw_inv, modPart_inv]

theorem execFarm_inv {d a} (inv : Inv s) : OutcomeInv (execFarm d a s) := by
  unfold execFarm
  grind [EffectInv, GotInv, run_inv, loadScalar_inv, modHart_inv, openFarm_inv]

theorem execFclaim_inv {d a} (inv : Inv s) : OutcomeInv (execFclaim d a s) := by
  unfold execFclaim
  grind [EffectInv, run_inv, modHart_inv, modPart_inv]

theorem execWmpub_inv {a b} (inv : Inv s) : OutcomeInv (execWmpub a b s) := by
  unfold execWmpub
  grind [OptionInv, EffectInv, run_inv, ordRelease_inv, modPart_inv, modHart_inv]

theorem execWmwait_inv {a b} (inv : Inv s) : OutcomeInv (execWmwait a b s) := by
  unfold execWmwait
  grind [EffectInv, run_inv]

theorem execTaskTerminated_inv {p hd} (inv : Inv s) : OutcomeInv (execTaskTerminated p hd s) := by
  unfold execTaskTerminated
  grind [OutcomeInv, foldl_inv, modPart_inv, endTask_inv, endHart_inv]

/-! ### What Machine/System.lean does to memory -/

theorem writeVown_inv {h w} (inv : Inv s) : Inv (s.writeVown h w) := by
  unfold State.writeVown
  split
  · exact inv
  · exact ite_inv (ite_inv (claim_inv (writeBack_inv inv)) inv) (putSlot_inv (writeBack_inv inv))

theorem writeFqctl_inv {p w clear} (inv : Inv s) : Inv (s.writeFqctl p w clear) := by
  unfold State.writeFqctl
  grind [Inv, modPart_inv]

theorem writeMfreq_inv {w} (inv : Inv s) : Inv (s.writeMfreq w) := by
  unfold State.writeMfreq
  split <;> exact inv

theorem csrWrite_inv {h n w clear} (inv : Inv s) : Inv (csrWrite s h n w clear) := by
  unfold csrWrite
  grind [Inv, modHart_inv, writeVown_inv, writeFqctl_inv, writeMfreq_inv]

theorem csrBody_inv {i d n write h} (inv : Inv s) : EffectInv (csrBody i d n write s h) := by
  unfold csrBody
  grind [EffectInv, modHart_inv, csrWrite_inv]

theorem trapBack_inv {k t'} (inv : Inv s) : Inv (s.trapBack k t') := by
  unfold State.trapBack
  split
  · exact inv
  · exact ite_inv (terminatePart_inv inv) (modHart_inv inv)

theorem followImage_inv {k code} (inv : Inv s) : Inv (s.followImage k code) := missMove_inv (modHart_inv inv)

theorem restoreImage_inv {k} (inv : Inv s) : Inv (s.restoreImage k) := by
  unfold State.restoreImage
  grind [trapBack_inv, modHart_inv, followImage_inv, clearImage_inv]

theorem restoreOwnImage_inv {k} (inv : Inv s) : Inv (s.restoreOwnImage k) := by
  unfold State.restoreOwnImage
  grind [trapBack_inv, followImage_inv, writeOwn_inv, modHart_inv]

theorem execEcall_inv (inv : Inv s) : OutcomeInv (execEcall s) := by
  unfold execEcall
  grind [EffectInv, run_inv, modHart_inv]

theorem execEret_inv (inv : Inv s) : OutcomeInv (execEret s) := by
  unfold execEret
  grind [EffectInv, run_inv, restoreOwnImage_inv, modHart_inv, missMove_inv, restoreImage_inv]

theorem execIfence_inv (inv : Inv s) : OutcomeInv (execIfence s) := by
  unfold execIfence
  grind [EffectInv, Inv, run_inv, modHart_inv]

/-! ### What Machine/Vaults.lean does to memory -/

theorem loadRecord_inv {i hint h va n} (inv : Inv s) : GotInv (loadRecord i hint s h va n) := by
  unfold loadRecord
  grind [GotInv, foldl_inv, loadHinted_inv, readTouch_inv]

theorem answer_inv {h xd z} (inv : Inv s) : EffectInv (answer s h xd z) := modHart_inv inv

theorem execVdef_inv {xd rec hint} (inv : Inv s) : OutcomeInv (execVdef xd rec hint s) := by
  unfold execVdef
  grind [EffectInv, GotInv, run_inv, loadRecord_inv, answer_inv, modPart_inv]

theorem execVresize_inv {xd index rec hint} (inv : Inv s) : OutcomeInv (execVresize xd index rec hint s) := by
  unfold execVresize
  grind [EffectInv, GotInv, Inv, run_inv, loadRecord_inv, answer_inv, modPart_inv]

theorem execVdrop_inv {d a} (inv : Inv s) : OutcomeInv (execVdrop d a s) := by
  unfold execVdrop
  grind [run_inv, answer_inv, modPart_inv]

theorem endWalk_inv {p v} (inv : Inv s) : Inv (s.endWalk p v) := by
  unfold State.endWalk
  split
  · exact post_inv (modPart_inv inv)
  · exact modPart_inv inv

theorem execVaultWalkStep_inv {p index} (inv : Inv s) : OutcomeInv (execVaultWalkStep p index s) := by
  unfold execVaultWalkStep
  grind [OutcomeInv, endWalk_inv, modPart_inv, dropLines_inv]

theorem execTdset_inv {xd handle rec hint} (inv : Inv s) : OutcomeInv (execTdset xd handle rec hint s) := by
  unfold execTdset
  grind [OptionInv, EffectInv, GotInv, run_inv, loadRecord_inv, answer_inv, writeWaits_inv, writeOne_inv]

theorem execTdget_inv {d a b} (inv : Inv s) : OutcomeInv (execTdget d a b s) := by
  unfold execTdget
  grind [EffectInv, run_inv, modHart_inv]

theorem execTlbinv_inv {asid addr len all hint} (inv : Inv s) : OutcomeInv (execTlbinv asid addr len all hint s) := by
  unfold execTlbinv
  grind [EffectInv, Inv, run_inv]

theorem execTlbinvAck_inv {id core} (inv : Inv s) : OutcomeInv (execTlbinvAck id core s) := by
  unfold execTlbinvAck
  split
  · exact inv
  · split <;> exact inv

/-! ### What Machine/Caches.lean does to memory -/

theorem discard_inv {l} (inv : Inv s) : Inv (s.discard l) := by
  unfold State.discard
  grind [foldl_inv, endReservations_inv, writeBytes_inv]

theorem cleanHost_inv {l told} (inv : Inv s) : Inv (s.cleanHost l told) := by
  unfold State.cleanHost
  grind [foldl_inv, emit_inv, setCxl_inv]

theorem treatLine_inv {t' l whole} (inv : Inv s) : Inv (s.treatLine t' l whole) := by
  unfold State.treatLine
  split
  · exact dropLines_inv (ite_inv (cleanHost_inv (discard_inv inv)) inv)
  · exact dropLines_inv inv
  · exact cleanHost_inv inv

theorem treatPiece_inv {p t' a3} (inv : Inv s) : Inv (s.treatPiece p t' a3) := by
  unfold State.treatPiece
  grind [foldl_inv, Inv, dropL1_inv, treatLine_inv]

theorem maintain_inv {i t' a b h} (inv : Inv s) : EffectInv (maintain i t' a b s h) := by
  unfold maintain
  grind [OptionInv, EffectInv, foldl_inv, release_inv, fillTlb_inv, treatPiece_inv]

theorem execRegionRequest_inv {addr die write} (inv : Inv s) : OutcomeInv (execRegionRequest addr die write s) := by
  unfold execRegionRequest
  split
  · exact inv
  · exact ite_inv (regionWrite_inv inv) (regionRead_inv inv)

theorem execLeaseExpiry_inv {region die} (inv : Inv s) : OutcomeInv (execLeaseExpiry region die s) := by
  unfold execLeaseExpiry
  split
  · exact ite_inv (endLease_inv inv) inv
  · exact inv

theorem gatherRegion_inv {r die} (inv : Inv s) : Inv (s.gatherRegion r die) := dropL1_inv (dropLines_inv inv)

theorem execRegionDecay_inv {region} (inv : Inv s) : OutcomeInv (execRegionDecay region s) := by
  unfold execRegionDecay
  split
  · exact inv
  · exact putRegion_inv (gatherRegion_inv inv)

/-! ### What Machine/Hostq.lean does to memory -/

theorem modQueue_inv {p q f} (inv : Inv s) : Inv (s.modQueue p q f) := modPart_inv inv

theorem queueWrite_inv {p q now latch} (inv : Inv s) : Inv (s.queueWrite p q now latch) :=
  ite_inv (modQueue_inv inv) (ite_inv (modQueue_inv inv) inv)

theorem writeFeatreq_inv {v} (inv : Inv s) : Inv (s.writeFeatreq v) := ite_inv inv inv

theorem writePcmd_inv {v} (inv : Inv s) : Inv (s.writePcmd v) := ite_inv inv inv

theorem writeDevctl2_inv {n v} (inv : Inv s) : Inv (s.writeDevctl2 n v) := inv

theorem execRegisterWrite_inv {r v} (inv : Inv s) : OutcomeInv (execRegisterWrite r v s) := by
  unfold execRegisterWrite
  grind [OutcomeInv, Inv, queueWrite_inv, writePcmd_inv, writeFeatreq_inv, writeDevctl2_inv]

theorem endCommand_inv {p q status handle} (inv : Inv s) : Inv (s.endCommand p q status handle) := by
  unfold State.endCommand
  extract_lets x bs t u
  have stored : Inv t := storeSector_inv inv
  exact modQueue_inv (ite_inv (emit_inv stored) stored)

theorem failCommand_inv {p q} (inv : Inv s) : Inv (s.failCommand p q) := modQueue_inv inv

theorem runCommand_inv {p q readOk is body} (hk : ∀ u b, Inv u → OptionInv (Inv ·.1) (body u b)) (inv : Inv s) : OutcomeInv (runCommand p
  q readOk is body s) := by
  unfold runCommand
  grind [OptionInv, OutcomeInv, failCommand_inv, endCommand_inv]

theorem execHqLaunch_inv {p q readOk} (inv : Inv s) : OutcomeInv (execHqLaunch p q readOk s) := by
  unfold execHqLaunch
  grind [OptionInv, runCommand_inv, newTask_inv]

theorem execEntryWrite_inv {p q readOk} (inv : Inv s) : OutcomeInv (execEntryWrite p q readOk s) := by
  refine runCommand_inv (fun u c h => ?_) inv
  split
  · exact h
  · cases u.hostRead (u.part (partNo p)).queues[q].port c.arg.toNat 32 with
    | none => trivial
    | some n => exact h

theorem execTdWrite_inv {p q readOk} (inv : Inv s) : OutcomeInv (execTdWrite p q readOk s) := by
  refine runCommand_inv (fun u c h => ?_) inv
  cases u.hostRead (u.part (partNo p)).queues[q].port c.arg.toNat 64 with
  | none => trivial
  | some d =>
    dsimp only [Option.map, OptionInv]
    split
    · exact h
    · exact storeSector_inv h

theorem execNetLaunchPacket_inv {p bytes} (inv : Inv s) : OutcomeInv (execNetLaunchPacket p bytes s) := by
  unfold execNetLaunchPacket
  grind [OutcomeInv, emit_inv, newTask_inv]

/-! ### What Machine/VecInt.lean does to memory -/

theorem intBinary_inv {o g j} (inv : Inv s) : IssueInv (intBinary o g s j) := elementwise_inv inv

theorem intUnary_inv {o g j} (inv : Inv s) : IssueInv (intUnary o g s j) := elementwise_inv inv

/-! ### What Machine/Queue.lean does to memory -/

theorem issueEntry_inv {i j} (inv : Inv s) : IssueInv (issueEntry i s j) := by
  unfold issueEntry
  cases i with
  | vadd | vsub | vmul | vmulh | vdiv | vrem | vmin | vmax | vand | vor | vxor | vsll | vsrl | vsra => exact intBinary_inv inv
  | vabs | vneg => exact intUnary_inv inv
  | vcmp | vfcmp => exact compareInto_inv inv
  | vmerge | vmv | vslideup | vslidedn | vperm => exact movement_inv inv
  | vmvx => exact pull_inv inv
  | vid | vfsqrt | vfabs | vfneg | vfcvt => exact elementwise_inv inv
  | vfadd | vfsub | vfmul | vfdiv => exact fpBinary_inv inv
  | vfma | vfms | vfnma => exact fpTernary_inv inv
  | vfmin | vfmax => exact fpSelect_inv inv
  | vld | vlds | vldx | vst | vsts | vstx => exact issueAccess_inv inv
  | vld_st => exact issueVldSt_inv inv
  | kand | kor | kxor | knot => exact maskOp_inv inv
  | kpopc | kfirst => exact maskCount_inv inv
  | kset => exact setK_inv (pull_inv inv)
  | vcompress | vexpand => exact moveWhole_inv inv
  | vredsum | vredmax | vredmin | vredand | vredor => exact reduction_inv inv
  | vredosum => exact issueVredosum_inv inv
  | vredq => exact issueVredq_inv inv
  | vexp2 | vrcp | vlog2 | vrsqrt | vsinpi | vcospi => exact special_inv inv
  | mopa | mopa4 | mopas => exact accumulate_inv inv
  | mzero => exact setM_inv (pullM_inv inv)
  | mld => exact issueMld_inv inv
  | mst => exact issueMst_inv inv
  | mrow | mcol => exact moveLine_inv inv
  | cpy => exact startCopy_inv inv
  | cpyt => exact issueCpyt_inv inv
  | cpyr => exact issueCpyr_inv inv
  | cbinit => exact issueCbinit_inv inv
  | cbwait => exact issueCbwait_inv inv
  | sopen => exact issueSopen_inv inv
  | sclose => exact modHart_inv inv
  | mbxpop => exact issueMbxpop_inv inv
  | waitmsg => exact issueWaitmsg_inv inv
  | msgsend => exact issueMsgsend_inv inv
  | rxopen => exact issueRxopen_inv inv
  | rxpop => exact issueRxpop_inv inv
  | coll => exact issueColl_inv inv
  | collwait => exact issueCollwait_inv inv
  | barArrive => exact issueBarArrive_inv inv
  | _ => exact inv

theorem replyEntry_inv {i j r} (inv : Inv s) : IssueInv (replyEntry i s j r) := by
  unfold replyEntry
  cases i with
  | vld | vlds | vldx => exact loadReply_inv inv
  | vst | vsts | vstx => exact storeReply_inv inv
  | mld => exact replyMld_inv inv
  | mst => exact replyMst_inv inv
  | vredq => exact replyVredq_inv inv
  | _ => exact inv

theorem issueTurn_inv {k} (inv : Inv s) : Inv (s.issueTurn k) := by
  unfold State.issueTurn
  split
  · exact inv
  · exact queueTrap_inv inv
  · exact settleEntry_inv (issueEntry_inv inv)

theorem passFirst_inv {core tensor l} (inv : Inv s) : Inv (s.passFirst core tensor l) := by
  induction l with
  | nil => exact inv
  | cons x l ih => exact ite_inv ih (issueTurn_inv inv)

theorem execVectorMemoryResponse_inv {k r} (inv : Inv s) : OutcomeInv (execVectorMemoryResponse k r s) := by
  unfold execVectorMemoryResponse
  split
  · split
    · exact settleEntry_inv (replyEntry_inv inv)
    · exact inv
  all_goals exact inv

theorem execElementProgress_inv {k} (inv : Inv s) : OutcomeInv (execElementProgress k s) := by
  unfold execElementProgress
  split
  · split
    · split
      · exact queueTrap_inv inv
      · exact inv
    · exact inv
  all_goals exact inv

theorem again_inv {k i} (inv : Inv s) : Inv (s.again k i) := by
  unfold State.again
  grind [OutcomeInv, Inv, execJoin_inv, execFclaim_inv, execWmwait_inv, execBarWait_inv]

theorem execWaitResume_inv {k} (inv : Inv s) : OutcomeInv (execWaitResume k s) := by
  unfold execWaitResume
  split
  · exact inv
  · split
    · exact inv
    · split
      · exact again_inv inv
      · exact issueTurn_inv inv

theorem execIllegalWord_inv {w0 w1} (inv : Inv s) : OutcomeInv (execIllegalWord w0 w1 s) := by
  unfold execIllegalWord
  split
  · exact trivial
  · split
    · exact modHart_inv inv
    · exact trap_inv inv

theorem execRunLimit_inv {k} (inv : Inv s) : OutcomeInv (execRunLimit k s) := by
  unfold execRunLimit
  split
  · exact inv
  · split
    · exact inv
    · exact ite_inv (haltHart_inv (regrant_inv (trapS_inv (modHart_inv inv)))) (regrant_inv (trapS_inv (modHart_inv inv)))

theorem execInterrupt_inv {k} (inv : Inv s) : OutcomeInv (execInterrupt k s) := by
  unfold execInterrupt
  split
  · exact inv
  · split
    · exact inv
    · split
      · exact inv
      · exact trapS_inv (modHart_inv inv)

/-! ### What Machine/Sched.lean does to memory -/

theorem execQuantumEnd_inv {k} (inv : Inv s) : OutcomeInv (execQuantumEnd k s) := by
  unfold execQuantumEnd
  split
  · exact inv
  · exact ite_inv (endQuantum_inv inv) inv

theorem execWaitSlotTimeout_inv {k} (inv : Inv s) : OutcomeInv (execWaitSlotTimeout k s) := by
  unfold execWaitSlotTimeout
  split
  · exact inv
  · split
    · exact inv
    · split
      · exact grant_inv (leaveSlot_inv (modHart_inv (stopHart_inv inv)))
      · exact inv

theorem execPriorityAging_inv {k} (inv : Inv s) : OutcomeInv (execPriorityAging k s) := by
  unfold execPriorityAging
  split
  · exact inv
  · split
    · exact placeReady_inv (modHart_inv inv)
    · exact inv

theorem execHartWake_inv {k} (inv : Inv s) : OutcomeInv (execHartWake k s) := by
  unfold execHartWake
  split
  · exact inv
  · exact ite_inv (makeReady_inv inv) inv

theorem execMixWindowEnd_inv {k} (inv : Inv s) : OutcomeInv (execMixWindowEnd k s) := by
  unfold execMixWindowEnd
  split
  · exact inv
  · split
    · exact inv
    · split
      exact modHart_inv inv

theorem tryMove_inv {k} (inv : Inv s) : OptionInv Inv (s.tryMove k) := by
  unfold State.tryMove
  grind [OptionInv, modHart_inv, depart_inv]

theorem lapse_inv {k} (inv : Inv s) : Inv (s.lapse k) := modHart_inv inv

/-! ### What Machine/Firmware.lean does to memory -/

theorem zeroRange_inv {base len} (inv : Inv s) : Inv (s.zeroRange base len) := wf_filter _ (dropLines_inv inv)

theorem zeroStores_inv {sel} (inv : Inv s) : Inv (s.zeroStores sel) := by
  unfold State.zeroStores
  grind [foldl_inv, zeroRange_inv]

theorem commandEnds_inv {c status} (inv : Inv s) : Inv (s.commandEnds c status) := inv

theorem command_inv {op p body} (hk : ∀ u, Inv u → Inv (body u).1) (inv : Inv s) : OutcomeInv (command op p body s) := by
  unfold command
  grind [OutcomeInv, commandEnds_inv]

theorem longCommand_inv {op p body} (hk : ∀ u, Inv u → Inv (body u).1) (inv : Inv s) : OutcomeInv (longCommand op p body s) := by
  unfold longCommand
  grind [OutcomeInv, Inv, commandEnds_inv]

theorem createFrom_inv {p n} (inv : Inv s) : Inv (s.createFrom p n).1 := by
  unfold State.createFrom
  grind [draw_inv, modPart_inv]

theorem execCreate_inv {p readOk} (inv : Inv s) : OutcomeInv (execCreate p readOk s) := by
  unfold execCreate
  grind [command_inv, createFrom_inv]

theorem startPending_inv {p} (inv : Inv s) : Inv (s.startPending p) := by
  unfold State.startPending
  grind [foldl_inv, createHarts_inv]

theorem applyQueues_inv {p} (inv : Inv s) : Inv (s.applyQueues p) := modPart_inv inv

theorem freshRegions_inv (inv : Inv s) : Inv s.freshRegions := by
  unfold State.freshRegions
  grind [foldl_inv, Inv, hostWrite_inv, setLines_inv, dropL1_inv]

theorem giveStores_inv {q m} (inv : Inv s) : Inv (s.giveStores q m) := inv

theorem execStart_inv {p} (inv : Inv s) : OutcomeInv (execStart p s) := by
  unfold execStart
  grind [Inv, command_inv, freshRegions_inv, giveStores_inv, zeroStores_inv, modPart_inv, startPending_inv, applyQueues_inv]

theorem swapBegins_inv {q} (inv : Inv s) : Inv (s.swapBegins q) := by
  unfold State.swapBegins
  grind [foldl_inv, Inv, modPart_inv, haltHart_inv]

theorem swapEnds_inv {q} (inv : Inv s) : Inv (s.swapEnds q) := by
  unfold State.swapEnds
  grind [foldl_inv, Inv, shadowHart_inv, modPart_inv, releaseSlot_inv]

theorem execSwapout_inv {p} (inv : Inv s) : OutcomeInv (execSwapout p s) := by
  unfold execSwapout
  grind [longCommand_inv, swapBegins_inv, swapEnds_inv]

theorem swapReturn_inv {k} (inv : Inv s) : Inv (s.swapReturn k) := by
  unfold State.swapReturn
  split
  · exact inv
  · split
    · exact ite_inv (takeSlot_inv inv) inv
    all_goals exact inv

theorem swapReady_inv {k} (inv : Inv s) : Inv (s.swapReady k) := by
  unfold State.swapReady
  split
  · exact inv
  · exact ite_inv inv (ite_inv (makeReady_inv inv) (placeReady_inv inv))

theorem execSwapin_inv {p} (inv : Inv s) : OutcomeInv (execSwapin p s) := by
  unfold execSwapin
  grind [foldl_inv, command_inv, unshadow_inv, giveStores_inv, zeroStores_inv, modPart_inv, applyQueues_inv, swapReturn_inv,
    startPending_inv, swapReady_inv]

theorem execTerminate_inv {p} (inv : Inv s) : OutcomeInv (execTerminate p s) := by
  unfold execTerminate
  grind [command_inv, endPart_inv]

theorem execDestroy_inv {p} (inv : Inv s) : OutcomeInv (execDestroy p s) := by
  unfold execDestroy
  grind [foldl_inv, Inv, command_inv, zeroStores_inv, zeroRange_inv, modPart_inv]

theorem execBadOp_inv {p op} (inv : Inv s) : OutcomeInv (execBadOp p op s) := by
  unfold execBadOp
  split
  · exact inv
  · exact command_inv (fun _ h1 => h1) inv

theorem firmwareCall_inv {k n body} (hk : ∀ u b, Inv u → Inv (body u b).1) (inv : Inv s) : OutcomeInv (firmwareCall k n body s) := by
  unfold firmwareCall
  grind [OutcomeInv, modHart_inv]

theorem callRead_inv {h bad n va} (inv : Inv s) : CalledInv (s.callRead h bad n va) := by
  induction n generalizing s va with
  | zero => exact inv
  | succ n ih =>
    unfold State.callRead
    grind [CalledInv, correct_inv, fillTlb_inv, readTouch_inv]

theorem callWords_inv {h n va} (inv : Inv s) : CalledInv (s.callWords h n va) := by
  unfold State.callWords
  grind [CalledInv, askReads_inv, callRead_inv]

theorem execBankpool_inv {k} (inv : Inv s) : OutcomeInv (execBankpool k s) := by
  unfold execBankpool
  grind [firmwareCall_inv]

theorem groupStatus_inv {h g va} (inv : Inv s) : Inv (s.groupStatus h g va).1 := by
  unfold State.groupStatus
  grind [CalledInv, callWords_inv]

theorem execGroupdef_inv {k} (inv : Inv s) : OutcomeInv (execGroupdef k s) := by
  unfold execGroupdef
  grind [Inv, firmwareCall_inv, groupStatus_inv, modPart_inv]

theorem execCtxarea_inv {k} (inv : Inv s) : OutcomeInv (execCtxarea k s) := by
  unfold execCtxarea
  grind [firmwareCall_inv, draw_inv]

theorem dropCode_inv {p asid page} (inv : Inv s) : Inv (s.dropCode p asid page) := inv

theorem execCodefail_inv {k} (inv : Inv s) : OutcomeInv (execCodefail k s) := by
  unfold execCodefail
  grind [firmwareCall_inv, draw_inv, modPart_inv, dropCode_inv]

theorem execPartreq_inv {k} (inv : Inv s) : OutcomeInv (execPartreq k s) := by
  unfold execPartreq
  grind [firmwareCall_inv, modPart_inv]

theorem execTdtable_inv {k} (inv : Inv s) : OutcomeInv (execTdtable k s) := by
  unfold execTdtable
  grind [firmwareCall_inv, modPart_inv, zeroRange_inv]

theorem execAsidctx_inv {k} (inv : Inv s) : OutcomeInv (execAsidctx k s) := by
  unfold execAsidctx
  grind [CalledInv, firmwareCall_inv, callWords_inv, modPart_inv]

/-! ### What Machine/Hints.lean does to memory -/

theorem execHintPref_inv {write a len} (inv : Inv s) : OutcomeInv (execHintPref write a len s) := by
  unfold execHintPref
  grind [EffectInv, foldl_inv, run_inv, askReads_inv, readLine_inv]

theorem execHintPauseEnd_inv {k} (inv : Inv s) : OutcomeInv (execHintPauseEnd k s) := by
  unfold execHintPauseEnd
  split
  · exact inv
  · exact ite_inv (modHart_inv inv) inv

/-! ### What Machine/Links.lean does to memory -/

theorem modLink_inv {l up f} (inv : Inv s) : Inv (s.modLink l up f) := by
  unfold State.modLink
  split
  · exact ite_inv inv inv
  · exact inv

theorem linkCompare_inv {l up} (inv : Inv s) : Inv (s.linkCompare l up) := by
  unfold State.linkCompare
  split
  · exact inv
  · exact ite_inv (emit_inv (modLink_inv inv)) inv

/-! ### What Machine/Ports.lean does to memory -/

theorem applyAtomic_inv {pa n kind a b old} (inv : Inv s) : Inv (s.applyAtomic pa n kind a b old) := by
  unfold State.applyAtomic
  grind [Inv, endReservations_inv, writeNat_inv]

theorem endBatches_inv (inv : Inv s) : Inv s.endBatches := inv

theorem execPcieAtomicopCompletion_inv {k a} (inv : Inv s) : OutcomeInv (execPcieAtomicopCompletion k a s) := by
  unfold execPcieAtomicopCompletion
  grind [OutcomeInv, applyAtomic_inv, endBatches_inv, modHart_inv]

theorem readAnswered_inv {sec r bytes} (inv : Inv s) : Inv (s.readAnswered sec r bytes) := by
  unfold State.readAnswered
  grind [Inv, writeBytes_inv]

theorem execPcieReadCompletion_inv {k a} (inv : Inv s) : OutcomeInv (execPcieReadCompletion k a s) := by
  unfold execPcieReadCompletion
  split
  · split
    · exact ite_inv (readAnswered_inv inv) inv
    all_goals exact inv
  · exact modHart_inv inv

theorem readLost_inv (inv : Inv s) : Inv s.readLost := by
  unfold State.readLost
  split <;> exact inv

theorem execPcieCompletionTimeout_inv {k} (inv : Inv s) : OutcomeInv (execPcieCompletionTimeout k s) := by
  unfold execPcieCompletionTimeout
  grind [OutcomeInv, readLost_inv, draw_inv, applyAtomic_inv, endBatches_inv, modHart_inv]

theorem settleWrCur_inv {sec} (inv : Inv s) : Inv (s.settleWrCur sec) := by
  unfold State.settleWrCur
  split <;> exact inv

theorem settleSector_inv {sec} (inv : Inv s) : Inv (s.settleSector sec) := inv

theorem answerRequests_inv {sec failed} (inv : Inv s) : Inv (s.answerRequests sec failed) := inv

theorem execCxlCacheResponse_inv {m exclusive data} (inv : Inv s) : OutcomeInv (execCxlCacheResponse m exclusive data s) := by
  unfold execCxlCacheResponse
  grind [OutcomeInv, settleWrCur_inv, setCxl_inv, answerRequests_inv, writeBytes_inv, answerWaiting_inv]

theorem snoop_inv {k m} (inv : Inv s) : Inv (snoop k m s) := ite_inv inv (ite_inv inv (answerSnoop_inv inv))

theorem hostAsks_inv {pa write} (inv : Inv s) : Inv (s.hostAsks pa write) := by
  unfold State.hostAsks
  grind [putRegion_inv, close_inv]

theorem addHolder_inv {sec port} (inv : Inv s) : Inv (s.addHolder sec port) := ite_inv inv inv

theorem execCxlMemRead_inv {m} (inv : Inv s) : OutcomeInv (execCxlMemRead m s) := by
  unfold execCxlMemRead
  grind [OutcomeInv, correct_inv, hostAsks_inv, emit_inv, addHolder_inv]

theorem execCxlMemWrite_inv {m data} (inv : Inv s) : OutcomeInv (execCxlMemWrite m data s) := by
  unfold execCxlMemWrite
  grind [OutcomeInv, Inv, hostAsks_inv, hostWrite_inv]

theorem settleHeld_inv {sec} (inv : Inv s) : Inv (s.settleHeld sec) := ite_inv inv (settleSector_inv inv)

theorem execBirsp_inv {m} (inv : Inv s) : OutcomeInv (execBirsp m s) := by
  unfold execBirsp
  grind [OutcomeInv, Inv, settleHeld_inv]

theorem modAgent_inv {a f} (inv : Inv s) : Inv (s.modAgent a f) := inv

theorem beats_inv (inv : Inv s) : Inv s.beats := inv

theorem loseSectors_inv {sel} (inv : Inv s) : Inv (s.loseSectors sel) := setLines_inv inv

theorem lose_inv {l agent inc} (inv : Inv s) : Inv (s.lose l agent inc) := by
  unfold State.lose
  grind [foldl_inv, endReservations_inv, writeBytes_inv, faultRecord_inv, terminatePart_inv]

theorem closeRegion_inv {r} (inv : Inv s) : Inv (s.closeRegion r) := by
  unfold State.closeRegion
  grind [endLease_inv]

theorem hostLost_inv {held lost} (inv : Inv s) : Inv (s.hostLost held lost) := by
  unfold State.hostLost
  grind [foldl_inv, setCxl_inv, dropL1_inv]

theorem dieDies_inv {d} (inv : Inv s) : Inv (s.dieDies d) := by
  unfold State.dieDies
  grind [foldl_inv, Inv, modAgent_inv, loseSectors_inv, dropL1_inv, hostLost_inv, closeRegion_inv, lose_inv, terminatePart_inv]

theorem portDies_inv {n} (inv : Inv s) : Inv (s.portDies n) := by
  unfold State.portDies
  grind [foldl_inv, Inv, modAgent_inv, loseSectors_inv, dropL1_inv, settleHeld_inv, lose_inv]

theorem dropUnreached_inv (inv : Inv s) : Inv s.dropUnreached := by
  unfold State.dropUnreached
  grind [foldl_inv, dieDies_inv]

theorem agentDies_inv {a} (inv : Inv s) : Inv (s.agentDies a) := by
  unfold State.agentDies
  grind [foldl_inv, Inv, emit_inv, terminatePart_inv, modAgent_inv, dropUnreached_inv, dieDies_inv, portDies_inv]

theorem execAgentDeath_inv {a} (inv : Inv s) : OutcomeInv (execAgentDeath a s) := by
  unfold execAgentDeath
  split
  · exact inv
  · split
    · exact inv
    · split
      · exact agentDies_inv inv
      · exact modAgent_inv inv

theorem execAgentReadmit_inv {a} (inv : Inv s) : OutcomeInv (execAgentReadmit a s) := by
  unfold execAgentReadmit
  grind [OutcomeInv, Inv, modAgent_inv]

/-! ### What Machine/Platform.lean does to memory -/

theorem stepBudgets_inv {f} (inv : Inv s) : Inv (s.stepBudgets f) := by
  unfold State.stepBudgets
  grind [foldl_inv, putCore_inv, regrant_inv]

theorem execPowerInterval_inv {watts} (inv : Inv s) : OutcomeInv (execPowerInterval watts s) := by
  unfold execPowerInterval
  grind [OutcomeInv, Inv, stepBudgets_inv]

theorem clearCore_inv {core} (inv : Inv s) : Inv (s.clearCore core).1 := by
  unfold State.clearCore
  grind [foldl_inv, modHart_inv, leaveSlot_inv, stopHart_inv]

theorem turnBack_inv {core} (inv : Inv s) : Inv (s.turnBack core).1 := by
  unfold State.turnBack
  grind [foldl_inv, haltTransit_inv]

theorem retireCore_inv {core badRows} (inv : Inv s) : Inv (s.retireCore core badRows) := by
  unfold State.retireCore
  grind [foldl_inv, Inv, putCore_inv, clearCore_inv, turnBack_inv, placeReady_inv, makeReady_inv, writeBytes_inv, terminatePart_inv,
    faultRecord_inv]

theorem execPldmSensorRead_inv {sensor} (inv : Inv s) : OutcomeInv (execPldmSensorRead sensor s) := by
  unfold execPldmSensorRead
  grind [OutcomeInv, draw_inv, emit_inv]

theorem execCommitSvn_inv {a} (inv : Inv s) : OutcomeInv (execCommitSvn a s) := by
  unfold execCommitSvn
  grind [OutcomeInv, Inv, emit_inv]

theorem execGetMeasurements_inv (inv : Inv s) : OutcomeInv (execGetMeasurements s) := by
  unfold execGetMeasurements
  split <;> exact emit_inv inv

theorem kept_inv {t} (inv : Inv s) : Inv (s.kept t) := wf_filter _ (foldl_inv inv fun _ _ h => writeBytes_inv h)

theorem execPackageReset_inv {rinca mlevel b} (inv : Inv s) : OutcomeInv (execPackageReset rinca mlevel b s) := by
  unfold execPackageReset
  grind [OutcomeInv, foldl_inv, Inv, kept_inv, retireCore_inv]

/-! ### What Machine/ScalarMem.lean does to memory -/

theorem loadBody_inv {i d a imm n ext h} (inv : Inv s) : EffectInv (loadBody i d a imm n ext s h) := by
  unfold loadBody
  grind [EffectInv, GotInv, loadScalar_inv, modHart_inv]

/-! ### What Machine/Dispatch.lean does to memory -/

theorem exec_inv {i} (inv : Inv s) : OutcomeInv (exec i s) := by
  unfold exec
  cases i with
  | add | sub | and | or | xor | andn | sll | srl | sra | rol | ror | slt | sltn | min | max | minn | maxn | mul | mulh | mulhn | div |
    divn | rem
  | remn | sadd1 | sadd2 | sadd3 | bext | bins | clz | ctz | popc | sext_b | sext_h | sext_w | zext_b | zext_h | zext_w | addi | andi |
    ori | xori
  | slti | slli | srli | srai | lup | pcadd => exact run_inv inv fun _ _ => intResult_inv
  | beq | bne | blt | bge | bltn | bgen => exact run_inv inv fun _ _ => branch_inv
  | j | nullHint | hintFuse | land | ebreak => exact run_inv inv fun _ _ h => h
  | call | fmvx | fmvf | vquery | setvl | msetvl => exact run_inv inv fun _ _ => modHart_inv
  | jx => exact execJx_inv inv
  | callx => exact execCallx_inv inv
  | ret => exact execRet_inv inv
  | ldb | ldbz | ldh | ldhz | ldw | ldwz | ldd => exact run_inv inv fun _ _ => loadBody_inv
  | stb | sth | stw | std => exact run_inv inv fun _ _ => storeScalar_inv
  | amoadd_w | amoand_w | amoor_w | amoxor_w | amomin_w | amomax_w | amominn_w | amomaxn_w | amoswp_w | amoadd_d | amoand_d | amoor_d |
    amoxor_d
  | amomin_d | amomax_d | amominn_d | amomaxn_d | amoswp_d | amocas_w | amocas_d => exact run_inv inv fun _ _ => amoBody_inv
  | ldres_w | ldres_d => exact run_inv inv fun _ _ => ldresBody_inv
  | stcond_w | stcond_d => exact run_inv inv fun _ _ => stcondBody_inv
  | fadd | fsub | fmul | fdiv | fsqrt | fmin | fmax | fsgn | fneg | fabs | fma | fms | fnma => exact run_inv inv fun _ _ => fpResult_inv
  | fcmpeq | fcmplt | fcmple | fclass => exact run_inv inv fun _ _ => fxResult_inv
  | fcvt => exact execFcvt_inv inv
  | csrrd | csrwr | csrset | csrclr => exact run_inv inv fun _ _ => csrBody_inv
  | cinv | cwb | cflush => exact run_inv inv fun _ _ => maintain_inv
  | vdrop => exact execVdrop_inv inv
  | tdget => exact execTdget_inv inv
  | fence => exact execFence_inv inv
  | rfence => exact execRfence_inv inv
  | rslot => exact execRslot_inv inv
  | rslott => exact execRslott_inv inv
  | barInit => exact execBarInit_inv inv
  | barArrive => exact run_inv inv fun _ _ => commit_inv
  | barWait => exact execBarWait_inv inv
  | launch => exact execLaunch_inv inv
  | join => exact execJoin_inv inv
  | farm => exact execFarm_inv inv
  | fclaim => exact execFclaim_inv inv
  | wmpub => exact execWmpub_inv inv
  | wmwait => exact execWmwait_inv inv
  | hintClass | hintLive => exact run_inv inv fun _ _ => onHart_inv
  | hintPref => exact execHintPref_inv inv
  | hintPause | hintPlace => exact run_inv inv fun _ _ h => ite_inv h (modHart_inv h)
  | vadd | vsub | vmul | vmulh | vdiv | vrem | vmin | vmax | vand | vor | vxor | vsll | vsrl | vsra | vabs | vneg | vcmp | vmerge | vmv |
    vmvx | vid
  | vfadd | vfsub | vfmul | vfdiv | vfsqrt | vfma | vfms | vfnma | vfmin | vfmax | vfabs | vfneg | vfcmp | vfcvt | vld | vlds | vldx |
    vld_st | vst
  | vsts | vstx | kand | kor | kxor | knot | kpopc | kfirst | kset | vslideup | vslidedn | vperm | vcompress | vexpand | vredsum |
    vredosum | vredmax
  | vredq | vredmin | vredand | vredor | vexp2 | vrcp | vlog2 | vrsqrt | vsinpi | vcospi => exact run_inv inv fun _ _ => commitVec_inv
  | mexit => exact execMexit_inv inv
  | mopa | mopa4 | mopas | mzero | mld | mst | mrow | mcol => exact run_inv inv fun _ _ => commitTensor_inv
  | cpy | cpyt | cpyr | cbinit | cbwait | sopen | sclose | mbxpop | waitmsg | msgsend | rxopen | rxpop | coll | collwait
    => exact run_inv inv fun _ _ => commitEngine_inv
  | vdef => exact execVdef_inv inv
  | vresize => exact execVresize_inv inv
  | tdset => exact execTdset_inv inv
  | tlbinv => exact execTlbinv_inv inv
  | illegalWord => exact execIllegalWord_inv inv
  | runLimit => exact execRunLimit_inv inv
  | vqEntryIssue => exact issueTurn_inv inv
  | vectorMemoryResponse => exact execVectorMemoryResponse_inv inv
  | elementProgress => exact execElementProgress_inv inv
  | waitResume => exact execWaitResume_inv inv
  | barArriveFire => exact execBarArriveFire_inv inv
  | copyTransfer => exact execCopyTransfer_inv inv
  | copyCompletion => exact execCopyCompletion_inv inv
  | streamFetch => exact execStreamFetch_inv inv
  | rxMessageArrival => exact execRxMessageArrival_inv inv
  | collOperationStart => exact execCollOperationStart_inv inv
  | collPartialTransfer => exact execCollPartialTransfer_inv inv
  | collOperationEnd => exact execCollOperationEnd_inv inv
  | collPackageUnreachable => exact execCollPackageUnreachable_inv inv
  | pcieAtomicopCompletion => exact execPcieAtomicopCompletion_inv inv
  | pcieCompletionTimeout => exact execPcieCompletionTimeout_inv inv
  | vaultWalkStep => exact execVaultWalkStep_inv inv
  | regionRequest => exact execRegionRequest_inv inv
  | leaseExpiry => exact execLeaseExpiry_inv inv
  | leaseRecallAck => exact ite_inv (endLease_inv inv) inv
  | regionDecay => exact execRegionDecay_inv inv
  | cxlCacheResponse => exact execCxlCacheResponse_inv inv
  | snpData | snpInv | snpCur => exact snoop_inv inv
  | cxlMemRead => exact execCxlMemRead_inv inv
  | cxlMemWrite => exact execCxlMemWrite_inv inv
  | heartbeat => exact modAgent_inv inv
  | agentDeath => exact execAgentDeath_inv inv
  | agentReadmit => exact execAgentReadmit_inv inv
  | linkStop | linkGo => exact modLink_inv inv
  | linkSectorReceive => exact modLink_inv (linkCompare_inv inv)
  | linkDictChecksum => exact linkCompare_inv inv
  | qctlWrite | tailWrite => exact ite_inv (queueWrite_inv inv) inv
  | nop | badCommand => exact runCommand_inv (fun _ _ h => h) inv
  | hqLaunch => exact execHqLaunch_inv inv
  | entryWrite => exact execEntryWrite_inv inv
  | tdWrite => exact execTdWrite_inv inv
  | registerWrite => exact execRegisterWrite_inv inv
  | doorbell => exact ite_inv (raise_inv inv) inv
  | interrupt => exact execInterrupt_inv inv
  | netLaunchPacket => exact execNetLaunchPacket_inv inv
  | quantumEnd => exact execQuantumEnd_inv inv
  | waitSlotTimeout => exact execWaitSlotTimeout_inv inv
  | priorityAging => exact execPriorityAging_inv inv
  | hartWake => exact execHartWake_inv inv
  | mixWindowEnd => exact execMixWindowEnd_inv inv
  | retrieverArrival => exact arrive_inv inv
  | tlbinvAck => exact execTlbinvAck_inv inv
  | powerInterval => exact execPowerInterval_inv inv
  | thermalClampOn | thermalClampOff | pldmFirmwareUpdate => exact inv
  | powerClampOn | powerClampOff => exact ite_inv inv inv
  | coreRetire => exact ite_inv (retireCore_inv inv) inv
  | debug => exact raise_inv inv
  | pldmSensorRead => exact execPldmSensorRead_inv inv
  | commitSvn => exact execCommitSvn_inv inv
  | packageReset => exact execPackageReset_inv inv
  | featreqWrite => exact writeFeatreq_inv inv
  | create => exact execCreate_inv inv
  | start => exact execStart_inv inv
  | swapout => exact execSwapout_inv inv
  | swapin => exact execSwapin_inv inv
  | terminate => exact execTerminate_inv inv
  | destroy => exact execDestroy_inv inv
  | badOp => exact execBadOp_inv inv
  | bankpool => exact execBankpool_inv inv
  | groupdef => exact execGroupdef_inv inv
  | asidrange => exact firmwareCall_inv (fun _ _ h => h) inv
  | ctxarea => exact execCtxarea_inv inv
  | codefail => exact execCodefail_inv inv
  | partreq => exact execPartreq_inv inv
  | tdtable => exact execTdtable_inv inv
  | asidctx => exact execAsidctx_inv inv
  | pcieReadCompletion => exact execPcieReadCompletion_inv inv
  | birsp => exact execBirsp_inv inv
  | hintPauseEnd => exact execHintPauseEnd_inv inv
  | taskTerminated => exact execTaskTerminated_inv inv
  | ecall => exact execEcall_inv inv
  | eret => exact execEret_inv inv
  | ifence => exact execIfence_inv inv
  | xfence => exact execXfence_inv inv
  | exit => exact execExit_inv inv
  | yield => exact run_inv inv fun _ _ h => endQuantum_inv (modHart_inv h)
  | getMeasurements => exact execGetMeasurements_inv inv
  | mainSideUnpowered => exact kept_inv (t := State.reset) inv

/-! ### What Machine/Turn.lean does to memory -/

theorem resumeHart_inv {h} (inv : Inv s) : Inv (s.resumeHart h) := by
  unfold State.resumeHart
  grind [terminatePart_inv, modHart_inv, restoreImage_inv, restoreOwnImage_inv, trapBack_inv]

theorem holdHart_inv {k} (inv : Inv s) : Inv (s.holdHart k) := modHart_inv inv

theorem stepTrap_inv {k info} (inv : Inv s) : Inv (s.stepTrap k info) := trapS_inv (modHart_inv inv)

theorem boundary_inv {h} (inv : Inv s) : OptionInv OutcomeInv (s.boundary h) := by
  unfold State.boundary
  have interrupted : OutcomeInv (execInterrupt h.key s) := exec_inv (i := .interrupt _) inv
  split
  · exact resumeHart_inv inv
  · split
    · exact endQuantum_inv (modHart_inv inv)
    · split
      · trivial
      · split
        · grind [OptionInv, OutcomeInv, stepTrap_inv, holdHart_inv]
        · grind [OptionInv, OutcomeInv, tryMove_inv, lapse_inv, holdHart_inv, execRunLimit_inv, execMixWindowEnd_inv]

theorem fetchInsn_inv {h} (inv : Inv s) : FetchedInsnInv (s.fetchInsn h) := by
  unfold State.fetchInsn
  grind [FetchedInv, FetchedInsnInv, fetchGet_inv]

theorem runNext_inv {h} (inv : Inv s) : OutcomeInv (s.runNext h) := by
  unfold State.runNext
  grind [OutcomeInv, FetchedInsnInv, fetchInsn_inv, holdHart_inv, trap_inv, exec_inv, execIllegalWord_inv]

theorem hartTurn_inv {h} (inv : Inv s) : OutcomeInv (s.hartTurn h) := by
  unfold State.hartTurn
  grind [OptionInv, boundary_inv, runNext_inv]

def EventInv (e : State → Host.Outcome State Fault Refusal) : Prop := ∀ u, Inv u → OutcomeInv (e u)

theorem exec_event (i : Instr) : EventInv (exec i) := fun _ => exec_inv

theorem passTurn_event (core : Nat) (tensor : Bool) : EventInv (passTurn core tensor) := fun _ => passFirst_inv

theorem hartEvents_inv {h} : ∀ e ∈ hartEvents h, EventInv e := by
  have calls : ∀ e ∈ (match h.fwcall with
      | some _ => [execBankpool h.key, execGroupdef h.key, execAsidrange h.key, execCtxarea h.key, execCodefail h.key,
         execPartreq h.key, execTdtable h.key, execAsidctx h.key]
      | none => []), EventInv e := by
    split
    · simp only [List.forall_mem_cons, List.not_mem_nil, false_implies, implies_true, and_true]
      exact ⟨exec_event (.bankpool _), exec_event (.groupdef _), exec_event (.asidrange _), exec_event (.ctxarea _), exec_event (.codefail
        _),
        exec_event (.partreq _), exec_event (.tdtable _), exec_event (.asidctx _)⟩
    · simp
  simp only [hartEvents, List.forall_mem_append, List.forall_mem_cons, List.forall_mem_map, List.not_mem_nil, false_implies, implies_true,
    and_true]
  refine ⟨⟨⟨⟨exec_event (.retrieverArrival _), exec_event (.hartWake _), exec_event (.waitResume _), exec_event (.hintPauseEnd _),
    exec_event (.quantumEnd _), exec_event (.waitSlotTimeout _), exec_event (.priorityAging _), exec_event (.elementProgress _),
    exec_event (.vectorMemoryResponse _ _)⟩, calls⟩, fun n _ => exec_event (.barArriveFire _ n)⟩, fun n _ => exec_event (.streamFetch _ n
      _ _)⟩

theorem partEvents_inv {p} : ∀ e ∈ partEvents s p, EventInv e := by
  simp only [partEvents, List.forall_mem_append, List.forall_mem_flatMap, List.forall_mem_cons, List.forall_mem_map, List.not_mem_nil,
    false_implies, implies_true, and_true]
  exact ⟨fun q _ => ⟨exec_event (.nop p q true), exec_event (.hqLaunch p q true), exec_event (.entryWrite p q true), exec_event (.tdWrite
    p q true),
    exec_event (.badCommand p q true)⟩, fun v _ => exec_event (.vaultWalkStep _ _)⟩

theorem commandEvents_inv : ∀ e ∈ s.commandEvents, EventInv e := by
  unfold State.commandEvents
  split
  · simp only [List.forall_mem_cons, List.not_mem_nil, false_implies, implies_true, and_true]
    exact ⟨exec_event (.create _ true), exec_event (.start _), exec_event (.swapout _), exec_event (.swapin _), exec_event (.terminate _),
      exec_event (.destroy _), exec_event (.badOp _ _)⟩
  · simp

theorem linkEvents_inv : ∀ e ∈ s.linkEvents, EventInv e := by
  simp only [State.linkEvents, List.forall_mem_append, List.forall_mem_flatMap, List.forall_mem_map]
  refine fun l _ up _ => ⟨fun c _ => exec_event (.linkGo l up c), ?_⟩
  split
  · exact List.forall_mem_singleton.mpr (exec_event (.linkDictChecksum l up))
  · simp

theorem events_inv : ∀ e ∈ s.events, EventInv e := by
  unfold State.events
  split
  · simp
  · simp only [List.forall_mem_append, List.forall_mem_flatMap, List.forall_mem_map, List.forall_mem_cons, List.not_mem_nil,
    false_implies, implies_true, and_true]
    refine ⟨⟨⟨⟨⟨⟨⟨⟨⟨⟨commandEvents_inv, fun a _ => exec_event (.agentDeath a)⟩, fun h _ => hartEvents_inv⟩,
      fun c _ => ⟨passTurn_event c false, passTurn_event c true⟩⟩,
      fun c _ => ⟨exec_event (.copyTransfer _ _ _), exec_event (.copyCompletion _ _)⟩⟩, fun c _ => ?_⟩,
      fun t _ c _ => exec_event (.tlbinvAck _ _)⟩, fun p _ => ?_⟩, linkEvents_inv⟩, fun c _ => exec_event (.coreRetire _ _)⟩,
      fun r _ => ⟨exec_event (.regionDecay _), fun d _ => ⟨exec_event (.leaseRecallAck _ _), exec_event (.leaseExpiry _ _)⟩⟩⟩
    · split
      · simp only [List.forall_mem_cons, List.not_mem_nil, false_implies, implies_true, and_true]
        exact ⟨exec_event (.collOperationStart _ _ _), exec_event (.collOperationEnd _ _ _)⟩
      · simp
    · split
      · simp
      · exact partEvents_inv

theorem firstEvent_inv {l} (inv : Inv s) (events : ∀ e ∈ l, EventInv e) : OptionInv Inv (s.firstEvent l) := by
  induction l with
  | nil => trivial
  | cons e l ih =>
    have next := ih fun x m => events x (List.mem_cons_of_mem e m)
    have first := events e List.mem_cons_self s inv
    unfold State.firstEvent
    grind [OutcomeInv, OptionInv]

theorem partEvent_inv (inv : Inv s) : OptionInv Inv s.partEvent := by
  refine optionInv_map (firstEvent_inv inv fun e m => events_inv (s := s) e ?_) fun _ h => unstall_inv h
  exact (List.mem_append.mp m).elim List.mem_of_mem_drop List.mem_of_mem_take

theorem pass_inv (inv : Inv s) : Inv s.pass := inv

theorem scrub_inv (inv : Inv s) : Inv s.scrub := ite_inv inv inv

theorem struck_inv {a} (inv : Inv s) : Inv (s.struck a) := by
  unfold State.struck
  split <;> exact inv

theorem strike_inv (inv : Inv s) : Inv s.strike := by
  unfold State.strike
  grind [foldl_inv, Inv, struck_inv]

theorem tellBroken_inv {h vector} (inv : Inv s) : OptionInv Inv (s.tellBroken h vector) := by
  unfold State.tellBroken
  grind [OptionInv, queueTrap_inv, trap_inv]

theorem findBroken_inv {a} (inv : Inv s) : Inv (s.findBroken a) := by
  have told {l : List Hart} {vector t} (e : l.findSome? (fun h => s.tellBroken h vector) = some t) : Inv t := by
    have found := optionInv_findSome? (l := l) fun h => tellBroken_inv (h := h) (vector := vector) inv
    rwa [e] at found
  unfold State.findBroken
  cases a with
  | shadow => exact inv
  | scalar | vector =>
    dsimp only
    split
    · next e =>
      have kept := told e
      exact kept
    · exact inv

theorem breaks_inv (inv : Inv s) : Inv s.breaks := by
  unfold State.breaks
  grind [foldl_inv, findBroken_inv]

theorem finishStep_inv {a} (hk : OutcomeInv a) : OutcomeInv (finishStep a) := by
  unfold finishStep
  grind [OutcomeInv, beats_inv, pass_inv, breaks_inv, scrub_inv, strike_inv, resetDeficits_inv, endLost_inv, retryPreempts_inv,
    deliverPosts_inv, drainPaths_inv]

theorem endTurn_inv {h ran} (inv : Inv s) : Inv (s.endTurn h ran) := ite_inv inv (ite_inv inv inv)

theorem turn_inv {h} (inv : Inv s) : OutcomeInv (s.turn h) := by
  unfold State.turn
  grind [OutcomeInv, Inv, hartTurn_inv, endTurn_inv]

theorem advance_inv (inv : Inv s) : OutcomeInv s.advance := by
  have event := partEvent_inv inv
  unfold State.advance
  grind [OutcomeInv, OptionInv, turn_inv, unstall_inv, Inv]

theorem work_inv (inv : Inv s) : OutcomeInv s.work := by
  unfold State.work
  grind [OutcomeInv, Inv, exec_inv, unstall_inv, advance_inv]

/-! ### What Machine/Step.lean does to memory -/

theorem step_inv (inv : Inv s) : OutcomeInv (step s) := finishStep_inv (work_inv inv)

end

/-- Settles O4: the outcome of a step keeps the form (`step_inv`), and the step in question goes on. -/
theorem stepKeepsMemory : Obligations.StepKeepsMemory := by
  unfold Obligations.StepKeepsMemory
  intro s t inv next
  have kept := step_inv inv
  rwa [next] at kept

end Sys2Proof.Claims.InvLaws

/-! PROOFS. Host registers and doorbells (O52): what a write of a queue's register makes of the queue, where the write goes by the state of
the partition, each register of PF0, and the raising of source 0x02. Every event has one lemma for a live port and one for a dead one. -/

namespace Sys2Proof.Claims.HostLaws
open Sys2Proof.Machine Sys2Proof.Laws

/-! ### The registers of a queue -/

section
variable (x : HostQueue) (v : Word) (port : Fin 2)

theorem bitsOf_ringSize : bitsOf v.toNat 4 1 = (v.extractLsb' 1 4).toNat := by
  simp [bitsOf, Nat.shiftRight_eq_div_pow]

variable {x v}

theorem writeCtl_enabled (en : x.en = true) : x.writeCtl port v = { x with en := v.getLsbD 0 } := by
  simp [HostQueue.writeCtl, en]

theorem writeCtl_idle (en : x.en = false) (off : v.getLsbD 0 = false) : x.writeCtl port v = { x with sizeLog := (v.extractLsb' 1 4).toNat } := by
  simp only [HostQueue.writeCtl, bitsOf_ringSize, en, off, Bool.not_false, Bool.false_eq_true, if_false, if_true]

theorem writeCtl_enable (en : x.en = false) (on : v.getLsbD 0 = true) (low : 4 ≤ (v.extractLsb' 1 4).toNat)
    (high : (v.extractLsb' 1 4).toNat ≤ 12) :
    x.writeCtl port v = { x with sizeLog := (v.extractLsb' 1 4).toNat, tail := 0, prog := 0, err := false, en := true, port := port } := by
  have good : (decide (4 ≤ (v.extractLsb' 1 4).toNat) && decide ((v.extractLsb' 1 4).toNat ≤ 12)) = true := by
    simp only [low, high, decide_true, Bool.and_self]
  simp only [HostQueue.writeCtl, bitsOf_ringSize, en, on, good, Bool.not_true, Bool.false_eq_true, if_false]

theorem writeCtl_badSize (en : x.en = false) (on : v.getLsbD 0 = true) (bad : (v.extractLsb' 1 4).toNat < 4 ∨ 12 < (v.extractLsb' 1 4).toNat) :
    x.writeCtl port v = { x with sizeLog := (v.extractLsb' 1 4).toNat, tail := 0, prog := 0, err := true, en := false, port := port } := by
  have refused : (decide (4 ≤ (v.extractLsb' 1 4).toNat) && decide ((v.extractLsb' 1 4).toNat ≤ 12)) = false := by
    rw [← Bool.decide_and, decide_eq_false_iff_not]
    omega
  simp only [HostQueue.writeCtl, bitsOf_ringSize, en, on, refused, Bool.not_true, Bool.not_false, Bool.false_eq_true, if_false]

theorem writeTail_above (above : 2 ^ x.sizeLog < (v.setWidth 32 - x.prog).toNat) :
    x.writeTail v = { x with tail := v.setWidth 32, err := true } := by
  simp only [HostQueue.writeTail, HostQueue.held, above, decide_true, Bool.or_true]

theorem writeTail_within (within : (v.setWidth 32 - x.prog).toNat ≤ 2 ^ x.sizeLog) :
    x.writeTail v = { x with tail := v.setWidth 32 } := by
  simp only [HostQueue.writeTail, HostQueue.held, Nat.not_lt.mpr within, decide_false, Bool.or_false]

end

/-! ### Writes that reach a queue -/

section
variable {s : State} {p : Fin 16} {q : Fin 4} {port : Fin 2} {v : Word}

theorem anyPort_of_alive (up : s.alive (.port port) = true) : s.anyPort = true := by
  match port with
  | 0 => simp [State.anyPort, up]
  | 1 => simp [State.anyPort, up]

theorem anyPort_dead (dead0 : s.alive (.port 0) = false) (dead1 : s.alive (.port 1) = false) : s.anyPort = false := by
  simp [State.anyPort, dead0, dead1]

theorem queue_modQueue (f : HostQueue → HostQueue) :
    ((s.modQueue p q f).part (partNo p)).queues[q] = f (s.part (partNo p)).queues[q] := by
  simp [State.modQueue, part_modPart]

theorem queueWrite_running {now latch : HostQueue → HostQueue} (run : (s.part (partNo p)).state = .running) :
    s.queueWrite p q now latch = s.modQueue p q now := by
  simp [State.queueWrite, Part.latches, run]

theorem queueWrite_latched {now latch : HostQueue → HostQueue}
    (away : (s.part (partNo p)).state = .created ∨ (s.part (partNo p)).state = .swapped) :
    s.queueWrite p q now latch = s.modQueue p q latch := by
  have latches : (s.part (partNo p)).latches = true := by simpa [Part.latches] using away
  simp [State.queueWrite, latches]

theorem qctlWrite_alive (up : s.alive (.port port) = true) : exec (.qctlWrite p q port v) s =
    .next (s.queueWrite p q (fun x => x.writeCtl port v) fun x => { x with latchCtl := some (v, port) }) :=
  congrArg Host.Outcome.next (if_pos up)

theorem qctlWrite_dead (dead : s.alive (.port port) = false) : exec (.qctlWrite p q port v) s = .next s :=
  congrArg Host.Outcome.next (if_neg (by simp [dead]))

theorem tailWrite_alive (up : s.anyPort = true) : exec (.tailWrite p q v) s =
    .next (s.queueWrite p q (fun x => x.writeTail v) fun x => { x with latchTail := some v }) :=
  congrArg Host.Outcome.next (if_pos up)

theorem tailWrite_dead (dead : s.anyPort = false) : exec (.tailWrite p q v) s = .next s :=
  congrArg Host.Outcome.next (if_neg (by simp [dead]))

/-! ### Registers of PF0 -/

theorem registerWrite_dead {r : HostReg} (dead : s.anyPort = false) : exec (.registerWrite r v) s = .next s :=
  if_pos (by simp [dead])

theorem registerWrite_down {r : HostReg} (down : s.hostUp = false) : exec (.registerWrite r v) s = .next s :=
  if_pos (by simp [down])

/-- What a write of PCMD leaves there (Table 22.6): bits 11:0 of the write, with BUSY. -/
def busyCommand (v : Word) : Word := (v &&& 0xFFF) ||| busyBit

theorem busyCommand_bit {i : Nat} (inside : i < 64) : (busyCommand v).getLsbD i = (v.getLsbD i && decide (i < 12) || decide (i = 63)) := by
  have mask : ∀ i < 64, (0xFFF : Word).getLsbD i = decide (i < 12) := by decide
  have busy : ∀ i < 64, busyBit.getLsbD i = decide (i = 63) := by decide
  simp only [busyCommand, BitVec.getLsbD_or, BitVec.getLsbD_and, mask i inside, busy i inside]

theorem busyCommand_command : (busyCommand v).extractLsb' 0 12 = v.extractLsb' 0 12 := by
  refine BitVec.eq_of_getLsbD_eq fun i low => ?_
  rw [BitVec.getLsbD_extractLsb', BitVec.getLsbD_extractLsb', Nat.zero_add, busyCommand_bit (by omega)]
  simp [low, show i ≠ 63 by omega]

theorem busyCommand_reserved : (busyCommand v).extractLsb' 12 51 = 0 := by
  refine BitVec.eq_of_getLsbD_eq fun i inside => ?_
  rw [BitVec.getLsbD_extractLsb', busyCommand_bit (by omega)]
  simp [show 12 + i ≠ 63 by omega]

theorem busyCommand_busy : (busyCommand v).getLsbD 63 = true := by
  rw [busyCommand_bit (by decide)]
  simp

theorem commandBusy_eq : s.commandBusy = s.pcmd.getLsbD 63 := by
  rw [State.commandBusy, busyBit, BitVec.and_twoPow]
  cases s.pcmd.getLsbD 63 <;> rfl

section
variable (hostUp : s.hostUp = true) (up : s.anyPort = true)
include hostUp up

theorem registers_up : ¬ (!s.hostUp || !s.anyPort) = true := by simp [hostUp, up]

theorem registerWrite_parg : exec (.registerWrite .parg v) s = .next { s with parg := v } := if_neg (registers_up hostUp up)

theorem registerWrite_pterm : exec (.registerWrite .pterm v) s = .next { s with pterm := s.pterm &&& ~~~ v.setWidth 16 } :=
  if_neg (registers_up hostUp up)

theorem registerWrite_pcmd : exec (.registerWrite .pcmd v) s = .next (if s.pcmd.getLsbD 63 then s else { s with pcmd := busyCommand v }) := by
  rw [← commandBusy_eq]
  exact if_neg (registers_up hostUp up)

theorem registerWrite_featreq : exec (.registerWrite .featreq v) s = .next (if s.featClosed then s else { s with featReq := v.setWidth 6 }) := by
  have written : exec (.registerWrite .featreq v) s = .next (s.writeFeatreq v) := if_neg (registers_up hostUp up)
  rw [written, State.writeFeatreq, hostUp, Bool.not_true, Bool.or_false]

theorem registerWrite_devctl2 : exec (.registerWrite (.devctl2 port) v) s = .next (s.writeDevctl2 port v) := if_neg (registers_up hostUp up)

theorem registerWrite_pstat : exec (.registerWrite .pstat v) s = .next s := if_neg (registers_up hostUp up)

theorem registerWrite_featsup : exec (.registerWrite .featsup v) s = .next s := if_neg (registers_up hostUp up)

theorem registerWrite_other (o : Nat) : exec (.registerWrite (.other o) v) s = .next s := if_neg (registers_up hostUp up)

end

/-! ### Doorbells -/

theorem mem_addSource {n a : Nat} {l : List Nat} : n ∈ addSource a l ↔ n = a ∨ n ∈ l := by
  induction l with
  | nil => simp [addSource]
  | cons b l ih =>
    unfold addSource
    split
    · simp
    · split
      · next same => simp [same]
      · rw [List.mem_cons, ih, List.mem_cons, or_left_comm]

/-- A hart with a source raised on it. -/
def withSource (src : Nat) (h : Hart) : Hart := { h with irqs := addSource src h.irqs, stall := false, sched := { h.sched with pauseUntil := none } }

theorem hart?_withSource {k : HartKey} {src : Nat} {h : Hart} (live : s.hart? k = some h) :
    (s.modHart k (withSource src)).hart? k = some (withSource src h) := by
  rw [hart?_modHart s k k (withSource src) fun _ => rfl, if_pos rfl, live]
  rfl

/-- A raised source is held with a hart that is not parked, and ends its stall and its pause (R447). -/
theorem raise_awake {k : HartKey} {src : Nat} {h : Hart} (live : s.hart? k = some h) (awake : h.sched.status ≠ .parked) :
    s.raise k src = s.modHart k (withSource src) := by
  have raised : s.raise k src = (s.modHart k (withSource src)).wake k := by
    rw [State.raise, live]
    rfl
  rw [raised, State.wake, hart?_withSource live]
  exact if_neg (by simpa [withSource] using awake)

theorem raise_none {k : HartKey} {src : Nat} (absent : s.hart? k = none) : s.raise k src = s := by
  rw [State.raise, absent]

theorem doorbell_alive (up : s.anyPort = true) :
    exec (.doorbell p v) s = .next (s.raise { part := partNo p, id := v.toNat % 2 ^ 32 } 2) :=
  congrArg Host.Outcome.next (if_pos up)

theorem doorbell_dead (dead : s.anyPort = false) : exec (.doorbell p v) s = .next s :=
  congrArg Host.Outcome.next (if_neg (by simp [dead]))

theorem doorbell_none (absent : s.hart? { part := partNo p, id := v.toNat % 2 ^ 32 } = none) : exec (.doorbell p v) s = .next s := by
  cases up : s.anyPort with
  | true => rw [doorbell_alive up, raise_none absent]
  | false => exact doorbell_dead up

theorem doorbell_raises {h : Hart} (up : s.anyPort = true) (live : s.hart? { part := partNo p, id := v.toNat % 2 ^ 32 } = some h)
    (awake : h.sched.status ≠ .parked) :
    ∃ t g, exec (.doorbell p v) s = .next t ∧ t.hart? h.key = some g ∧ (∀ n, n ∈ g.irqs ↔ n = 2 ∨ n ∈ h.irqs) ∧ g.x = h.x ∧ g.pc = h.pc ∧
      MemKept s t := by
  refine ⟨_, withSource 2 h, (doorbell_alive up).trans (congrArg _ (raise_awake live awake)), ?_, fun _ => mem_addSource, rfl, rfl, fun _ => rfl⟩
  rw [hart?_key live]
  exact hart?_withSource live

end

/-- Settles O52: the writes of a queue's registers by the state of its partition, the registers of PF0 one by one, the doorbell by the hart it
names. -/
theorem hostRegisters : Obligations.HostRegisters := by
  unfold Obligations.HostRegisters
  intro s p q port v x size
  refine ⟨fun up run => ⟨?qctl, ?tail⟩, fun up away => ⟨?qctlLatch, ?tailLatch⟩, qctlWrite_dead, fun dead0 dead1 => ?dead,
    fun hostUp up => ?registers, ⟨rfl, rfl, rfl, rfl, rfl, rfl⟩, fun _ => registerWrite_down,
    fun _ up => doorbell_raises (anyPort_of_alive up), doorbell_none⟩
  case qctl =>
    refine ⟨_, (qctlWrite_alive up).trans (congrArg _ (queueWrite_running run)), rfl, fun _ => rfl, ?_⟩
    rw [queue_modQueue]
    exact ⟨writeCtl_enabled port, writeCtl_idle port, writeCtl_enable port, writeCtl_badSize port⟩
  case tail =>
    refine ⟨_, (tailWrite_alive (anyPort_of_alive up)).trans (congrArg _ (queueWrite_running run)), rfl, fun _ => rfl, ?_⟩
    rw [queue_modQueue]
    exact ⟨writeTail_above, writeTail_within⟩
  case qctlLatch =>
    exact ⟨_, (qctlWrite_alive up).trans (congrArg _ (queueWrite_latched away)), fun _ => rfl, queue_modQueue _⟩
  case tailLatch =>
    exact ⟨_, (tailWrite_alive (anyPort_of_alive up)).trans (congrArg _ (queueWrite_latched away)), fun _ => rfl, queue_modQueue _⟩
  case dead =>
    have dead := anyPort_dead dead0 dead1
    exact ⟨tailWrite_dead dead, doorbell_dead dead, fun _ => registerWrite_dead dead⟩
  case registers =>
    have up := anyPort_of_alive up
    refine ⟨registerWrite_parg hostUp up, registerWrite_pterm hostUp up,
      fun idle => ⟨busyCommand v, ?_, busyCommand_command, busyCommand_reserved, busyCommand_busy, rfl⟩,
      fun busy => ?_, fun opened => ?_, fun closed => ?_,
      registerWrite_devctl2 hostUp up, registerWrite_pstat hostUp up, registerWrite_featsup hostUp up,
      registerWrite_other hostUp up⟩
    · rw [registerWrite_pcmd hostUp up, idle, if_neg Bool.false_ne_true]
    · rw [registerWrite_pcmd hostUp up, busy, if_pos rfl]
    · rw [registerWrite_featreq hostUp up, opened, if_neg Bool.false_ne_true]
    · rw [registerWrite_featreq hostUp up, closed, if_pos rfl]

end Sys2Proof.Claims.HostLaws

/-! PROOFS. Integer results (O7), branches (O8), indirect jumps (O15) and delegated traps (O19).

Each family has one body of the model (`intResult`, `branch`, and `indirect` below), and a lemma that says that an instruction of the family
runs that body with the operands that the statement names. What the body does is said once, so that no proof splits over the family twice. -/

namespace Sys2Proof.Claims.ControlLaws
open Sys2Proof.Machine Sys2Proof.Laws

/-! ### An instruction that changes its hart alone -/

theorem modHart_id (s : State) (k : HartKey) : s.modHart k id = s := by simp [State.modHart]

section
variable {s u : State} {h : Hart} {i : Instr} {body : State → Hart → Effect} {f : Hart → Hart}

theorem run_completes (r : Ready s h i) (e : body s h = .ok (s.modHart h.key f)) (key : ∀ g, (f g).key = g.key) :
    run i s body = .next (done s h i f) := by
  rw [run_ok r e, modHart_modHart s h.key f _ key]
  rfl

/-- The state that the body leaves may be another than the one it starts from: a landing check fetches. -/
theorem run_jumps {pc : Word} (r : Ready s h i) (e : body s h = .jump (u.modHart h.key f) pc) (key : ∀ g, (f g).key = g.key) :
    run i s body = .next (jumped u h i f pc) := by
  rw [run_jump r e, modHart_modHart u h.key f _ key]
  rfl

end

/-! ### Operands of the integer family: the model's functions as the rules write them -/

theorem flagWord_slt (a b : Word) : flagWord (a.slt b) = if a.toInt < b.toInt then 1 else 0 := by
  simp only [flagWord, BitVec.slt_eq_decide, decide_eq_true_eq]

theorem flagWord_ult (a b : Word) : flagWord (a.ult b) = if a.toNat < b.toNat then 1 else 0 := by
  simp only [flagWord, BitVec.ult_eq_decide, decide_eq_true_eq]

theorem minS_eq (a b : Word) : minS a b = if a.toInt < b.toInt then a else b := by
  simp only [minS, BitVec.slt_eq_decide, decide_eq_true_eq]

theorem maxS_eq (a b : Word) : maxS a b = if a.toInt < b.toInt then b else a := by
  simp only [maxS, BitVec.slt_eq_decide, decide_eq_true_eq]

theorem minU_eq (a b : Word) : minU a b = if a.toNat < b.toNat then a else b := by
  simp only [minU, BitVec.ult_eq_decide, decide_eq_true_eq]

theorem maxU_eq (a b : Word) : maxU a b = if a.toNat < b.toNat then b else a := by
  simp only [maxU, BitVec.ult_eq_decide, decide_eq_true_eq]

theorem divRemS_fst (a b : Word) : (divRemS a b).1 = if b = 0 then BitVec.allOnes 64
    else if a = BitVec.intMin 64 ∧ b = BitVec.allOnes 64 then BitVec.intMin 64 else BitVec.ofInt 64 (a.toInt.tdiv b.toInt) := by
  simp only [divRemS, wordOf, apply_ite Prod.fst]

theorem divRemS_snd (a b : Word) : (divRemS a b).2 = if b = 0 then a
    else if a = BitVec.intMin 64 ∧ b = BitVec.allOnes 64 then 0 else BitVec.ofInt 64 (a.toInt - b.toInt * a.toInt.tdiv b.toInt) := by
  simp only [divRemS, wordOf, apply_ite Prod.snd]

theorem divRemU_fst (a b : Word) : (divRemU a b).1 = if b = 0 then BitVec.allOnes 64 else BitVec.ofNat 64 (a.toNat / b.toNat) := by
  simp only [divRemU, apply_ite Prod.fst]

theorem divRemU_snd (a b : Word) : (divRemU a b).2 = if b = 0 then a else BitVec.ofNat 64 (a.toNat % b.toNat) := by
  simp only [divRemU, apply_ite Prod.snd]

/-! ### The integer family (R121 to R126, R135) -/

section
variable {s : State} {h : Hart} {i : Instr} {d : Reg} {v : Word} {r : Hart → Word}

/-- What an instruction of the family is: the shared body with a function of the hart, whose value is the one that the rules give. -/
def RunsInt (h : Hart) (i : Instr) (d : Reg) (v : Word) : Prop :=
  ∃ r : Hart → Word, r h = v ∧ ∀ s, exec i s = run i s (intResult i d r)

/-- The cases with a lemma are those where the model's function and the rule's words differ; the others are the same term. -/
theorem runsInt_of_intValue (e : intValue h i = some (d, v)) : RunsInt h i d v := by
  cases i <;> cases e
  case slt.refl => exact ⟨_, flagWord_slt _ _, fun _ => rfl⟩
  case sltn.refl => exact ⟨_, flagWord_ult _ _, fun _ => rfl⟩
  case min.refl => exact ⟨_, minS_eq _ _, fun _ => rfl⟩
  case max.refl => exact ⟨_, maxS_eq _ _, fun _ => rfl⟩
  case minn.refl => exact ⟨_, minU_eq _ _, fun _ => rfl⟩
  case maxn.refl => exact ⟨_, maxU_eq _ _, fun _ => rfl⟩
  case div.refl => exact ⟨_, divRemS_fst _ _, fun _ => rfl⟩
  case divn.refl => exact ⟨_, divRemU_fst _ _, fun _ => rfl⟩
  case rem.refl => exact ⟨_, divRemS_snd _ _, fun _ => rfl⟩
  case remn.refl => exact ⟨_, divRemU_snd _ _, fun _ => rfl⟩
  case slti.refl => exact ⟨_, flagWord_slt _ _, fun _ => rfl⟩
  all_goals exact ⟨_, rfl, fun _ => rfl⟩

/-- The test of `intResult` is the stack-limit check of R135. -/
theorem limited_iff : (d = 2 && h.level == .t && h.csr.stklim != 0 && v.ult h.csr.stklim) = true ↔ limited h d v := by
  simp only [limited, BitVec.ult_eq_decide, Bool.and_eq_true, decide_eq_true_eq, beq_iff_eq, bne_iff_ne, and_assoc]

theorem intResult_passes (n : ¬ limited h d (r h)) : intResult i d r s h = .ok (s.modHart h.key fun g => g.setX d (r h)) :=
  if_neg (mt limited_iff.mp n)

theorem intResult_traps (l : limited h d (r h)) : intResult i d r s h = .trap s (.scalar 0x0A (word0 i) (r h)) :=
  if_pos (limited_iff.mpr l)

theorem runsInt_completes (runs : RunsInt h i d v) (ready : Ready s h i) (pass : ¬ limited h d v) :
    exec i s = .next (done s h i fun g => g.setX d v) := by
  obtain ⟨r, rfl, exec_eq⟩ := runs
  rw [exec_eq s]
  exact run_completes ready (intResult_passes pass) fun g => setX_key g d (r h)

/-- The check applies at T alone, so that the trap waits for no entry of the queue. -/
theorem runsInt_traps (runs : RunsInt h i d v) (ready : Ready s h i) (stop : limited h d v) :
    exec i s = .next (trapped s h (.scalar 0x0A (word0 i) v)) := by
  obtain ⟨r, rfl, exec_eq⟩ := runs
  have ⟨_, atT, _⟩ := stop
  rw [exec_eq s]
  exact run_trap ready (intResult_traps stop) (.inl atT)

end

/-- Settles O7: every instruction of the family runs `intResult` (`runsInt_of_intValue`), which writes its result or traps. -/
theorem integerResults : Obligations.IntegerResults := by
  unfold Obligations.IntegerResults
  exact ⟨fun _ _ _ _ _ e => runsInt_completes (runsInt_of_intValue e), fun _ _ _ _ _ e => runsInt_traps (runsInt_of_intValue e)⟩

/-! ### Branches, j and call (R128, R129) -/

/-- The I format as its fields stand side by side (R53). -/
theorem wI_eq (major : BitVec 6) (a b : Reg) (off : BitVec 16) :
    wI major a b off = major ++ BitVec.ofNat 5 a.val ++ BitVec.ofNat 5 b.val ++ off := by
  have bits (r : Reg) : BitVec.ofNat 5 r.val = bits5 r := BitVec.eq_of_toNat_eq (Nat.mod_eq_of_lt r.isLt)
  rw [bits, bits, BitVec.append_assoc, BitVec.append_assoc]
  rfl

section
variable {s : State} {h : Hart} {i : Instr} {c : Prop} {off : BitVec 16} {taken : Hart → Bool}

/-- What a conditional branch is: the shared body with a test, which holds where the rule's condition does. -/
def RunsBranch (h : Hart) (i : Instr) (c : Prop) (off : BitVec 16) : Prop :=
  ∃ taken : Hart → Bool, (taken h = true ↔ c) ∧ ∀ s, exec i s = run i s (branch off taken)

theorem runsBranch_of_branchOf (e : branchOf h i = some (c, off)) : RunsBranch h i c off := by
  cases i <;> cases e
  case beq.refl => exact ⟨_, beq_iff_eq, fun _ => rfl⟩
  case bne.refl => exact ⟨_, bne_iff_ne, fun _ => rfl⟩
  case blt.refl => exact ⟨_, BitVec.slt_iff_toInt_lt, fun _ => rfl⟩
  case bge.refl => exact ⟨_, by simp [BitVec.slt_eq_decide], fun _ => rfl⟩
  case bltn.refl => exact ⟨_, BitVec.ult_iff_toNat_lt, fun _ => rfl⟩
  case bgen.refl => exact ⟨_, by simp [BitVec.ult_eq_decide], fun _ => rfl⟩

theorem branch_taken (t : taken h = true) : branch off taken s h = .jump (s.modHart h.key id) (h.pc + off.signExtend 64 * 4) := by
  rw [modHart_id]
  exact if_pos t

theorem branch_falls (t : ¬ taken h = true) : branch off taken s h = .ok (s.modHart h.key id) := by
  rw [modHart_id]
  exact if_neg t

end

/-- Settles O8: a branch runs `branch` with its condition (`runsBranch_of_branchOf`), and the encodings are fields side by side (`wI_eq`). -/
theorem branches : Obligations.Branches := by
  unfold Obligations.Branches
  refine ⟨fun s h i c off e ready => ?conditional, fun s h off => ⟨fun ready => ?j, fun ready => ?call⟩, fun h c a b off far => ?table⟩
  case conditional =>
    obtain ⟨taken, test, runs⟩ := runsBranch_of_branchOf e
    rw [runs s]
    exact ⟨fun holds => run_jumps ready (branch_taken (test.mpr holds)) fun _ => rfl,
      fun fails => run_completes ready (branch_falls (mt test.mp fails)) fun _ => rfl⟩
  case j => exact run_jump ready rfl
  case call => exact run_jumps ready rfl fun g => setX_key g 1 _
  case table =>
    have word (major : BitVec 6) := congrArg (fun w : Half => [w]) (wI_eq major a b off)
    exact ⟨⟨rfl, word 0x10, rfl⟩, ⟨rfl, word 0x11, rfl⟩, ⟨rfl, word 0x12, rfl⟩, ⟨rfl, word 0x13, rfl⟩, ⟨rfl, word 0x14, rfl⟩, ⟨rfl, word 0x15, rfl⟩,
      ⟨rfl, rfl⟩, rfl, rfl⟩

/-! ### The checks of an indirect jump (R130, R131, R134) -/

/-- What a landing check makes of the fetch of its target `t`: the last step of `jumpChecks` (`jumpChecks_checked`). -/
def landing (t : Word) (h : Hart) : Fetched → Landing
  | .trap s tr => .trap s { tr with addr := t }
  | .wait s => .wait s
  | .word s w =>
    if w ≠ landWord then .trap s (.scalar 0x0B (zext64 w) t)
    else .pass (s.modHart h.key fun g => { g with checked := (t, w) :: g.checked })

section
variable {s u : State} {h : Hart} {t : Word}

theorem jumpChecks_misaligned (odd : t &&& 3 ≠ 0) : jumpChecks t s h = .trap s (.scalar 0x04 0 t) := if_pos odd

theorem jumpChecks_unchecked (even : t &&& 3 = 0) (off : h.csr.cfien = false ∨ h.level ≠ .t) : jumpChecks t s h = .pass s := by
  have skip : (h.csr.cfien && h.level == .t) = false := by
    rcases off with off | off <;> simp [off]
  rw [jumpChecks, if_neg (not_not_intro even), skip, if_neg Bool.false_ne_true]

section
variable (even : t &&& 3 = 0) (on : h.csr.cfien = true) (atT : h.level = .t)
include even on atT

theorem jumpChecks_checked : jumpChecks t s h = landing t h (s.fetchGet h t) := by
  have check : (h.csr.cfien && h.level == .t) = true := by simp [on, atT]
  exact (if_neg (not_not_intro even)).trans (if_pos check)

theorem jumpChecks_landed (land : s.fetchGet h t = .word u landWord) :
    jumpChecks t s h = .pass (u.modHart h.key fun g => { g with checked := (t, landWord) :: g.checked }) := by
  rw [jumpChecks_checked even on atT, land, landing]
  exact if_neg (not_not_intro rfl)

theorem jumpChecks_noLand {w : Half} (word : s.fetchGet h t = .word u w) (other : w ≠ landWord) :
    jumpChecks t s h = .trap u (.scalar 0x0B (w.setWidth 64) t) := by
  rw [jumpChecks_checked even on atT, word, landing]
  exact if_pos other

theorem jumpChecks_fetchTrap {tr : Trap} (fails : s.fetchGet h t = .trap u tr) : jumpChecks t s h = .trap u { tr with addr := t } := by
  rw [jumpChecks_checked even on atT, fails, landing]

end

end

/-! ### jx and callx (R130) -/

/-- The body that jx and callx share: the checks of the target, then the link. -/
def indirect (a : Reg) (link : Hart → Hart → Hart) (s : State) (h : Hart) : Effect :=
  match jumpChecks (h.getX a) s h with
  | .trap s t => .trap s t
  | .wait s => .stall s
  | .pass s => .jump (s.modHart h.key (link h)) (h.getX a)

/-- The link of callx; that of jx is the identity. -/
def linkTo (d : Reg) (h g : Hart) : Hart := g.setX d (h.pc + 4)

/-- An instruction is an indirect jump through `a`, which keeps the hart's key. -/
def RunsIndirect (i : Instr) (a : Reg) (link : Hart → Hart → Hart) : Prop :=
  (∀ h g, (link h g).key = g.key) ∧ ∀ s, exec i s = run i s (indirect a link)

theorem runsIndirect_jx (a : Reg) : RunsIndirect (.jx a) a fun _ => id := by
  refine ⟨fun _ _ => rfl, fun s => ?_⟩
  refine congrArg (run (.jx a) s) (funext fun s => funext fun h => ?_)
  unfold indirect
  cases jumpChecks (h.getX a) s h with
  | trap u t => rfl
  | wait u => rfl
  | pass u => exact congrArg (Effect.jump · _) (modHart_id u h.key).symm

theorem runsIndirect_callx (d a : Reg) : RunsIndirect (.callx d a) a (linkTo d) :=
  ⟨fun _ g => setX_key g d _, fun _ => rfl⟩

section
variable {s u : State} {h : Hart} {i : Instr} {a : Reg} {link : Hart → Hart → Hart} (runs : RunsIndirect i a link) (ready : Ready s h i)
include runs ready

theorem indirect_passes (checks : jumpChecks (h.getX a) s h = .pass s) : exec i s = .next (jumped s h i (link h) (h.getX a)) := by
  obtain ⟨key, exec_eq⟩ := runs
  rw [exec_eq s]
  exact run_jumps ready (by rw [indirect, checks]) (key h)

/-- The word that has passed stays with the hart as the next one that it executes. -/
theorem indirect_lands (checks : jumpChecks (h.getX a) s h = .pass (u.modHart h.key fun g => { g with checked := (h.getX a, landWord) :: g.checked })) :
    exec i s = .next (jumped u h i (fun g => link h { g with checked := (h.getX a, landWord) :: g.checked }) (h.getX a)) := by
  obtain ⟨key, exec_eq⟩ := runs
  rw [exec_eq s]
  refine run_jumps ready ?_ fun _ => key h _
  rw [indirect, checks]
  exact congrArg (Effect.jump · _) (modHart_modHart u h.key _ (link h) fun _ => rfl)

theorem indirect_traps {t : Trap} (checks : jumpChecks (h.getX a) s h = .trap u t) (n : h.level = .t ∨ h.queue = []) :
    exec i s = .next (trapped u h t) := by
  obtain ⟨-, exec_eq⟩ := runs
  rw [exec_eq s]
  exact run_trap ready (by rw [indirect, checks]) n

end

/-! ### ret (R130, R450) and land (R132) -/

section
variable {s : State} {h : Hart} {a : Reg} (ready : Ready s h (.ret a))
include ready

theorem ret_misaligned (odd : h.getX a &&& 3 ≠ 0) (n : h.level = .t ∨ h.queue = []) :
    exec (.ret a) s = .next (trapped s h (.scalar 0x04 0 (h.getX a))) :=
  run_trap ready (if_pos odd) n

theorem ret_nothingHeld (even : h.getX a &&& 3 = 0) (free : h.held = .none ∨ h.level ≠ .t) :
    exec (.ret a) s = .next (jumped s h (.ret a) id (h.getX a)) := by
  have plain : (h.held == .none || h.level != .t) = true := by simpa using free
  exact run_jump ready ((if_neg (not_not_intro even)).trans (if_pos plain))

/-- A hart whose class holds what the trap has held needs no move. -/
theorem ret_releases {es : List Entry} (even : h.getX a &&& 3 = 0) (atT : h.level = .t) (held : h.held = .queue es) (empty : h.queue = [])
    (cls : h.cls.code = h.heldCls.toNat) :
    exec (.ret a) s = .next (jumped s h (.ret a) (fun g => g.release (es.map Entry.saved)) (h.getX a)) := by
  have entries : s.heldEntries h = es.map Entry.saved := by simp [State.heldEntries, held]
  refine run_jumps ready ((if_neg (not_not_intro even)).trans ?_) fun _ => rfl
  simp [atT, held, empty, cls, entries]

end

theorem land_moves_on {s : State} {h : Hart} (ready : Ready s h .land) : exec .land s = .next (done s h .land id) :=
  run_ok ready rfl

/-- Settles O15: jx and callx are one body (`indirect`), which the checks of the target decide; ret and land have their own. -/
theorem indirectJumps : Obligations.IndirectJumps := by
  unfold Obligations.IndirectJumps
  refine ⟨fun s h d a even => ⟨?jx, ?callx, fun u on atT land => ?landed, fun r free => ret_nothingHeld r even free,
    fun es r atT held empty cls => ret_releases r even atT held empty cls⟩,
    fun s h a r n odd => ret_misaligned r odd n, fun s h => land_moves_on, fun s h d a i form r n => ?traps⟩
  case jx => exact fun r off => indirect_passes (runsIndirect_jx a) r (jumpChecks_unchecked even off)
  case callx => exact fun r off => indirect_passes (runsIndirect_callx d a) r (jumpChecks_unchecked even off)
  case landed =>
    have checks := jumpChecks_landed even on atT land
    exact ⟨fun r => indirect_lands (runsIndirect_jx a) r checks, fun r => indirect_lands (runsIndirect_callx d a) r checks⟩
  case traps =>
    obtain ⟨link, runs⟩ : ∃ link, RunsIndirect i a link := by
      rcases form with rfl | rfl
      · exact ⟨_, runsIndirect_jx a⟩
      · exact ⟨_, runsIndirect_callx d a⟩
    exact ⟨fun odd => indirect_traps runs r (jumpChecks_misaligned odd) n, fun even on atT =>
      ⟨fun u w word other => indirect_traps runs r (jumpChecks_noLand even on atT word other) n,
        fun u t fails => indirect_traps runs r (jumpChecks_fetchTrap even on atT fails) n⟩⟩

/-! ### Delegated traps (R136, R137, R139, R458) -/

section
variable {s : State} {h : Hart} {t : Trap}

theorem delegates_iff {c : BitVec 8} : h.delegates c = true ↔ h.level = .t ∧ h.csr.udeleg.getLsbD c.toNat = true ∧ h.csr.uvec ≠ 0 ∧
    (c = 0x0A ∨ c = 0x0B ∨ c = 0x0F ∨ c = 0x10 ∨ c = 0x11) := by
  simp only [Hart.delegates, Bool.and_eq_true, Bool.or_eq_true, beq_iff_eq, bne_iff_ne, and_assoc, or_assoc]
  exact ⟨fun ⟨atT, cause, bit, vec⟩ => ⟨atT, bit, vec, cause⟩, fun ⟨atT, bit, vec, cause⟩ => ⟨atT, cause, bit, vec⟩⟩

theorem enterU_csr : (h.enterU t).csr = { h.csr with ucause := t.cause, uepc := h.pc, uinfo := t.info, uaddr := t.addr } := rfl

theorem enterU_stepDue : (h.enterU t).sched.stepDue = if h.csr.step then some (h.stepInfo t) else none := rfl

/-- The hart that has entered a delegated trap. -/
theorem trap_delegated_hart (e : s.hart? h.key = some h) (d : h.delegates t.cause = true) : (s.trap h.key t).hart? h.key = some (h.enterU t) := by
  rw [trap_delegated e d, hart?_modHart s h.key h.key _ fun g => enterU_key g t, if_pos rfl, e]
  rfl

end

/-- Settles O19: what is delegated (`delegates_iff`), and the hart that enters (`trap_delegated_hart`). -/
theorem delegatedTrap : Obligations.DelegatedTrap := by
  unfold Obligations.DelegatedTrap
  refine ⟨fun h c => delegates_iff, fun s h t e => trap_not_delegated e, fun s h t e atT vec bit cause => ?_⟩
  refine ⟨h.enterU t, trap_delegated_hart e (delegates_iff.mpr ⟨atT, bit, vec, cause⟩), enterU_pc h t, atT, enterU_csr, enterU_x h t,
    enterU_f h t, enterU_queue h t, fun off => ?_, fun on => ?_⟩
  · rw [enterU_stepDue, off, if_neg Bool.false_ne_true]
  · rw [enterU_stepDue, on, if_pos rfl]

end Sys2Proof.Claims.ControlLaws
